-- ==== Sys2Proof/Word.lean ====
section
/-! DEFINITION. The word types of the FN9640 and their plainest arithmetic. -/
namespace Sys2Proof

/-- One byte of memory, a tag, an event or cause code. -/
abbrev Byte := BitVec 8
/-- One lane of a vector register, a lane mask, a predicate. -/
abbrev Word := BitVec 32
/-- The value part of a scalar register, an address offset. -/
abbrev DWord := BitVec 64
/-- A tagged address: tag in bits 71:64, offset in bits 63:0 (R149). -/
abbrev Addr := BitVec 72

/-- The n bytes of `v`, lowest first: the FN9640 is little-endian (R1). -/
def bytesOf : Nat → Nat → List Byte
  | 0, _ => []
  | n + 1, v => BitVec.ofNat 8 v :: bytesOf n (v / 256)

/-- The number whose bytes, lowest first, are `bs` (R1). -/
def natOf : List Byte → Nat
  | [] => 0
  | b :: bs => b.toNat + 256 * natOf bs

/-- The n-bit field of `v` whose lowest bit is `lo`. -/
def field (v lo n : Nat) : Nat := v / 2 ^ lo % 2 ^ n

end Sys2Proof
end

