-- ==== Sys2Proof/Syntax.lean ====
section
/-! DEFINITION. The instructions of spec/opcode_table.json, one constructor per row: sixteen compact forms, six EXT
prefixes, the 32-bit instructions, and the events of the part that the table lists without an encoding. A field is
named as the format picture of R52 names it; a field the row fixes at 0 is no field of the constructor. -/
namespace Sys2Proof

/-- Operands: compact form, two registers (R50). -/
structure CReg where
  vs : BitVec 5
  vd : BitVec 6
  deriving DecidableEq, Repr, Inhabited

/-- Operands: compact form with an immediate (R50). -/
structure CImm where
  imm : BitVec 5
  vd : BitVec 6
  deriving DecidableEq, Repr, Inhabited

/-- Operands: format V: two sources (R52). -/
structure VF where
  tb : BitVec 1
  ta : BitVec 1
  h : BitVec 1
  kp : BitVec 2
  vb : BitVec 6
  va : BitVec 6
  vd : BitVec 6
  deriving DecidableEq, Repr, Inhabited

/-- Operands: format V: one source. -/
structure VU where
  ta : BitVec 1
  h : BitVec 1
  kp : BitVec 2
  va : BitVec 6
  vd : BitVec 6
  deriving DecidableEq, Repr, Inhabited

/-- Operands: format VI: a source and imm7. -/
structure VI where
  imm : BitVec 7
  ta : BitVec 1
  h : BitVec 1
  kp : BitVec 2
  va : BitVec 6
  vd : BitVec 6
  deriving DecidableEq, Repr, Inhabited

/-- Operands: format VL. -/
structure VL where
  imm : BitVec 16
  vd : BitVec 6
  deriving DecidableEq, Repr, Inhabited

/-- Operands: VCVT: selector and rounding mode (R113). -/
structure VC where
  ta : BitVec 1
  h : BitVec 1
  kp : BitVec 2
  sel : BitVec 6
  va : BitVec 6
  vd : BitVec 6
  rm : BitVec 2
  deriving DecidableEq, Repr, Inhabited

/-- Operands: VSFU: function and accuracy (R121). -/
structure VS where
  ta : BitVec 1
  h : BitVec 1
  kp : BitVec 2
  fn : BitVec 6
  va : BitVec 6
  vd : BitVec 6
  fast : BitVec 1
  deriving DecidableEq, Repr, Inhabited

/-- Operands: format V with imm6 in the vb field (R126). -/
structure VX where
  ta : BitVec 1
  h : BitVec 1
  kp : BitVec 2
  imm : BitVec 6
  va : BitVec 6
  vd : BitVec 6
  deriving DecidableEq, Repr, Inhabited

/-- Operands: format S: three fields. -/
structure S3 where
  sb : BitVec 6
  sa : BitVec 6
  sd : BitVec 6
  deriving DecidableEq, Repr, Inhabited

/-- Operands: format S: two fields. -/
structure S2 where
  sa : BitVec 6
  sd : BitVec 6
  deriving DecidableEq, Repr, Inhabited

/-- Operands: scalar ALU with the .w bit (R116). -/
structure SW3 where
  sb : BitVec 6
  sa : BitVec 6
  sd : BitVec 6
  w : BitVec 1
  deriving DecidableEq, Repr, Inhabited

/-- Operands: scalar ALU, one source, with the .w bit. -/
structure SW2 where
  sa : BitVec 6
  sd : BitVec 6
  w : BitVec 1
  deriving DecidableEq, Repr, Inhabited

/-- Operands: formats SI and MS. -/
structure SI where
  imm : BitVec 10
  sa : BitVec 6
  sd : BitVec 6
  deriving DecidableEq, Repr, Inhabited

/-- Operands: format SL. -/
structure SL where
  imm : BitVec 16
  sd : BitVec 6
  deriving DecidableEq, Repr, Inhabited

/-- Operands: format B. -/
structure BR where
  disp : BitVec 16
  sa : BitVec 6
  deriving DecidableEq, Repr, Inhabited

/-- Operands: format M: a load. -/
structure ML where
  split : BitVec 1
  ord : BitVec 2
  kp : BitVec 2
  va : BitVec 6
  sa : BitVec 6
  vd : BitVec 6
  deriving DecidableEq, Repr, Inhabited

/-- Operands: format M: a store. -/
structure MS where
  ord : BitVec 2
  kp : BitVec 2
  va : BitVec 6
  sa : BitVec 6
  vd : BitVec 6
  deriving DecidableEq, Repr, Inhabited

/-- Operands: format M without order (majors 0x25 and 0x39). -/
structure ME where
  kp : BitVec 2
  va : BitVec 6
  sa : BitVec 6
  vd : BitVec 6
  deriving DecidableEq, Repr, Inhabited

/-- Operands: format X: three fields. -/
structure X3 where
  sb : BitVec 6
  sa : BitVec 6
  d : BitVec 6
  deriving DecidableEq, Repr, Inhabited

/-- Operands: format X with f3. -/
structure XF where
  f3 : BitVec 3
  sb : BitVec 6
  sa : BitVec 6
  d : BitVec 6
  deriving DecidableEq, Repr, Inhabited

/-- Operands: format X with f3 bit 0. -/
structure XG where
  g : BitVec 1
  sb : BitVec 6
  sa : BitVec 6
  d : BitVec 6
  deriving DecidableEq, Repr, Inhabited

/-- Operands: format A. -/
structure AF where
  ret : BitVec 1
  ord : BitVec 2
  va : BitVec 6
  sa : BitVec 6
  vd : BitVec 6
  aop : BitVec 4
  deriving DecidableEq, Repr, Inhabited

/-- Operands: SATOM (R200). -/
structure SA where
  aop : BitVec 4
  sb : BitVec 6
  sa : BitVec 6
  sd : BitVec 6
  w : BitVec 1
  deriving DecidableEq, Repr, Inhabited

/-- Operands: MMA (R217). -/
structure MM where
  bs : BitVec 1
  sb : BitVec 6
  sa : BitVec 6
  pair : BitVec 1
  z : BitVec 1
  t : BitVec 4
  ty : BitVec 4
  deriving DecidableEq, Repr, Inhabited

/-- Operands: a tile instruction with f3 and a scalar. -/
structure TF where
  f3 : BitVec 3
  sa : BitVec 6
  t : BitVec 4
  deriving DecidableEq, Repr, Inhabited

/-- Operands: format Y with all three fields. -/
structure YF where
  imm : BitVec 7
  a : BitVec 6
  d : BitVec 6
  deriving DecidableEq, Repr, Inhabited

/-- Operands: format V with the signedness bits of major 0x0A (R71). -/
structure VDot where
  tb : BitVec 1
  ta : BitVec 1
  h : BitVec 1
  gb : BitVec 1
  ga : BitVec 1
  vb : BitVec 6
  va : BitVec 6
  vd : BitVec 6
  deriving DecidableEq, Repr, Inhabited

/-- What another member of a collective group brings to one collective (R245-R248): whether it takes part or was
reset (`gone`), and its command's kind, group, bytes and s[sb+2], with the bytes of its buffer and the positions of those
marked poisoned (R148). -/
structure CollMember where
  gone : Bool
  isRed : Bool
  group : Nat
  bytes : Nat
  param : DWord
  data : List Byte
  bad : List Nat
  deriving DecidableEq, Repr, Inhabited

/-- One write of the supervisor into the rewind buffer of a suspended wave (R41, R356). -/
inductive SnapEdit where
  | vec (r lane : Nat) (val : Word)
  | vecState (r : Nat) (poison : Word)
  | scalar (r : Nat) (tag : Byte) (val : DWord)
  | scalarState (r : Nat) (poison : Bool)
  | masks (lanes exm : Word)
  | pred (k : Nat) (val : Word)
  | rng (k : DWord) (c : BitVec 96)
  | stat (val : BitVec 3)
  | obsd (val : Byte)
  | piste (val : BitVec 6)
  | held (val : Bool)
  | dry (val : Bool)
  | tiles (val : BitVec 16)
  | rcpc (val : DWord)
  /-- the RWP's own address and the one after it -/
  | pcs (rwp next : DWord)
  deriving DecidableEq, Repr, Inhabited

/-- One write of the supervisor into the state of a suspended wave (R356). -/
inductive WaveEdit where
  | scalar (frag r : Nat) (tag : Byte) (val : DWord)
  | vec (r lane : Nat) (val : Word)
  | pred (k : Nat) (val : Word)
  | trapScalar (r : Nat) (tag : Byte) (val : DWord)
  | trapVec (r lane : Nat) (val : Word)
  | pc (frag : Nat) (val : DWord)
  | epc (frag : Nat) (val : DWord)
  | exm (frag : Nat) (val : Word)
  | obsd (val : Byte)
  | rngk (val : DWord)
  | rngc (val : BitVec 96)
  | stat (val : BitVec 3)
  | path (val : BitVec 42)
  | piste (val : BitVec 6)
  | lanes (frag : Nat) (val : Word)
  /-- the open groups, innermost first: epoch, carving -/
  | joins (frag : Nat) (open_ : List (Nat × Bool))
  | scalarState (frag r : Nat) (poison : Bool)
  | vecState (r : Nat) (poison : Word)
  | trapScalarState (r : Nat) (poison : Bool)
  | trapVecState (r : Nat) (poison : Word)
  | trapc (val : BitVec 17)
  | trapa (val : Addr)
  | trapl (val : Word)
  | ac (n : Nat) (val : BitVec 16)
  | dry (val : Bool)
  | snap (e : SnapEdit)
  /-- the wave holds an extended block, or none -/
  | block (held : Bool)
  /-- port q's binding: bank and peer role -/
  | port (q : Nat) (bind : Option (Nat × Option Nat))
  deriving DecidableEq, Repr, Inhabited

/-- What the supervisor gives a virtual device at its creation (R409 step 6, R404, R402, R275). -/
structure VdParams where
  vd : Nat
  part : Nat
  cls : BitVec 2
  /-- in ticks; 0 where none is given -/
  slice : Nat
  /-- page-table roots of tags 0x00, 0x01, 0x02 and 0xF0 -/
  roots : List Nat
  /-- free pages of the KV pool and of the tree-node pool, by address -/
  pool : List Nat
  nodePool : List Nat
  /-- the HBM pages the device holds (64 KiB numbers) -/
  pages : List Nat
  /-- entries the pin overflow store can hold -/
  overflow : Nat
  /-- 64 KiB pages of the context area and of the overflow store (R399) -/
  context : List Nat
  overflowAt : List Nat
  deriving DecidableEq, Repr, Inhabited

/-- An entry of the group binding tables (R270): die, logical unit (clusters 0-19, slices 20-83), V, PHYS. -/
structure BindEnt where
  die : Nat
  unit : Nat
  v : Bool
  phys : BitVec 7
  deriving DecidableEq, Repr, Inhabited

/-- The signed configuration record (R408): the part's identity, the group binding tables, the stack map, the lane repairs
and the power ceilings. The spec gives all but the tables no layout. -/
structure Record where
  identity : Nat
  binds : List BindEnt
  stackMap : List Nat
  repairs : List Nat
  ceilings : List Nat
  deriving DecidableEq, Repr, Inhabited

/-- A half of a device line that a host request names: its virtual device, the I-die it comes to, the half's address / 64
(R379, R401). -/
structure HostHalf where
  vd : Nat
  idie : Nat
  half : Nat
  deriving DecidableEq, Repr, Inhabited

/-- What an ACK or NAK flit says: virtual channel and ACKSEQ (R386, R387). -/
structure FlitAck where
  vc : BitVec 2
  seq : BitVec 12
  deriving DecidableEq, Repr, Inhabited

/-- A KILL answer: the gang, and the suspended wave it answers, or none for an engine fault or a HALT (R357). -/
structure KillAnswer where
  gang : Nat
  wave : Option Nat
  deriving DecidableEq, Repr, Inhabited

/-- A vrelas object as dmt loads it (R413, R418): the bytes that stand from its CODE address on, the recipe table first; where in
them the kernel's first instruction stands; the task types; what the load prints; whether stop reports give offsets. -/
structure DmtObject where
  bytes : List Byte
  first : Nat := 4096
  types : List (Nat × BitVec 128) := []
  roles : Nat := 1
  regs : Nat := 40
  tiles : Nat := 0
  bindings : Nat := 0
  recipes : Nat := 0
  offsets : Bool := false
  deriving DecidableEq, Repr, Inhabited

/-- What `mem` prints (R412): elements of 1, 2, 4, 8 or 16 bytes; `/hbm`. -/
structure DmtMemForm where
  size : Nat := 1
  hbm : Bool := false
  deriving DecidableEq, Repr, Inhabited

/-- What `rink` prints (R425): the rink; or layer, first position and count of positions of it. -/
structure DmtRinkForm where
  rink : Nat
  rows : Option (Nat × Nat × Nat) := none
  deriving DecidableEq, Repr, Inhabited

/-- Directory and bridge states of a 64-byte half other than I; `m` stands for EM at the directory (R379, R381). -/
inductive HalfSt where
  | s
  | e
  | m
  deriving DecidableEq, Repr, Inhabited

/-- A host request for a half line (R379, R382): a shared read; an ownership request, with the data the host then
holds; a write-back or MemWr of the masked bytes, with the state the request leaves the half in. -/
inductive HostReq where
  | sharedRead
  | ownership (data : List Byte)
  | memWr (data : List Byte) (mask : DWord) (after : Option HalfSt)
  deriving DecidableEq, Repr, Inhabited

/-- A fabric flit: 8-byte header, 240 bytes of payload, 8-byte CRC (R386). -/
structure Flit where
  hdr : DWord
  payload : List Byte
  crc : DWord
  deriving DecidableEq, Repr, Inhabited

/-- What an inbound peer access asks for. -/
inductive PeerKind where
  | read (n : Nat)
  | write (data : List Byte)
  | atomic (aop n : Nat) (data : List Byte)
  /-- an ABANDON flit (R392): a member of the group was reset -/
  | abandon (group : Nat)
  deriving DecidableEq, Repr, Inhabited

/-- An inbound peer access (R390): its source, the virtual device it names, what it asks for and the offset in the tag
0x00 table. The spec gives a flit's payload no layout, so the event says what its payload asks for. -/
structure PeerAcc where
  fabid : Nat
  vd : Nat
  rvd : Nat
  kind : PeerKind
  off : DWord
  /-- its order and mask at the source (R391): 0 weak, 1 .x, 2 .acq, 3 .rel, 4 .ar -/
  ord : BitVec 3
  mask : BitVec 5
  deriving DecidableEq, Repr, Inhabited

/-- One constructor per row of the opcode table. -/
inductive Instr where
  /-- C_MOV (R50) -/
  | cMov (f : CReg)
  /-- C_ADD (R50) -/
  | cAdd (f : CReg)
  /-- C_SUB (R50) -/
  | cSub (f : CReg)
  /-- C_MUL (R50) -/
  | cMul (f : CReg)
  /-- C_AND (R50) -/
  | cAnd (f : CReg)
  /-- C_OR (R50) -/
  | cOr (f : CReg)
  /-- C_XOR (R50) -/
  | cXor (f : CReg)
  /-- C_SHL (R50) -/
  | cShl (f : CReg)
  /-- C_SHRZ (R50) -/
  | cShrz (f : CReg)
  /-- C_ADDI (R50) -/
  | cAddi (f : CImm)
  /-- C_SHLI (R50) -/
  | cShli (f : CImm)
  /-- C_FADD (R50) -/
  | cFadd (f : CReg)
  /-- C_FSUB (R50) -/
  | cFsub (f : CReg)
  /-- C_FMUL (R50) -/
  | cFmul (f : CReg)
  /-- C_FMAX (R50) -/
  | cFmax (f : CReg)
  /-- C_FMIN (R50) -/
  | cFmin (f : CReg)
  /-- IMMX (R54) -/
  | immx (payload : BitVec 21)
  /-- OBS (R54) -/
  | obs (ord : BitVec 3) (mask : BitVec 5)
  /-- HINT (R54) -/
  | hint (h : BitVec 3)
  /-- REP (R54) -/
  | rep (stepB : BitVec 1) (stepA : BitVec 1) (stride : BitVec 2) (cnt : BitVec 6)
  /-- ROLE (R54) -/
  | role (r : BitVec 6)
  /-- PREDX (R54) -/
  | predx (neg : BitVec 1) (k : BitVec 3)
  /-- VADD (R104) -/
  | vadd (f : VF)
  /-- VSUB (R104) -/
  | vsub (f : VF)
  /-- VADDSS (R104) -/
  | vaddss (f : VF)
  /-- VADDSZ (R104) -/
  | vaddsz (f : VF)
  /-- VMUL (R104) -/
  | vmul (f : VF)
  /-- VMULHS (R104) -/
  | vmulhs (f : VF)
  /-- VMULHZ (R104) -/
  | vmulhz (f : VF)
  /-- VMAD (R104) -/
  | vmad (f : VF)
  /-- VAND (R104) -/
  | vand (f : VF)
  /-- VOR (R104) -/
  | vor (f : VF)
  /-- VXOR (R104) -/
  | vxor (f : VF)
  /-- VANDN (R104) -/
  | vandn (f : VF)
  /-- VSHL (R104) -/
  | vshl (f : VF)
  /-- VSHRZ (R104) -/
  | vshrz (f : VF)
  /-- VSHRS (R104) -/
  | vshrs (f : VF)
  /-- VROT (R104) -/
  | vrot (f : VF)
  /-- VCMPEQ (R105) -/
  | vcmpeq (f : VF)
  /-- VCMPLTS (R105) -/
  | vcmplts (f : VF)
  /-- VCMPLTZ (R105) -/
  | vcmpltz (f : VF)
  /-- VCMPLES (R105) -/
  | vcmples (f : VF)
  /-- VMINS (R104) -/
  | vmins (f : VF)
  /-- VMAXS (R104) -/
  | vmaxs (f : VF)
  /-- VMINZ (R104) -/
  | vminz (f : VF)
  /-- VMAXZ (R104) -/
  | vmaxz (f : VF)
  /-- VSEL (R106) -/
  | vsel (f : VF)
  /-- VBCST (R106) -/
  | vbcst (kp : BitVec 2) (sa : BitVec 6) (vd : BitVec 6)
  /-- VLANE (R106) -/
  | vlane (kp : BitVec 2) (vd : BitVec 6)
  /-- VPOPC (R106) -/
  | vpopc (f : VU)
  /-- VADDI (R107) -/
  | vaddi (f : VI)
  /-- VANDI (R107) -/
  | vandi (f : VI)
  /-- VSHLI (R107) -/
  | vshli (f : VI)
  /-- VSHRZI (R107) -/
  | vshrzi (f : VI)
  /-- VMOVI (R107) -/
  | vmovi (imm : BitVec 7) (kp : BitVec 2) (vd : BitVec 6)
  /-- VMULI (R107) -/
  | vmuli (f : VI)
  /-- VSHRSI (R107) -/
  | vshrsi (f : VI)
  /-- VXORI (R107) -/
  | vxori (f : VI)
  /-- VDOT4 (R114) -/
  | vdot4 (f : VDot)
  /-- VDOT8 (R114) -/
  | vdot8 (f : VDot)
  /-- VDOT4S (R114) -/
  | vdot4s (f : VDot)
  /-- VDOT8S (R114) -/
  | vdot8s (f : VDot)
  /-- VCMPEQI (R108) -/
  | vcmpeqi (f : VI)
  /-- VCMPLTSI (R108) -/
  | vcmpltsi (f : VI)
  /-- VCMPLTZI (R108) -/
  | vcmpltzi (f : VI)
  /-- VCMPGTSI (R108) -/
  | vcmpgtsi (f : VI)
  /-- VFADD (R110) -/
  | vfadd (f : VF)
  /-- VFSUB (R110) -/
  | vfsub (f : VF)
  /-- VFMUL (R110) -/
  | vfmul (f : VF)
  /-- VFMA (R110) -/
  | vfma (f : VF)
  /-- VFMIN (R110) -/
  | vfmin (f : VF)
  /-- VFMAX (R110) -/
  | vfmax (f : VF)
  /-- VFABS (R110) -/
  | vfabs (f : VU)
  /-- VFNEG (R110) -/
  | vfneg (f : VU)
  /-- VFCMPEQ (R111) -/
  | vfcmpeq (f : VF)
  /-- VFCMPLT (R111) -/
  | vfcmplt (f : VF)
  /-- VFCMPLE (R111) -/
  | vfcmple (f : VF)
  /-- VFCMPUN (R111) -/
  | vfcmpun (f : VF)
  /-- VHFMA (R112) -/
  | vhfma (f : VF)
  /-- VBFMA (R112) -/
  | vbfma (f : VF)
  /-- VHMUL (R112) -/
  | vhmul (f : VF)
  /-- VBMUL (R112) -/
  | vbmul (f : VF)
  /-- VHADD (R112) -/
  | vhadd (f : VF)
  /-- VBADD (R112) -/
  | vbadd (f : VF)
  /-- VHMAX (R112) -/
  | vhmax (f : VF)
  /-- VBMAX (R112) -/
  | vbmax (f : VF)
  /-- VMOVW (R109) -/
  | vmovw (f : VL)
  /-- VMOVWZ (R109) -/
  | vmovwz (f : VL)
  /-- VFMOVB (R109) -/
  | vfmovb (f : VL)
  /-- VMOVHI (R109) -/
  | vmovhi (f : VL)
  /-- VCVT (R113) -/
  | vcvt (f : VC)
  /-- VSFU (R121) -/
  | vsfu (f : VS)
  /-- VRAND (R346) -/
  | vrand (kp : BitVec 2) (vd : BitVec 6)
  /-- VRANDF (R346) -/
  | vrandf (kp : BitVec 2) (vd : BitVec 6)
  /-- VGUMB (R346) -/
  | vgumb (f : VU)
  /-- VRADV (R347) -/
  | vradv (sa : BitVec 6)
  /-- VSHFL (R126) -/
  | vshfl (f : VF)
  /-- VSHFLX (R126) -/
  | vshflx (f : VX)
  /-- VSHFLUP (R126) -/
  | vshflup (f : VX)
  /-- VSHFLDN (R126) -/
  | vshfldn (f : VX)
  /-- VREDADD (R128) -/
  | vredadd (f : VU)
  /-- VREDMAXS (R128) -/
  | vredmaxs (f : VU)
  /-- VREDFADD (R128) -/
  | vredfadd (f : VU)
  /-- VREDFMAX (R128) -/
  | vredfmax (f : VU)
  /-- VBALLOT (R129) -/
  | vballot (f : VU)
  /-- VANY (R129) -/
  | vany (f : VU)
  /-- VALL (R129) -/
  | vall (f : VU)
  /-- VFIRST (R129) -/
  | vfirst (f : VU)
  /-- KAND (R115) -/
  | kand (f : S3)
  /-- KOR (R115) -/
  | kor (f : S3)
  /-- KXOR (R115) -/
  | kxor (f : S3)
  /-- KANDN (R115) -/
  | kandn (f : S3)
  /-- KNOT (R115) -/
  | knot (f : S2)
  /-- KFROMS (R115) -/
  | kfroms (f : S2)
  /-- KTOS (R115) -/
  | ktos (f : S2)
  /-- KPOPC (R115) -/
  | kpopc (f : S2)
  /-- SADD (R116) -/
  | sadd (f : SW3)
  /-- SSUB (R116) -/
  | ssub (f : SW3)
  /-- SMUL (R116) -/
  | smul (f : SW3)
  /-- SMULHS (R116) -/
  | smulhs (f : SW3)
  /-- SMULHZ (R116) -/
  | smulhz (f : SW3)
  /-- SAND (R116) -/
  | sand (f : SW3)
  /-- SOR (R116) -/
  | sor (f : SW3)
  /-- SXOR (R116) -/
  | sxor (f : SW3)
  /-- SSHL (R116) -/
  | sshl (f : SW3)
  /-- SSHRZ (R116) -/
  | sshrz (f : SW3)
  /-- SSHRS (R116) -/
  | sshrs (f : SW3)
  /-- SMINS (R116) -/
  | smins (f : SW3)
  /-- SMAXS (R116) -/
  | smaxs (f : SW3)
  /-- SDIVZ (R116) -/
  | sdivz (f : SW3)
  /-- SREMZ (R116) -/
  | sremz (f : SW3)
  /-- SCLZ (R116) -/
  | sclz (f : SW2)
  /-- SADDI (R117) -/
  | saddi (f : SI)
  /-- SANDI (R117) -/
  | sandi (f : SI)
  /-- SORI (R117) -/
  | sori (f : SI)
  /-- SXORI (R117) -/
  | sxori (f : SI)
  /-- SSHLI (R117) -/
  | sshli (f : SI)
  /-- SSHRZI (R117) -/
  | sshrzi (f : SI)
  /-- SSHRSI (R117) -/
  | sshrsi (f : SI)
  /-- SMULI (R117) -/
  | smuli (f : SI)
  /-- SMOVI (R118) -/
  | smovi (f : SL)
  /-- SMOVIZ (R118) -/
  | smoviz (f : SL)
  /-- SMOVH16 (R118) -/
  | smovh16 (f : SL)
  /-- SMOVH32 (R118) -/
  | smovh32 (f : SL)
  /-- SMOVH48 (R118) -/
  | smovh48 (f : SL)
  /-- STAGI (R118) -/
  | stagi (tag : BitVec 8) (sd : BitVec 6)
  /-- SADDI16 (R118) -/
  | saddi16 (f : SL)
  /-- ADDA (R119) -/
  | adda (f : S3)
  /-- SUBA (R119) -/
  | suba (f : S3)
  /-- GETTAG (R119) -/
  | gettag (f : S2)
  /-- SETTAG (R119) -/
  | settag (f : S3)
  /-- SEQ (R120) -/
  | seq (f : S3)
  /-- SNE (R120) -/
  | sne (f : S3)
  /-- SLTS (R120) -/
  | slts (f : S3)
  /-- SLES (R120) -/
  | sles (f : S3)
  /-- SLTZ (R120) -/
  | sltz (f : S3)
  /-- SLEZ (R120) -/
  | slez (f : S3)
  /-- BZ (R136) -/
  | bz (f : BR)
  /-- BNZ (R136) -/
  | bnz (f : BR)
  /-- BLZ (R136) -/
  | blz (f : BR)
  /-- BGEZ (R136) -/
  | bgez (f : BR)
  /-- BKANY (R136) -/
  | bkany (f : BR)
  /-- BKALL (R136) -/
  | bkall (f : BR)
  /-- BKNONE (R136) -/
  | bknone (f : BR)
  /-- BRV (R137) -/
  | brv (f : BR)
  /-- JMP (R138) -/
  | jmp (disp : BitVec 24)
  /-- CALL (R138) -/
  | call (disp : BitVec 24)
  /-- JR (R139) -/
  | jr (sa : BitVec 6)
  /-- CALLR (R139) -/
  | callr (sa : BitVec 6)
  /-- RET (R139) -/
  | ret
  /-- JOIN (R141) -/
  | join
  /-- EXIT (R142) -/
  | exit
  /-- YIELD (R143) -/
  | yield
  /-- NOP32 (R143) -/
  | nop32
  /-- BKPT (R143) -/
  | bkpt (code : BitVec 7)
  /-- ELECT (R144) -/
  | elect (sd : BitVec 6)
  /-- VLD_B32 (R162) -/
  | vldB32 (f : ML)
  /-- VLD_B64 (R162) -/
  | vldB64 (f : ML)
  /-- VLD_B128 (R162) -/
  | vldB128 (f : ML)
  /-- VLD_B16Z (R162) -/
  | vldB16z (f : ML)
  /-- VLD_B8Z (R162) -/
  | vldB8z (f : ML)
  /-- VLD_B8S (R162) -/
  | vldB8s (f : ML)
  /-- VLD_B16S (R162) -/
  | vldB16s (f : ML)
  /-- VST_B32 (R162) -/
  | vstB32 (f : MS)
  /-- VST_B64 (R162) -/
  | vstB64 (f : MS)
  /-- VST_B128 (R162) -/
  | vstB128 (f : MS)
  /-- VST_B16 (R162) -/
  | vstB16 (f : MS)
  /-- VST_B8 (R162) -/
  | vstB8 (f : MS)
  /-- VLDL_B32 (R165) -/
  | vldlB32 (f : ME)
  /-- VLDL_B128 (R165) -/
  | vldlB128 (f : ME)
  /-- VSTL_B32 (R165) -/
  | vstlB32 (f : ME)
  /-- VSTL_B128 (R165) -/
  | vstlB128 (f : ME)
  /-- SLD_B64 (R167) -/
  | sldB64 (f : SI)
  /-- SLD_B32Z (R167) -/
  | sldB32z (f : SI)
  /-- SLD_B32S (R167) -/
  | sldB32s (f : SI)
  /-- SLD_B8Z (R167) -/
  | sldB8z (f : SI)
  /-- SST_B64 (R167) -/
  | sstB64 (f : SI)
  /-- SST_B32 (R167) -/
  | sstB32 (f : SI)
  /-- SST_B8 (R167) -/
  | sstB8 (f : SI)
  /-- SLDA (R167) -/
  | slda (f : SI)
  /-- SSTA (R167) -/
  | ssta (f : SI)
  /-- SLDL (R167) -/
  | sldl (f : SI)
  /-- SSTL (R167) -/
  | sstl (f : SI)
  /-- CLEAN (R169) -/
  | clean (f : X3)
  /-- INVAL (R169) -/
  | inval (f : X3)
  /-- CLNINV (R169) -/
  | clninv (f : X3)
  /-- PREF (R171) -/
  | pref (sb : BitVec 6) (sa : BitVec 6)
  /-- BANKMODE (R174) -/
  | bankmode (mode : BitVec 3) (sa : BitVec 6) (d : BitVec 6)
  /-- L1DROP (R172) -/
  | l1drop
  /-- MSVADD_BF16 (R175) -/
  | msvaddBf16 (f : X3)
  /-- MSVADD_F32 (R175) -/
  | msvaddF32 (f : X3)
  /-- MSVMUL_BF16 (R175) -/
  | msvmulBf16 (f : X3)
  /-- MSVFILL (R175) -/
  | msvfill (f : X3)
  /-- MSVCOPY (R175) -/
  | msvcopy (f : X3)
  /-- ATOM (R198) -/
  | atom (f : AF)
  /-- ATOM64 (R198) -/
  | atom64 (f : AF)
  /-- ATOMPK (R198) -/
  | atompk (f : AF)
  /-- SATOM (R200) -/
  | satom (f : SA)
  /-- ATOMIC_PERFORM (R183) -/
  | atomicPerform (id k : Nat)
  /-- FENCE (R203) -/
  | fence (ord : BitVec 2) (mask : BitVec 5)
  /-- OPRDY (R220) -/
  | oprdy
  /-- FENCEI (R173) -/
  | fencei
  /-- WAITC (R341) -/
  | waitc (n : BitVec 7) (cls : BitVec 6)
  /-- WAITR (R341) -/
  | waitr (scalar : BitVec 1) (d : BitVec 6)
  /-- WAITA (R341) -/
  | waita (f : YF)
  /-- MMA (R218) -/
  | mma (f : MM)
  /-- MZERO (R222) -/
  | mzero (t : BitVec 4)
  /-- MLDT (R222) -/
  | mldt (f : TF)
  /-- MSTT (R223) -/
  | mstt (f : TF)
  /-- MSAVE (R222) -/
  | msave (sa : BitVec 6) (t : BitVec 4)
  /-- MREST (R222) -/
  | mrest (sa : BitVec 6) (t : BitVec 4)
  /-- MSCALE (R222) -/
  | mscale (f : TF)
  /-- MATRIX_OP_START (R217) -/
  | matrixOpStart (id : Nat)
  /-- MATRIX_OP_RETIRE (R218) -/
  | matrixOpRetire (id : Nat)
  /-- CPYG2L (R238) -/
  | cpyg2l (f : XF)
  /-- CPYL2G (R238) -/
  | cpyl2g (f : XF)
  /-- CPYG2G (R238) -/
  | cpyg2g (f : XF)
  /-- CPYGATH (R238) -/
  | cpygath (f : XF)
  /-- CPYL2L (R238) -/
  | cpyl2l (f : XF)
  /-- CPYRK (R293) -/
  | cpyrk (f : XF)
  /-- COLLARED (R246) -/
  | collared (f : XF)
  /-- COLLBC (R246) -/
  | collbc (f : XF)
  /-- COPY_COMMAND_START (R237) -/
  | copyCommandStart (id : Nat)
  /-- COPY_PART_LAND (R241) -/
  | copyPartLand (id : Nat)
  /-- COLLECTIVE_COMPLETE (R248) -/
  | collectiveComplete (id : Nat) (members : List CollMember)
  /-- SYNCINIT (R338) -/
  | syncinit (a : BitVec 6) (d : BitVec 6)
  /-- SYNCWAIT (R338) -/
  | syncwait (a : BitVec 6) (d : BitVec 6)
  /-- SYNCADD (R338) -/
  | syncadd (a : BitVec 6) (d : BitVec 6)
  /-- BARWARR (R336) -/
  | barwarr (f : YF)
  /-- BARWWAIT (R336) -/
  | barwwait (a : BitVec 6) (d : BitVec 6)
  /-- NBARINIT (R333) -/
  | nbarinit (b : BitVec 7) (d : BitVec 6)
  /-- NBARARR (R333) -/
  | nbararr (b : BitVec 7)
  /-- NBARWAIT (R333) -/
  | nbarwait (b : BitVec 7)
  /-- NBARSYNC (R333) -/
  | nbarsync (b : BitVec 7)
  /-- QCFG (R233) -/
  | qcfg (a : BitVec 6) (d : BitVec 6)
  /-- QTRY (R234) -/
  | qtry (sd : BitVec 6) (q : BitVec 6) (d : BitVec 6)
  /-- QPEEK (R234) -/
  | qpeek (sd : BitVec 6) (q : BitVec 6) (d : BitVec 6)
  /-- QCLOSE (R235) -/
  | qclose (q : BitVec 6)
  /-- CQFENCE (R243) -/
  | cqfence (all : BitVec 1) (n : BitVec 3)
  /-- RDEP (R250) -/
  | rdep (n : BitVec 2) (sa : BitVec 6) (d : BitVec 6)
  /-- DEPOSIT_DELIVERY (R250) -/
  | depositDelivery (id : Nat)
  /-- TASKNEW (R263) -/
  | tasknew (f : X3)
  /-- TASKDEP (R264) -/
  | taskdep (f : X3)
  /-- TASKGET (R265) -/
  | taskget (d : BitVec 6)
  /-- TASKDONE (R266) -/
  | taskdone (sa : BitVec 6) (d : BitVec 6)
  /-- LNCH (R268) -/
  | lnch (f : X3)
  /-- VPART (R131) -/
  | vpart (n : BitVec 7)
  /-- VXACQ (R132) -/
  | vxacq
  /-- VXREL (R133) -/
  | vxrel
  /-- XWAIT (R132) -/
  | xwait (w : Nat)
  /-- SETOBS (R205) -/
  | setobs (ord : BitVec 2) (mask : BitVec 5)
  /-- RWP (R375) -/
  | rwp (r : BitVec 7)
  /-- EXMASK (R135) -/
  | exmask (mode : BitVec 7) (a : BitVec 6)
  /-- SETRNG (R348) -/
  | setrng (a : BitVec 6) (d : BitVec 6)
  /-- PIN (R324) -/
  | pin (a : BitVec 6) (n : BitVec 6)
  /-- UNPIN (R325) -/
  | unpin (n : BitVec 6)
  /-- RECL (R326) -/
  | recl (f : YF)
  /-- PINRD (R327) -/
  | pinrd (n : BitVec 6) (d : BitVec 6)
  /-- GROOMER_SWEEP (R321) -/
  | groomerSweep (vd : Nat)
  /-- RKLD_K (R279) -/
  | rkldK (f : ME)
  /-- RKLD_V (R279) -/
  | rkldV (f : ME)
  /-- RKST_K (R279) -/
  | rkstK (f : ME)
  /-- RKST_V (R279) -/
  | rkstV (f : ME)
  /-- RKALLOC (R282) -/
  | rkalloc (f : XG)
  /-- RKPUB (R283) -/
  | rkpub (f : X3)
  /-- RKACQ (R284) -/
  | rkacq (f : X3)
  /-- RKSNAP (R285) -/
  | rksnap (f : XG)
  /-- RKVOID (R286) -/
  | rkvoid (f : X3)
  /-- RKPAGE (R291) -/
  | rkpage (f : XG)
  /-- RKINFO (R292) -/
  | rkinfo (f : X3)
  /-- SLDESC (R300) -/
  | sldesc (sa : BitVec 6) (d : BitVec 6)
  /-- SLEXP (R305) -/
  | slexp (f : X3)
  /-- SLBACK (R303) -/
  | slback (f : X3)
  /-- SLPICK (R307) -/
  | slpick (f : X3)
  /-- SLROOT (R308) -/
  | slroot (f : X3)
  /-- SLPRUNE (R308) -/
  | slprune (f : X3)
  /-- SLREAD (R310) -/
  | slread (f : X3)
  /-- SLNEW (R309) -/
  | slnew (f : X3)
  /-- SLCFG (R311) -/
  | slcfg (f : X3)
  /-- TRAP (R368) -/
  | trap (code : BitVec 7)
  /-- RETT (R369) -/
  | rett
  /-- SRD (R370) -/
  | srd (r : BitVec 7) (d : BitVec 6)
  /-- SWR (R371) -/
  | swr (r : BitVec 7) (a : BitVec 6)
  /-- WFE (R372) -/
  | wfe (f : YF)
  /-- WFE_TIMEOUT (R372) -/
  | wfeTimeout (w f : Nat)
  /-- EVSIG (R373) -/
  | evsig (code : BitVec 7) (a : BitVec 6)
  /-- TIME (R344) -/
  | time (sd : BitVec 6)
  /-- HALT (R374) -/
  | halt (code : BitVec 7)
  /-- RESULT_DELIVERY (R93) -/
  | resultDelivery (id : Nat)
  /-- SFU_RESULT (R124) -/
  | sfuResult (id : Nat)
  /-- STORE_PERFORM (R181) -/
  | storePerform (id k : Nat)
  /-- OWN_LEASE_RETURN (R184) -/
  | ownLeaseReturn (line : Nat)
  /-- LEASE_REQUEST_RETRY (R187) -/
  | leaseRequestRetry (line core : Nat)
  /-- LEASE_SWEEP (R178) -/
  | leaseSweep (core : Nat)
  /-- MAINTENANCE_DONE (R170) -/
  | maintenanceDone (id : Nat)
  /-- MSV_COMPLETE (R177) -/
  | msvComplete (id : Nat)
  /-- TLB_INVALIDATE (R154) -/
  | tlbInvalidate (vd : Nat) (tag : Byte) (off : DWord)
  /-- PAGER_PROMOTE (R160) -/
  | pagerPromote (vd : Nat) (off : DWord) (newPa : Nat)
  /-- WRIDX_WRITE (R253) -/
  | wridxWrite (vd stream value : Nat)
  /-- LAUNCH_TAKE (R254) -/
  | launchTake (vd stream : Nat) (dev : Bool)
  /-- GANG_PLACE (R259) -/
  | gangPlace (part : Nat)
  /-- PLACEMENT_STARVATION (R259) -/
  | placementStarvation (gang : Nat)
  /-- EQ_RD_WRITE (R395) -/
  | eqRdWrite (vd : Option Nat) (value : Nat)
  /-- FLAGS_SET (R395) -/
  | flagsSet (vd : Nat) (v : BitVec 16)
  /-- LODGE_NOW (R395) -/
  | lodgeNow (vd : Nat)
  /-- SOFT_RESET (R406) -/
  | softReset (vd : Nat)
  /-- CLEAR_RESET (R406) -/
  | clearReset (vd : Nat)
  /-- FUNCTION_LEVEL_RESET (R406) -/
  | functionLevelReset (vd : Nat)
  /-- SUPERVISOR_RESET_REQUEST (R406) -/
  | supervisorResetRequest (vd : Nat) (clear : Bool)
  /-- RESET_COMPLETE (R406) -/
  | resetComplete (vd : Nat)
  /-- REGISTER_WRITE (R6) -/
  | registerWrite (vd off : Nat) (v : DWord) (mask : Byte)
  /-- COMMAND_REGION_READ (R398) -/
  | commandRegionRead (vd off : Nat)
  /-- LIFT_COMPLETE (R404) -/
  | liftComplete (vd : Nat)
  /-- LODGE (R404) -/
  | lodge (vd : Nat)
  /-- SLICE_END (R402) -/
  | sliceEnd (vd : Nat)
  /-- CONTEXT_IMAGE_WRITE (R365) -/
  | contextImageWrite (gang : Nat)
  /-- GANG_RESUME (R45) -/
  | gangResume (gang : Nat)
  /-- OVERRUN_WATCHDOG (R367) -/
  | overrunWatchdog (gang : Nat)
  /-- OVERRUN_KILL (R367) -/
  | overrunKill (gang : Nat)
  /-- SUSPENSION_WATCHDOG (R356) -/
  | suspensionWatchdog (w : Nat)
  /-- REPLAY_WATCHDOG (R361) -/
  | replayWatchdog (gang : Nat)
  /-- SUPERVISOR_RESUME (R356) -/
  | supervisorResume (w : Nat) (edits : List WaveEdit)
  /-- SUPERVISOR_KILL (R356) -/
  | supervisorKill (k : KillAnswer)
  /-- REPLAY (R360) -/
  | replay (gang : Nat)
  /-- CONTINUE (R374) -/
  | continueHalt (gang : Nat)
  /-- UMAREK_LAUNCH (R65) -/
  | umarekLaunch (vd stream : Nat) (block : DWord) (seq : Word) (serial : Bool)
  /-- CREATE_RINK (R273) -/
  | createRink (vd h : Nat) (desc : BitVec 512)
  /-- DESTROY_RINK (R275) -/
  | destroyRink (vd h : Nat)
  /-- CREATE_TREE (R294) -/
  | createTree (vd t : Nat) (desc : BitVec 512)
  /-- TRAP_VECTOR_WRITE (R351) -/
  | trapVectorWrite (vd cause : Nat) (entry : BitVec 128)
  /-- RANGE_ENTRY_WRITE (R158) -/
  | rangeEntryWrite (ctrl : Option Nat) (idx : Nat) (ctl base limit : DWord)
  /-- RECLAIM_ACTION_WRITE (R318) -/
  | reclaimActionWrite (vd idx : Nat) (entry : BitVec 128)
  /-- TASK_TYPE_LOAD (R260) -/
  | taskTypeLoad (vd idx : Nat) (entry : BitVec 128)
  /-- GROUP_CONFIGURE (R392) -/
  | groupConfigure (vd g : Nat) (entry : DWord)
  /-- PEER_SLOT_WRITE (R389) -/
  | peerSlotWrite (vd slot : Nat) (entry : DWord)
  /-- INBOUND_GRANT_WRITE (R390) -/
  | inboundGrantWrite (vd idx : Nat) (grant : Option (Nat × Nat))
  /-- PEER_LINK_JOIN (R385) -/
  | peerLinkJoin (link : Nat) (ports : List Nat)
  /-- SET_PARTITIONS (R409) -/
  | setPartitions (parts : List (List Nat))
  /-- CREATE_VD (R409) -/
  | createVd (p : VdParams)
  /-- MEMORY_SLICE_MOVE (R403) -/
  | memorySliceMove (src dst : Nat)
  /-- CHUNK_BUSY (R403) -/
  | chunkBusy (page : Nat)
  /-- CHUNK_COPIED (R403) -/
  | chunkCopied (page : Nat)
  /-- BTBASE_SET (R271) -/
  | btbaseSet (die vd : Nat) (base : DWord) (launch : Nat)
  /-- STEAL (R272) -/
  | steal (die : Nat)
  /-- STEAL_FINISH (R272) -/
  | stealFinish (die : Nat)
  /-- RECORDING_SET (R410) -/
  | recordingSet (vd : Nat) (on : Bool)
  /-- RERUN (R410) -/
  | rerun (vd stream : Nat)
  /-- HOST_SHARED_READ (R379): the device the request belongs to and the I-die it comes through (R400, R401) -/
  | hostSharedRead (vd idie half : Nat)
  /-- HOST_OWNERSHIP_REQUEST (R379) -/
  | hostOwnershipRequest (vd idie half : Nat) (data : List Byte)
  /-- HOST_WRITEBACK (R379) -/
  | hostWriteback (vd idie half : Nat) (data : List Byte) (mask : DWord) (after : Option HalfSt)
  /-- BISNP_RETRY (R382) -/
  | bisnpRetry (half : HostHalf) (req : HostReq) (inv : Bool)
  /-- HOST_SNOOP (R381) -/
  | hostSnoop (half : Nat) (inv : Bool)
  /-- UCIE_MODULE_FAIL (R377) -/
  | ucieModuleFail (m : Nat)
  /-- UCIE_MODULE_TRAIN (R398) -/
  | ucieModuleTrain (m : Nat)
  /-- FLIT_RECEIVE (R387) -/
  | flitReceive (port : Nat) (flit : Flit) (acc : Option PeerAcc)
  /-- ACK (R387) -/
  | ack (port : Nat) (a : FlitAck)
  /-- NAK (R387) -/
  | nak (port : Nat) (a : FlitAck)
  /-- RATE (R388) -/
  | rate (port : Nat) (vc : BitVec 2) (rate : BitVec 16)
  /-- RATE_TIMER (R388) -/
  | rateTimer (port : Nat)
  /-- PORT_RETRAIN (R387) -/
  | portRetrain (port : Nat) (ok : Bool)
  /-- LINK_DOWN (R393) -/
  | linkDown (link : Nat)
  /-- SCRUB (R406) -/
  | scrub (page : Nat)
  /-- POWER_CEILING (R15) -/
  | powerCeiling (mhz : Nat)
  /-- ISLAND_FREQUENCY_CHANGE (R14) -/
  | islandFrequencyChange (island mhz : Nat)
  /-- POWER_GOOD (R409) -/
  | powerGood (record : Option Record) (modules : BitVec 4)
  /-- WARM_START (R409) -/
  | warmStart (record : Option Record) (modules : BitVec 4)
  /-- RECOVERY_IMAGE (R408): the record on the module with it, none where it does not verify -/
  | recoveryImage (image : Option Record)
  /-- DMT_LOAD (R413) -/
  | dmtLoad (vd : Nat) (code : Nat) (bytes : DmtObject) (data : Nat) (image : List Byte)
  /-- DMT_LAUNCH (R413) -/
  | dmtLaunch (vd stream : Nat) (block : List Byte) (addr : DWord) (seq : Word)
  /-- DMT_BREAK (R413) -/
  | dmtBreak (vd : Nat) (at_ : DWord) (w : Option Nat)
  /-- DMT_RUN (R413) -/
  | dmtRun (vd : Nat) (w : Option Nat)
  /-- DMT_STEP (R413) -/
  | dmtStep (w n : Nat)
  /-- DMT_REGS (R413) -/
  | dmtRegs (w f : Nat) (scalars vectors : List Nat)
  /-- DMT_KPRED (R413) -/
  | dmtKpred (w k : Nat)
  /-- DMT_WAVES (R425) -/
  | dmtWaves (vd : Nat)
  /-- DMT_MEM (R412): n elements -/
  | dmtMem (vd : Nat) (addr : BitVec 72) (n : Nat) (hbm : DmtMemForm)
  /-- DMT_MEM_DIR (R421) -/
  | dmtMemDir (vd : Nat) (addr : BitVec 72) (n : Nat)
  /-- DMT_TRACE (R421): the lines of n bytes of a device from an address; or, with none, `trace show` -/
  | dmtTrace (on : Option Nat) (lo : BitVec 72) (n : Nat)
  /-- DMT_WATCH (R413) -/
  | dmtWatch (vd : Nat) (addr : BitVec 72) (n : Nat)
  /-- DMT_INJECT_PREEMPT (R413) -/
  | dmtInjectPreempt (vd : Nat)
  /-- DMT_INJECT_FAULT (R413) -/
  | dmtInjectFault (w cause : Nat)
  /-- DMT_VECTOR (R428) -/
  | dmtVector (vd cause : Nat) (addr : DWord)
  /-- DMT_SLALOM (R428) -/
  | dmtSlalom (vd t : Nat)
  /-- DMT_PINS (R428) -/
  | dmtPins (vd : Nat)
  /-- DMT_RINK (R425) -/
  | dmtRink (vd : Nat) (h : DmtRinkForm)
  /-- PEER_LINK_TRAIN (R393) -/
  | peerLinkTrain (link : Nat)
  /-- UNCORRECTABLE_ERROR (R148) -/
  | uncorrectableError (key n : Nat)
  /-- DESTROY_TREE (R406) -/
  | destroyTree (vd t : Nat)
  /-- ROOT_CHANGE (R154) -/
  | rootChange (vd : Nat) (tag : Byte) (root : Nat)
  /-- HOST_ACCESS_WINDOW_GRANT (R152) -/
  | hostAccessWindowGrant (windows : List (Nat × Nat))
  /-- FABRIC_RATE_CAP (R388) -/
  | fabricRateCap (vd cap : Nat)
  deriving DecidableEq, Repr

end Sys2Proof
end

