-- ==== Sys2Proof/Machine/Encoding.lean ====
section
/-! DEFINITION. The static rules of encodings: which operand values of an instruction are no instruction (R59), and
which prefix is accepted before which instruction (R54, R55). -/
namespace Sys2Proof
namespace Encoding

/-- The field holds a number below `n`. -/
def below {w : Nat} (n : Nat) (b : BitVec w) : Bool := b.toNat < n
/-- H = 1 is not accepted with va naming a queue port (R56). -/
def latchOk (h : BitVec 1) (va : BitVec 6) : Bool := h == 0 || below 56 va
/-- A vector pair: even, and not reaching into the queue ports (R56). -/
def pair (r : BitVec 6) : Bool := r.toNat % 2 == 0 && below 56 r
/-- A vector quad: a multiple of 4, and not reaching into the queue ports (R56). -/
def quad (r : BitVec 6) : Bool := r.toNat % 4 == 0 && below 56 r
/-- `n` consecutive scalars from `r` that do not pass s63. -/
def run (r : BitVec 6) (n : Nat) : Bool := r.toNat + n ≤ 64

end Encoding

open Encoding in
/-- The operand values the spec gives the instruction a meaning for; every other encoding raises ILL (R59). -/
def Instr.legal : Instr → Bool
  | .cMov f => !(f.vd == 0 && f.vs == 0)
  | .cAdd _ => true
  | .cSub _ => true
  | .cMul _ => true
  | .cAnd _ => true
  | .cOr _ => true
  | .cXor _ => true
  | .cShl _ => true
  | .cShrz _ => true
  | .cAddi _ => true
  | .cShli _ => true
  | .cFadd _ => true
  | .cFsub _ => true
  | .cFmul _ => true
  | .cFmax _ => true
  | .cFmin _ => true
  | .immx _ => true
  | .obs ord mask => if ord == 0 then mask == 0 else below 5 ord && mask != 0
  | .hint h => below 5 h
  | .rep _ _ _ _ => true
  | .role _ => true
  | .predx _ _ => true
  | .vadd f => latchOk f.h f.va
  | .vsub f => latchOk f.h f.va
  | .vaddss f => latchOk f.h f.va
  | .vaddsz f => latchOk f.h f.va
  | .vmul f => latchOk f.h f.va
  | .vmulhs f => latchOk f.h f.va
  | .vmulhz f => latchOk f.h f.va
  | .vmad f => latchOk f.h f.va
  | .vand f => latchOk f.h f.va
  | .vor f => latchOk f.h f.va
  | .vxor f => latchOk f.h f.va
  | .vandn f => latchOk f.h f.va
  | .vshl f => latchOk f.h f.va
  | .vshrz f => latchOk f.h f.va
  | .vshrs f => latchOk f.h f.va
  | .vrot f => latchOk f.h f.va
  | .vcmpeq f => latchOk f.h f.va && below 8 f.vd
  | .vcmplts f => latchOk f.h f.va && below 8 f.vd
  | .vcmpltz f => latchOk f.h f.va && below 8 f.vd
  | .vcmples f => latchOk f.h f.va && below 8 f.vd
  | .vmins f => latchOk f.h f.va
  | .vmaxs f => latchOk f.h f.va
  | .vminz f => latchOk f.h f.va
  | .vmaxz f => latchOk f.h f.va
  | .vsel f => latchOk f.h f.va
  | .vbcst _ _ _ => true
  | .vlane _ _ => true
  | .vpopc f => latchOk f.h f.va
  | .vaddi f => latchOk f.h f.va
  | .vandi f => latchOk f.h f.va
  | .vshli f => latchOk f.h f.va
  | .vshrzi f => latchOk f.h f.va
  | .vmovi _ _ _ => true
  | .vmuli f => latchOk f.h f.va
  | .vshrsi f => latchOk f.h f.va
  | .vxori f => latchOk f.h f.va
  | .vdot4 f => latchOk f.h f.va
  | .vdot8 f => latchOk f.h f.va
  | .vdot4s f => latchOk f.h f.va
  | .vdot8s f => latchOk f.h f.va
  | .vcmpeqi f => latchOk f.h f.va && below 8 f.vd
  | .vcmpltsi f => latchOk f.h f.va && below 8 f.vd
  | .vcmpltzi f => latchOk f.h f.va && below 8 f.vd
  | .vcmpgtsi f => latchOk f.h f.va && below 8 f.vd
  | .vfadd f => latchOk f.h f.va
  | .vfsub f => latchOk f.h f.va
  | .vfmul f => latchOk f.h f.va
  | .vfma f => latchOk f.h f.va
  | .vfmin f => latchOk f.h f.va
  | .vfmax f => latchOk f.h f.va
  | .vfabs f => latchOk f.h f.va
  | .vfneg f => latchOk f.h f.va
  | .vfcmpeq f => latchOk f.h f.va && below 8 f.vd
  | .vfcmplt f => latchOk f.h f.va && below 8 f.vd
  | .vfcmple f => latchOk f.h f.va && below 8 f.vd
  | .vfcmpun f => latchOk f.h f.va && below 8 f.vd
  | .vhfma f => latchOk f.h f.va
  | .vbfma f => latchOk f.h f.va
  | .vhmul f => latchOk f.h f.va
  | .vbmul f => latchOk f.h f.va
  | .vhadd f => latchOk f.h f.va
  | .vbadd f => latchOk f.h f.va
  | .vhmax f => latchOk f.h f.va
  | .vbmax f => latchOk f.h f.va
  | .vmovw _ => true
  | .vmovwz _ => true
  | .vfmovb _ => true
  | .vmovhi _ => true
  | .vcvt f => latchOk f.h f.va && below 48 f.sel
  | .vsfu f => latchOk f.h f.va && below 8 f.fn
  | .vrand _ _ => true
  | .vrandf _ _ => true
  | .vgumb f => latchOk f.h f.va
  | .vradv _ => true
  | .vshfl f => latchOk f.h f.va
  | .vshflx f => latchOk f.h f.va
  | .vshflup f => latchOk f.h f.va
  | .vshfldn f => latchOk f.h f.va
  | .vredadd f => latchOk f.h f.va
  | .vredmaxs f => latchOk f.h f.va
  | .vredfadd f => latchOk f.h f.va
  | .vredfmax f => latchOk f.h f.va
  | .vballot f => latchOk f.h f.va
  | .vany f => latchOk f.h f.va
  | .vall f => latchOk f.h f.va
  | .vfirst f => latchOk f.h f.va
  | .kand f => below 8 f.sb && below 8 f.sa && below 8 f.sd
  | .kor f => below 8 f.sb && below 8 f.sa && below 8 f.sd
  | .kxor f => below 8 f.sb && below 8 f.sa && below 8 f.sd
  | .kandn f => below 8 f.sb && below 8 f.sa && below 8 f.sd
  | .knot f => below 8 f.sa && below 8 f.sd
  | .kfroms f => below 8 f.sd
  | .ktos f => below 8 f.sa
  | .kpopc f => below 8 f.sa
  | .sadd _ => true
  | .ssub _ => true
  | .smul _ => true
  | .smulhs _ => true
  | .smulhz _ => true
  | .sand _ => true
  | .sor _ => true
  | .sxor _ => true
  | .sshl _ => true
  | .sshrz _ => true
  | .sshrs _ => true
  | .smins _ => true
  | .smaxs _ => true
  | .sdivz _ => true
  | .sremz _ => true
  | .sclz _ => true
  | .saddi _ => true
  | .sandi _ => true
  | .sori _ => true
  | .sxori _ => true
  | .sshli _ => true
  | .sshrzi _ => true
  | .sshrsi _ => true
  | .smuli _ => true
  | .smovi _ => true
  | .smoviz _ => true
  | .smovh16 _ => true
  | .smovh32 _ => true
  | .smovh48 _ => true
  | .stagi _ _ => true
  | .saddi16 _ => true
  | .adda _ => true
  | .suba _ => true
  | .gettag _ => true
  | .settag _ => true
  | .seq _ => true
  | .sne _ => true
  | .slts _ => true
  | .sles _ => true
  | .sltz _ => true
  | .slez _ => true
  | .bz _ => true
  | .bnz _ => true
  | .blz _ => true
  | .bgez _ => true
  | .bkany f => below 8 f.sa
  | .bkall f => below 8 f.sa
  | .bknone f => below 8 f.sa
  | .brv f => below 8 f.sa
  | .jmp _ => true
  | .call _ => true
  | .jr _ => true
  | .callr _ => true
  | .ret => true
  | .join => true
  | .exit => true
  | .yield => true
  | .nop32 => true
  | .bkpt _ => true
  | .elect _ => true
  | .vldB32 f => f.ord != 3
  | .vldB64 f => f.ord != 3 && pair f.vd
  | .vldB128 f => f.ord != 3 && quad f.vd
  | .vldB16z f => f.ord != 3
  | .vldB8z f => f.ord != 3
  | .vldB8s f => f.ord != 3
  | .vldB16s f => f.ord != 3
  | .vstB32 f => f.ord != 2
  | .vstB64 f => f.ord != 2 && pair f.vd
  | .vstB128 f => f.ord != 2 && quad f.vd
  | .vstB16 f => f.ord != 2
  | .vstB8 f => f.ord != 2
  | .vldlB32 _ => true
  | .vldlB128 f => quad f.vd
  | .vstlB32 _ => true
  | .vstlB128 f => quad f.vd
  | .sldB64 _ => true
  | .sldB32z _ => true
  | .sldB32s _ => true
  | .sldB8z _ => true
  | .sstB64 _ => true
  | .sstB32 _ => true
  | .sstB8 _ => true
  | .slda _ => true
  | .ssta _ => true
  | .sldl _ => true
  | .sstl _ => true
  | .clean _ => true
  | .inval _ => true
  | .clninv _ => true
  | .pref _ _ => true
  | .bankmode mode _ _ => below 3 mode
  | .l1drop => true
  | .msvaddBf16 f => run f.sb 3
  | .msvaddF32 f => run f.sb 3
  | .msvmulBf16 f => run f.sb 3
  | .msvfill f => run f.sb 2
  | .msvcopy f => run f.sb 2
  | .atom f => below 15 f.aop && below 56 f.va && (if f.aop == 9 then pair f.vd else below 56 f.vd)
  | .atom64 f => below 10 f.aop && below 56 f.va && (if f.aop == 9 then quad f.vd else pair f.vd)
  | .atompk f => below 56 f.va && pair f.vd
  | .satom f => below 15 f.aop && (f.w == 1 || !(f.aop == 10 || f.aop == 11 || f.aop == 12)) && (f.aop != 9 || run f.sb 2)
  | .atomicPerform _ _ => true
  | .fence _ mask => mask != 0
  | .oprdy => true
  | .fencei => true
  | .waitc _ cls => below 8 cls
  | .waitr scalar d => scalar == 1 || below 56 d
  | .waita f => below 4 f.d
  | .mma f => below 12 f.ty && !(f.bs == 1 && below 11 f.ty && !below 6 f.ty)
  | .mzero _ => true
  | .mldt f => below 3 f.f3
  | .mstt _ => true
  | .msave _ _ => true
  | .mrest _ _ => true
  | .mscale f => below 2 f.f3
  | .matrixOpStart _ => true
  | .matrixOpRetire _ => true
  | .cpyg2l f => run f.sb 2
  | .cpyl2g f => run f.sb 2
  | .cpyg2g f => run f.sb 2
  | .cpygath f => run f.sb 4
  | .cpyl2l f => run f.sb 2
  | .cpyrk _ => true
  | .collared f => run f.sb 4
  | .collbc f => run f.sb 4
  | .copyCommandStart _ => true
  | .copyPartLand _ => true
  | .collectiveComplete _ _ => true
  | .syncinit _ _ => true
  | .syncwait _ _ => true
  | .syncadd _ _ => true
  | .barwarr f => f.imm != 0 && below 65 f.imm
  | .barwwait _ _ => true
  | .nbarinit b _ => below 16 b
  | .nbararr b => below 16 b
  | .nbarwait b => below 16 b
  | .nbarsync b => below 16 b
  | .qcfg _ d => !below 56 d
  | .qtry _ q d => !below 56 q && below 56 d
  | .qpeek _ q d => !below 56 q && below 56 d
  | .qclose q => !below 56 q
  | .cqfence all n => all == 0 || n == 0
  | .rdep _ _ d => below 56 d
  | .depositDelivery _ => true
  | .tasknew f => run f.sb 2
  | .taskdep _ => true
  | .taskget d => d != 0 && below 60 d
  | .taskdone _ _ => true
  | .lnch _ => true
  | .vpart n => n == 2 || n == 4 || n == 8 || n == 16 || n == 32
  | .vxacq => true
  | .vxrel => true
  | .xwait _ => true
  | .setobs _ mask => mask != 0
  | .rwp _ => true
  | .exmask mode a => below 3 mode && below 8 a && (mode != 2 || a == 0)
  | .setrng _ _ => true
  | .pin _ n => below 8 n
  | .unpin n => below 8 n
  | .recl f => run f.a 2
  | .pinrd n _ => below 8 n
  | .groomerSweep _ => true
  | .rkldK _ => true
  | .rkldV _ => true
  | .rkstK _ => true
  | .rkstV _ => true
  | .rkalloc _ => true
  | .rkpub f => run f.sb 2
  | .rkacq _ => true
  | .rksnap _ => true
  | .rkvoid f => run f.sb 2
  | .rkpage f => run f.sb 2
  | .rkinfo _ => true
  | .sldesc _ _ => true
  | .slexp f => run f.sb 3
  | .slback f => run f.sb 2
  | .slpick _ => true
  | .slroot _ => true
  | .slprune _ => true
  | .slread f => f.d != 0 && below 60 f.d
  | .slnew _ => true
  | .slcfg f => run f.sb 2
  | .trap _ => true
  | .rett => true
  | .srd r _ => below 15 r
  | .swr r _ => below 15 r
  | .wfe f => below 16 f.imm
  | .wfeTimeout _ _ => true
  | .evsig _ _ => true
  | .time _ => true
  | .halt _ => true
  | .resultDelivery _ => true
  | .sfuResult _ => true
  | .storePerform _ _ => true
  | .ownLeaseReturn _ => true
  | .leaseRequestRetry _ _ => true
  | .leaseSweep _ => true
  | .maintenanceDone _ => true
  | .msvComplete _ => true
  | .tlbInvalidate _ _ _ => true
  | .pagerPromote _ _ _ => true
  | .wridxWrite _ _ _ => true
  | .launchTake _ _ _ => true
  | .gangPlace _ => true
  | .placementStarvation _ => true
  | .eqRdWrite _ _ => true
  | .flagsSet _ _ => true
  | .lodgeNow _ => true
  | .softReset _ => true
  | .clearReset _ => true
  | .functionLevelReset _ => true
  | .supervisorResetRequest _ _ => true
  | .resetComplete _ => true
  | .registerWrite _ _ _ _ => true
  | .commandRegionRead _ _ => true
  | .liftComplete _ => true
  | .lodge _ => true
  | .sliceEnd _ => true
  | .contextImageWrite _ => true
  | .gangResume _ => true
  | .overrunWatchdog _ => true
  | .overrunKill _ => true
  | .suspensionWatchdog _ => true
  | .replayWatchdog _ => true
  | .supervisorResume _ _ => true
  | .supervisorKill _ => true
  | .replay _ => true
  | .continueHalt _ => true
  | .umarekLaunch _ _ _ _ _ => true
  | .createRink _ _ _ => true
  | .destroyRink _ _ => true
  | .createTree _ _ _ => true
  | .trapVectorWrite _ _ _ => true
  | .rangeEntryWrite _ _ _ _ _ => true
  | .reclaimActionWrite _ _ _ => true
  | .taskTypeLoad _ _ _ => true
  | .groupConfigure _ _ _ => true
  | .peerSlotWrite _ _ _ => true
  | .inboundGrantWrite _ _ _ => true
  | .peerLinkJoin _ _ => true
  | .setPartitions _ => true
  | .createVd _ => true
  | .memorySliceMove _ _ => true
  | .chunkBusy _ => true
  | .chunkCopied _ => true
  | .btbaseSet _ _ _ _ => true
  | .steal _ => true
  | .stealFinish _ => true
  | .recordingSet _ _ => true
  | .rerun _ _ => true
  | .hostSharedRead _ _ _ => true
  | .hostOwnershipRequest _ _ _ _ => true
  | .hostWriteback _ _ _ _ _ _ => true
  | .bisnpRetry _ _ _ => true
  | .hostSnoop _ _ => true
  | .ucieModuleFail _ => true
  | .ucieModuleTrain _ => true
  | .flitReceive _ _ _ => true
  | .ack _ _ => true
  | .nak _ _ => true
  | .rate _ _ _ => true
  | .rateTimer _ => true
  | .portRetrain _ _ => true
  | .linkDown _ => true
  | .scrub _ => true
  | .powerCeiling _ => true
  | .islandFrequencyChange _ _ => true
  | .powerGood _ _ => true
  | .warmStart _ _ => true
  | .recoveryImage _ => true
  | .dmtLoad _ _ _ _ _ => true
  | .dmtLaunch _ _ _ _ _ => true
  | .dmtBreak _ _ _ => true
  | .dmtRun _ _ => true
  | .dmtStep _ _ => true
  | .dmtRegs _ _ _ _ => true
  | .dmtKpred _ _ => true
  | .dmtWaves _ => true
  | .dmtMem _ _ _ _ => true
  | .dmtMemDir _ _ _ => true
  | .dmtTrace _ _ _ => true
  | .dmtWatch _ _ _ => true
  | .dmtInjectPreempt _ => true
  | .dmtInjectFault _ _ => true
  | .dmtVector _ _ _ => true
  | .dmtSlalom _ _ => true
  | .dmtPins _ => true
  | .dmtRink _ _ => true
  | .peerLinkTrain _ => true
  | .uncorrectableError _ _ => true
  | .destroyTree _ _ => true
  | .rootChange _ _ _ => true
  | .hostAccessWindowGrant _ => true
  | .fabricRateCap _ _ => true

open Encoding in
/-- IMMX with this payload is accepted before the instruction (R54). -/
def Instr.takesImmx (p : BitVec 21) : Instr → Bool
  | .cMov _ => false
  | .cAdd _ => false
  | .cSub _ => false
  | .cMul _ => false
  | .cAnd _ => false
  | .cOr _ => false
  | .cXor _ => false
  | .cShl _ => false
  | .cShrz _ => false
  | .cAddi _ => false
  | .cShli _ => false
  | .cFadd _ => false
  | .cFsub _ => false
  | .cFmul _ => false
  | .cFmax _ => false
  | .cFmin _ => false
  | .immx _ => false
  | .obs _ _ => false
  | .hint _ => false
  | .rep _ _ _ _ => false
  | .role _ => false
  | .predx _ _ => false
  | .vadd _ => false
  | .vsub _ => false
  | .vaddss _ => false
  | .vaddsz _ => false
  | .vmul _ => false
  | .vmulhs _ => false
  | .vmulhz _ => false
  | .vmad _ => false
  | .vand _ => false
  | .vor _ => false
  | .vxor _ => false
  | .vandn _ => false
  | .vshl _ => false
  | .vshrz _ => false
  | .vshrs _ => false
  | .vrot _ => false
  | .vcmpeq _ => false
  | .vcmplts _ => false
  | .vcmpltz _ => false
  | .vcmples _ => false
  | .vmins _ => false
  | .vmaxs _ => false
  | .vminz _ => false
  | .vmaxz _ => false
  | .vsel _ => false
  | .vbcst _ _ _ => false
  | .vlane _ _ => false
  | .vpopc _ => false
  | .vaddi _ => true
  | .vandi _ => true
  | .vshli _ => true
  | .vshrzi _ => true
  | .vmovi _ _ _ => true
  | .vmuli _ => true
  | .vshrsi _ => true
  | .vxori _ => true
  | .vdot4 _ => false
  | .vdot8 _ => false
  | .vdot4s _ => false
  | .vdot8s _ => false
  | .vcmpeqi _ => true
  | .vcmpltsi _ => true
  | .vcmpltzi _ => true
  | .vcmpgtsi _ => true
  | .vfadd _ => false
  | .vfsub _ => false
  | .vfmul _ => false
  | .vfma _ => false
  | .vfmin _ => false
  | .vfmax _ => false
  | .vfabs _ => false
  | .vfneg _ => false
  | .vfcmpeq _ => false
  | .vfcmplt _ => false
  | .vfcmple _ => false
  | .vfcmpun _ => false
  | .vhfma _ => false
  | .vbfma _ => false
  | .vhmul _ => false
  | .vbmul _ => false
  | .vhadd _ => false
  | .vbadd _ => false
  | .vhmax _ => false
  | .vbmax _ => false
  | .vmovw _ => field p.toNat 16 5 == 0
  | .vmovwz _ => field p.toNat 16 5 == 0
  | .vfmovb _ => field p.toNat 16 5 == 0
  | .vmovhi _ => false
  | .vcvt _ => false
  | .vsfu _ => false
  | .vrand _ _ => false
  | .vrandf _ _ => false
  | .vgumb _ => false
  | .vradv _ => false
  | .vshfl _ => false
  | .vshflx _ => false
  | .vshflup _ => false
  | .vshfldn _ => false
  | .vredadd _ => false
  | .vredmaxs _ => false
  | .vredfadd _ => false
  | .vredfmax _ => false
  | .vballot _ => false
  | .vany _ => false
  | .vall _ => false
  | .vfirst _ => false
  | .kand _ => false
  | .kor _ => false
  | .kxor _ => false
  | .kandn _ => false
  | .knot _ => false
  | .kfroms _ => false
  | .ktos _ => false
  | .kpopc _ => false
  | .sadd _ => false
  | .ssub _ => false
  | .smul _ => false
  | .smulhs _ => false
  | .smulhz _ => false
  | .sand _ => false
  | .sor _ => false
  | .sxor _ => false
  | .sshl _ => false
  | .sshrz _ => false
  | .sshrs _ => false
  | .smins _ => false
  | .smaxs _ => false
  | .sdivz _ => false
  | .sremz _ => false
  | .sclz _ => false
  | .saddi _ => true
  | .sandi _ => true
  | .sori _ => true
  | .sxori _ => true
  | .sshli _ => true
  | .sshrzi _ => true
  | .sshrsi _ => true
  | .smuli _ => true
  | .smovi _ => true
  | .smoviz _ => true
  | .smovh16 _ => p == 0
  | .smovh32 _ => p == 0
  | .smovh48 _ => p == 0
  | .stagi _ _ => p == 0
  | .saddi16 _ => true
  | .adda _ => false
  | .suba _ => false
  | .gettag _ => false
  | .settag _ => false
  | .seq _ => false
  | .sne _ => false
  | .slts _ => false
  | .sles _ => false
  | .sltz _ => false
  | .slez _ => false
  | .bz _ => false
  | .bnz _ => false
  | .blz _ => false
  | .bgez _ => false
  | .bkany _ => false
  | .bkall _ => false
  | .bknone _ => false
  | .brv _ => false
  | .jmp _ => false
  | .call _ => false
  | .jr _ => false
  | .callr _ => false
  | .ret => false
  | .join => false
  | .exit => false
  | .yield => false
  | .nop32 => false
  | .bkpt _ => false
  | .elect _ => false
  | .vldB32 _ => false
  | .vldB64 _ => false
  | .vldB128 _ => false
  | .vldB16z _ => false
  | .vldB8z _ => false
  | .vldB8s _ => false
  | .vldB16s _ => false
  | .vstB32 _ => false
  | .vstB64 _ => false
  | .vstB128 _ => false
  | .vstB16 _ => false
  | .vstB8 _ => false
  | .vldlB32 _ => false
  | .vldlB128 _ => false
  | .vstlB32 _ => false
  | .vstlB128 _ => false
  | .sldB64 _ => false
  | .sldB32z _ => false
  | .sldB32s _ => false
  | .sldB8z _ => false
  | .sstB64 _ => false
  | .sstB32 _ => false
  | .sstB8 _ => false
  | .slda _ => false
  | .ssta _ => false
  | .sldl _ => false
  | .sstl _ => false
  | .clean _ => false
  | .inval _ => false
  | .clninv _ => false
  | .pref _ _ => false
  | .bankmode _ _ _ => false
  | .l1drop => false
  | .msvaddBf16 _ => false
  | .msvaddF32 _ => false
  | .msvmulBf16 _ => false
  | .msvfill _ => false
  | .msvcopy _ => false
  | .atom _ => false
  | .atom64 _ => false
  | .atompk _ => false
  | .satom _ => false
  | .atomicPerform _ _ => false
  | .fence _ _ => false
  | .oprdy => false
  | .fencei => false
  | .waitc _ _ => true
  | .waitr _ _ => false
  | .waita _ => true
  | .mma _ => false
  | .mzero _ => false
  | .mldt _ => false
  | .mstt _ => false
  | .msave _ _ => false
  | .mrest _ _ => false
  | .mscale _ => false
  | .matrixOpStart _ => false
  | .matrixOpRetire _ => false
  | .cpyg2l _ => false
  | .cpyl2g _ => false
  | .cpyg2g _ => false
  | .cpygath _ => false
  | .cpyl2l _ => false
  | .cpyrk _ => false
  | .collared _ => false
  | .collbc _ => false
  | .copyCommandStart _ => false
  | .copyPartLand _ => false
  | .collectiveComplete _ _ => false
  | .syncinit _ _ => false
  | .syncwait _ _ => false
  | .syncadd _ _ => false
  | .barwarr _ => false
  | .barwwait _ _ => false
  | .nbarinit _ _ => false
  | .nbararr _ => false
  | .nbarwait _ => false
  | .nbarsync _ => false
  | .qcfg _ _ => false
  | .qtry _ _ _ => false
  | .qpeek _ _ _ => false
  | .qclose _ => false
  | .cqfence _ _ => false
  | .rdep _ _ _ => false
  | .depositDelivery _ => false
  | .tasknew _ => false
  | .taskdep _ => false
  | .taskget _ => false
  | .taskdone _ _ => false
  | .lnch _ => false
  | .vpart _ => false
  | .vxacq => false
  | .vxrel => false
  | .xwait _ => false
  | .setobs _ _ => false
  | .rwp _ => false
  | .exmask _ _ => false
  | .setrng _ _ => false
  | .pin _ _ => false
  | .unpin _ => false
  | .recl _ => false
  | .pinrd _ _ => false
  | .groomerSweep _ => false
  | .rkldK _ => false
  | .rkldV _ => false
  | .rkstK _ => false
  | .rkstV _ => false
  | .rkalloc _ => false
  | .rkpub _ => false
  | .rkacq _ => false
  | .rksnap _ => false
  | .rkvoid _ => false
  | .rkpage _ => false
  | .rkinfo _ => false
  | .sldesc _ _ => false
  | .slexp _ => false
  | .slback _ => false
  | .slpick _ => false
  | .slroot _ => false
  | .slprune _ => false
  | .slread _ => false
  | .slnew _ => false
  | .slcfg _ => false
  | .trap _ => false
  | .rett => false
  | .srd _ _ => false
  | .swr _ _ => false
  | .wfe _ => false
  | .wfeTimeout _ _ => false
  | .evsig _ _ => false
  | .time _ => false
  | .halt _ => false
  | .resultDelivery _ => false
  | .sfuResult _ => false
  | .storePerform _ _ => false
  | .ownLeaseReturn _ => false
  | .leaseRequestRetry _ _ => false
  | .leaseSweep _ => false
  | .maintenanceDone _ => false
  | .msvComplete _ => false
  | .tlbInvalidate _ _ _ => false
  | .pagerPromote _ _ _ => false
  | .wridxWrite _ _ _ => false
  | .launchTake _ _ _ => false
  | .gangPlace _ => false
  | .placementStarvation _ => false
  | .eqRdWrite _ _ => false
  | .flagsSet _ _ => false
  | .lodgeNow _ => false
  | .softReset _ => false
  | .clearReset _ => false
  | .functionLevelReset _ => false
  | .supervisorResetRequest _ _ => false
  | .resetComplete _ => false
  | .registerWrite _ _ _ _ => false
  | .commandRegionRead _ _ => false
  | .liftComplete _ => false
  | .lodge _ => false
  | .sliceEnd _ => false
  | .contextImageWrite _ => false
  | .gangResume _ => false
  | .overrunWatchdog _ => false
  | .overrunKill _ => false
  | .suspensionWatchdog _ => false
  | .replayWatchdog _ => false
  | .supervisorResume _ _ => false
  | .supervisorKill _ => false
  | .replay _ => false
  | .continueHalt _ => false
  | .umarekLaunch _ _ _ _ _ => false
  | .createRink _ _ _ => false
  | .destroyRink _ _ => false
  | .createTree _ _ _ => false
  | .trapVectorWrite _ _ _ => false
  | .rangeEntryWrite _ _ _ _ _ => false
  | .reclaimActionWrite _ _ _ => false
  | .taskTypeLoad _ _ _ => false
  | .groupConfigure _ _ _ => false
  | .peerSlotWrite _ _ _ => false
  | .inboundGrantWrite _ _ _ => false
  | .peerLinkJoin _ _ => false
  | .setPartitions _ => false
  | .createVd _ => false
  | .memorySliceMove _ _ => false
  | .chunkBusy _ => false
  | .chunkCopied _ => false
  | .btbaseSet _ _ _ _ => false
  | .steal _ => false
  | .stealFinish _ => false
  | .recordingSet _ _ => false
  | .rerun _ _ => false
  | .hostSharedRead _ _ _ => false
  | .hostOwnershipRequest _ _ _ _ => false
  | .hostWriteback _ _ _ _ _ _ => false
  | .bisnpRetry _ _ _ => false
  | .hostSnoop _ _ => false
  | .ucieModuleFail _ => false
  | .ucieModuleTrain _ => false
  | .flitReceive _ _ _ => false
  | .ack _ _ => false
  | .nak _ _ => false
  | .rate _ _ _ => false
  | .rateTimer _ => false
  | .portRetrain _ _ => false
  | .linkDown _ => false
  | .scrub _ => false
  | .powerCeiling _ => false
  | .islandFrequencyChange _ _ => false
  | .powerGood _ _ => false
  | .warmStart _ _ => false
  | .recoveryImage _ => false
  | .dmtLoad _ _ _ _ _ => false
  | .dmtLaunch _ _ _ _ _ => false
  | .dmtBreak _ _ _ => false
  | .dmtRun _ _ => false
  | .dmtStep _ _ => false
  | .dmtRegs _ _ _ _ => false
  | .dmtKpred _ _ => false
  | .dmtWaves _ => false
  | .dmtMem _ _ _ _ => false
  | .dmtMemDir _ _ _ => false
  | .dmtTrace _ _ _ => false
  | .dmtWatch _ _ _ => false
  | .dmtInjectPreempt _ => false
  | .dmtInjectFault _ _ => false
  | .dmtVector _ _ _ => false
  | .dmtSlalom _ _ => false
  | .dmtPins _ => false
  | .dmtRink _ _ => false
  | .peerLinkTrain _ => false
  | .uncorrectableError _ _ => false
  | .destroyTree _ _ => false
  | .rootChange _ _ _ => false
  | .hostAccessWindowGrant _ => false
  | .fabricRateCap _ _ => false

open Encoding in
/-- OBS with this order is accepted before the instruction, whose own ord field must be 0 (R53, R54). -/
def Instr.takesObs (ord : BitVec 3) : Instr → Bool
  | .cMov _ => false
  | .cAdd _ => false
  | .cSub _ => false
  | .cMul _ => false
  | .cAnd _ => false
  | .cOr _ => false
  | .cXor _ => false
  | .cShl _ => false
  | .cShrz _ => false
  | .cAddi _ => false
  | .cShli _ => false
  | .cFadd _ => false
  | .cFsub _ => false
  | .cFmul _ => false
  | .cFmax _ => false
  | .cFmin _ => false
  | .immx _ => false
  | .obs _ _ => false
  | .hint _ => false
  | .rep _ _ _ _ => false
  | .role _ => false
  | .predx _ _ => false
  | .vadd _ => false
  | .vsub _ => false
  | .vaddss _ => false
  | .vaddsz _ => false
  | .vmul _ => false
  | .vmulhs _ => false
  | .vmulhz _ => false
  | .vmad _ => false
  | .vand _ => false
  | .vor _ => false
  | .vxor _ => false
  | .vandn _ => false
  | .vshl _ => false
  | .vshrz _ => false
  | .vshrs _ => false
  | .vrot _ => false
  | .vcmpeq _ => false
  | .vcmplts _ => false
  | .vcmpltz _ => false
  | .vcmples _ => false
  | .vmins _ => false
  | .vmaxs _ => false
  | .vminz _ => false
  | .vmaxz _ => false
  | .vsel _ => false
  | .vbcst _ _ _ => false
  | .vlane _ _ => false
  | .vpopc _ => false
  | .vaddi _ => false
  | .vandi _ => false
  | .vshli _ => false
  | .vshrzi _ => false
  | .vmovi _ _ _ => false
  | .vmuli _ => false
  | .vshrsi _ => false
  | .vxori _ => false
  | .vdot4 _ => false
  | .vdot8 _ => false
  | .vdot4s _ => false
  | .vdot8s _ => false
  | .vcmpeqi _ => false
  | .vcmpltsi _ => false
  | .vcmpltzi _ => false
  | .vcmpgtsi _ => false
  | .vfadd _ => false
  | .vfsub _ => false
  | .vfmul _ => false
  | .vfma _ => false
  | .vfmin _ => false
  | .vfmax _ => false
  | .vfabs _ => false
  | .vfneg _ => false
  | .vfcmpeq _ => false
  | .vfcmplt _ => false
  | .vfcmple _ => false
  | .vfcmpun _ => false
  | .vhfma _ => false
  | .vbfma _ => false
  | .vhmul _ => false
  | .vbmul _ => false
  | .vhadd _ => false
  | .vbadd _ => false
  | .vhmax _ => false
  | .vbmax _ => false
  | .vmovw _ => false
  | .vmovwz _ => false
  | .vfmovb _ => false
  | .vmovhi _ => false
  | .vcvt _ => false
  | .vsfu _ => false
  | .vrand _ _ => false
  | .vrandf _ _ => false
  | .vgumb _ => false
  | .vradv _ => false
  | .vshfl _ => false
  | .vshflx _ => false
  | .vshflup _ => false
  | .vshfldn _ => false
  | .vredadd _ => false
  | .vredmaxs _ => false
  | .vredfadd _ => false
  | .vredfmax _ => false
  | .vballot _ => false
  | .vany _ => false
  | .vall _ => false
  | .vfirst _ => false
  | .kand _ => false
  | .kor _ => false
  | .kxor _ => false
  | .kandn _ => false
  | .knot _ => false
  | .kfroms _ => false
  | .ktos _ => false
  | .kpopc _ => false
  | .sadd _ => false
  | .ssub _ => false
  | .smul _ => false
  | .smulhs _ => false
  | .smulhz _ => false
  | .sand _ => false
  | .sor _ => false
  | .sxor _ => false
  | .sshl _ => false
  | .sshrz _ => false
  | .sshrs _ => false
  | .smins _ => false
  | .smaxs _ => false
  | .sdivz _ => false
  | .sremz _ => false
  | .sclz _ => false
  | .saddi _ => false
  | .sandi _ => false
  | .sori _ => false
  | .sxori _ => false
  | .sshli _ => false
  | .sshrzi _ => false
  | .sshrsi _ => false
  | .smuli _ => false
  | .smovi _ => false
  | .smoviz _ => false
  | .smovh16 _ => false
  | .smovh32 _ => false
  | .smovh48 _ => false
  | .stagi _ _ => false
  | .saddi16 _ => false
  | .adda _ => false
  | .suba _ => false
  | .gettag _ => false
  | .settag _ => false
  | .seq _ => false
  | .sne _ => false
  | .slts _ => false
  | .sles _ => false
  | .sltz _ => false
  | .slez _ => false
  | .bz _ => false
  | .bnz _ => false
  | .blz _ => false
  | .bgez _ => false
  | .bkany _ => false
  | .bkall _ => false
  | .bknone _ => false
  | .brv _ => false
  | .jmp _ => false
  | .call _ => false
  | .jr _ => false
  | .callr _ => false
  | .ret => false
  | .join => false
  | .exit => false
  | .yield => false
  | .nop32 => false
  | .bkpt _ => false
  | .elect _ => false
  | .vldB32 f => f.ord == 0 && !(ord == 3 || ord == 4)
  | .vldB64 f => f.ord == 0 && !(ord == 3 || ord == 4)
  | .vldB128 f => f.ord == 0 && !(ord == 3 || ord == 4)
  | .vldB16z f => f.ord == 0 && !(ord == 3 || ord == 4)
  | .vldB8z f => f.ord == 0 && !(ord == 3 || ord == 4)
  | .vldB8s f => f.ord == 0 && !(ord == 3 || ord == 4)
  | .vldB16s f => f.ord == 0 && !(ord == 3 || ord == 4)
  | .vstB32 f => f.ord == 0 && !(ord == 2 || ord == 4)
  | .vstB64 f => f.ord == 0 && !(ord == 2 || ord == 4)
  | .vstB128 f => f.ord == 0 && !(ord == 2 || ord == 4)
  | .vstB16 f => f.ord == 0 && !(ord == 2 || ord == 4)
  | .vstB8 f => f.ord == 0 && !(ord == 2 || ord == 4)
  | .vldlB32 _ => false
  | .vldlB128 _ => false
  | .vstlB32 _ => false
  | .vstlB128 _ => false
  | .sldB64 _ => !(ord == 3 || ord == 4)
  | .sldB32z _ => !(ord == 3 || ord == 4)
  | .sldB32s _ => !(ord == 3 || ord == 4)
  | .sldB8z _ => !(ord == 3 || ord == 4)
  | .sstB64 _ => !(ord == 2 || ord == 4)
  | .sstB32 _ => !(ord == 2 || ord == 4)
  | .sstB8 _ => !(ord == 2 || ord == 4)
  | .slda _ => !(ord == 3 || ord == 4)
  | .ssta _ => false
  | .sldl _ => false
  | .sstl _ => false
  | .clean _ => false
  | .inval _ => false
  | .clninv _ => false
  | .pref _ _ => false
  | .bankmode _ _ _ => false
  | .l1drop => false
  | .msvaddBf16 _ => false
  | .msvaddF32 _ => false
  | .msvmulBf16 _ => false
  | .msvfill _ => false
  | .msvcopy _ => false
  | .atom f => f.ord == 0 && ord != 0
  | .atom64 f => f.ord == 0 && ord != 0
  | .atompk f => f.ord == 0 && ord != 0
  | .satom _ => ord != 0
  | .atomicPerform _ _ => false
  | .fence _ _ => false
  | .oprdy => false
  | .fencei => false
  | .waitc _ _ => false
  | .waitr _ _ => false
  | .waita _ => false
  | .mma _ => false
  | .mzero _ => false
  | .mldt _ => false
  | .mstt _ => false
  | .msave _ _ => false
  | .mrest _ _ => false
  | .mscale _ => false
  | .matrixOpStart _ => false
  | .matrixOpRetire _ => false
  | .cpyg2l _ => false
  | .cpyl2g _ => false
  | .cpyg2g _ => false
  | .cpygath _ => false
  | .cpyl2l _ => false
  | .cpyrk _ => false
  | .collared _ => false
  | .collbc _ => false
  | .copyCommandStart _ => false
  | .copyPartLand _ => false
  | .collectiveComplete _ _ => false
  | .syncinit _ _ => false
  | .syncwait _ _ => false
  | .syncadd _ _ => false
  | .barwarr _ => false
  | .barwwait _ _ => false
  | .nbarinit _ _ => false
  | .nbararr _ => false
  | .nbarwait _ => false
  | .nbarsync _ => false
  | .qcfg _ _ => false
  | .qtry _ _ _ => false
  | .qpeek _ _ _ => false
  | .qclose _ => false
  | .cqfence _ _ => false
  | .rdep _ _ _ => false
  | .depositDelivery _ => false
  | .tasknew _ => false
  | .taskdep _ => false
  | .taskget _ => false
  | .taskdone _ _ => false
  | .lnch _ => false
  | .vpart _ => false
  | .vxacq => false
  | .vxrel => false
  | .xwait _ => false
  | .setobs _ _ => false
  | .rwp _ => false
  | .exmask _ _ => false
  | .setrng _ _ => false
  | .pin _ _ => false
  | .unpin _ => false
  | .recl _ => false
  | .pinrd _ _ => false
  | .groomerSweep _ => false
  | .rkldK _ => false
  | .rkldV _ => false
  | .rkstK _ => false
  | .rkstV _ => false
  | .rkalloc _ => false
  | .rkpub _ => false
  | .rkacq _ => false
  | .rksnap _ => false
  | .rkvoid _ => false
  | .rkpage _ => false
  | .rkinfo _ => false
  | .sldesc _ _ => false
  | .slexp _ => false
  | .slback _ => false
  | .slpick _ => false
  | .slroot _ => false
  | .slprune _ => false
  | .slread _ => false
  | .slnew _ => false
  | .slcfg _ => false
  | .trap _ => false
  | .rett => false
  | .srd _ _ => false
  | .swr _ _ => false
  | .wfe _ => false
  | .wfeTimeout _ _ => false
  | .evsig _ _ => false
  | .time _ => false
  | .halt _ => false
  | .resultDelivery _ => false
  | .sfuResult _ => false
  | .storePerform _ _ => false
  | .ownLeaseReturn _ => false
  | .leaseRequestRetry _ _ => false
  | .leaseSweep _ => false
  | .maintenanceDone _ => false
  | .msvComplete _ => false
  | .tlbInvalidate _ _ _ => false
  | .pagerPromote _ _ _ => false
  | .wridxWrite _ _ _ => false
  | .launchTake _ _ _ => false
  | .gangPlace _ => false
  | .placementStarvation _ => false
  | .eqRdWrite _ _ => false
  | .flagsSet _ _ => false
  | .lodgeNow _ => false
  | .softReset _ => false
  | .clearReset _ => false
  | .functionLevelReset _ => false
  | .supervisorResetRequest _ _ => false
  | .resetComplete _ => false
  | .registerWrite _ _ _ _ => false
  | .commandRegionRead _ _ => false
  | .liftComplete _ => false
  | .lodge _ => false
  | .sliceEnd _ => false
  | .contextImageWrite _ => false
  | .gangResume _ => false
  | .overrunWatchdog _ => false
  | .overrunKill _ => false
  | .suspensionWatchdog _ => false
  | .replayWatchdog _ => false
  | .supervisorResume _ _ => false
  | .supervisorKill _ => false
  | .replay _ => false
  | .continueHalt _ => false
  | .umarekLaunch _ _ _ _ _ => false
  | .createRink _ _ _ => false
  | .destroyRink _ _ => false
  | .createTree _ _ _ => false
  | .trapVectorWrite _ _ _ => false
  | .rangeEntryWrite _ _ _ _ _ => false
  | .reclaimActionWrite _ _ _ => false
  | .taskTypeLoad _ _ _ => false
  | .groupConfigure _ _ _ => false
  | .peerSlotWrite _ _ _ => false
  | .inboundGrantWrite _ _ _ => false
  | .peerLinkJoin _ _ => false
  | .setPartitions _ => false
  | .createVd _ => false
  | .memorySliceMove _ _ => false
  | .chunkBusy _ => false
  | .chunkCopied _ => false
  | .btbaseSet _ _ _ _ => false
  | .steal _ => false
  | .stealFinish _ => false
  | .recordingSet _ _ => false
  | .rerun _ _ => false
  | .hostSharedRead _ _ _ => false
  | .hostOwnershipRequest _ _ _ _ => false
  | .hostWriteback _ _ _ _ _ _ => false
  | .bisnpRetry _ _ _ => false
  | .hostSnoop _ _ => false
  | .ucieModuleFail _ => false
  | .ucieModuleTrain _ => false
  | .flitReceive _ _ _ => false
  | .ack _ _ => false
  | .nak _ _ => false
  | .rate _ _ _ => false
  | .rateTimer _ => false
  | .portRetrain _ _ => false
  | .linkDown _ => false
  | .scrub _ => false
  | .powerCeiling _ => false
  | .islandFrequencyChange _ _ => false
  | .powerGood _ _ => false
  | .warmStart _ _ => false
  | .recoveryImage _ => false
  | .dmtLoad _ _ _ _ _ => false
  | .dmtLaunch _ _ _ _ _ => false
  | .dmtBreak _ _ _ => false
  | .dmtRun _ _ => false
  | .dmtStep _ _ => false
  | .dmtRegs _ _ _ _ => false
  | .dmtKpred _ _ => false
  | .dmtWaves _ => false
  | .dmtMem _ _ _ _ => false
  | .dmtMemDir _ _ _ => false
  | .dmtTrace _ _ _ => false
  | .dmtWatch _ _ _ => false
  | .dmtInjectPreempt _ => false
  | .dmtInjectFault _ _ => false
  | .dmtVector _ _ _ => false
  | .dmtSlalom _ _ => false
  | .dmtPins _ => false
  | .dmtRink _ _ => false
  | .peerLinkTrain _ => false
  | .uncorrectableError _ _ => false
  | .destroyTree _ _ => false
  | .rootChange _ _ _ => false
  | .hostAccessWindowGrant _ => false
  | .fabricRateCap _ _ => false

open Encoding in
/-- HINT is accepted before the instruction (R54). -/
def Instr.takesHint : Instr → Bool
  | .cMov _ => false
  | .cAdd _ => false
  | .cSub _ => false
  | .cMul _ => false
  | .cAnd _ => false
  | .cOr _ => false
  | .cXor _ => false
  | .cShl _ => false
  | .cShrz _ => false
  | .cAddi _ => false
  | .cShli _ => false
  | .cFadd _ => false
  | .cFsub _ => false
  | .cFmul _ => false
  | .cFmax _ => false
  | .cFmin _ => false
  | .immx _ => false
  | .obs _ _ => false
  | .hint _ => false
  | .rep _ _ _ _ => false
  | .role _ => false
  | .predx _ _ => false
  | .vadd _ => false
  | .vsub _ => false
  | .vaddss _ => false
  | .vaddsz _ => false
  | .vmul _ => false
  | .vmulhs _ => false
  | .vmulhz _ => false
  | .vmad _ => false
  | .vand _ => false
  | .vor _ => false
  | .vxor _ => false
  | .vandn _ => false
  | .vshl _ => false
  | .vshrz _ => false
  | .vshrs _ => false
  | .vrot _ => false
  | .vcmpeq _ => false
  | .vcmplts _ => false
  | .vcmpltz _ => false
  | .vcmples _ => false
  | .vmins _ => false
  | .vmaxs _ => false
  | .vminz _ => false
  | .vmaxz _ => false
  | .vsel _ => false
  | .vbcst _ _ _ => false
  | .vlane _ _ => false
  | .vpopc _ => false
  | .vaddi _ => false
  | .vandi _ => false
  | .vshli _ => false
  | .vshrzi _ => false
  | .vmovi _ _ _ => false
  | .vmuli _ => false
  | .vshrsi _ => false
  | .vxori _ => false
  | .vdot4 _ => false
  | .vdot8 _ => false
  | .vdot4s _ => false
  | .vdot8s _ => false
  | .vcmpeqi _ => false
  | .vcmpltsi _ => false
  | .vcmpltzi _ => false
  | .vcmpgtsi _ => false
  | .vfadd _ => false
  | .vfsub _ => false
  | .vfmul _ => false
  | .vfma _ => false
  | .vfmin _ => false
  | .vfmax _ => false
  | .vfabs _ => false
  | .vfneg _ => false
  | .vfcmpeq _ => false
  | .vfcmplt _ => false
  | .vfcmple _ => false
  | .vfcmpun _ => false
  | .vhfma _ => false
  | .vbfma _ => false
  | .vhmul _ => false
  | .vbmul _ => false
  | .vhadd _ => false
  | .vbadd _ => false
  | .vhmax _ => false
  | .vbmax _ => false
  | .vmovw _ => false
  | .vmovwz _ => false
  | .vfmovb _ => false
  | .vmovhi _ => false
  | .vcvt _ => false
  | .vsfu _ => false
  | .vrand _ _ => false
  | .vrandf _ _ => false
  | .vgumb _ => false
  | .vradv _ => false
  | .vshfl _ => false
  | .vshflx _ => false
  | .vshflup _ => false
  | .vshfldn _ => false
  | .vredadd _ => false
  | .vredmaxs _ => false
  | .vredfadd _ => false
  | .vredfmax _ => false
  | .vballot _ => false
  | .vany _ => false
  | .vall _ => false
  | .vfirst _ => false
  | .kand _ => false
  | .kor _ => false
  | .kxor _ => false
  | .kandn _ => false
  | .knot _ => false
  | .kfroms _ => false
  | .ktos _ => false
  | .kpopc _ => false
  | .sadd _ => false
  | .ssub _ => false
  | .smul _ => false
  | .smulhs _ => false
  | .smulhz _ => false
  | .sand _ => false
  | .sor _ => false
  | .sxor _ => false
  | .sshl _ => false
  | .sshrz _ => false
  | .sshrs _ => false
  | .smins _ => false
  | .smaxs _ => false
  | .sdivz _ => false
  | .sremz _ => false
  | .sclz _ => false
  | .saddi _ => false
  | .sandi _ => false
  | .sori _ => false
  | .sxori _ => false
  | .sshli _ => false
  | .sshrzi _ => false
  | .sshrsi _ => false
  | .smuli _ => false
  | .smovi _ => false
  | .smoviz _ => false
  | .smovh16 _ => false
  | .smovh32 _ => false
  | .smovh48 _ => false
  | .stagi _ _ => false
  | .saddi16 _ => false
  | .adda _ => false
  | .suba _ => false
  | .gettag _ => false
  | .settag _ => false
  | .seq _ => false
  | .sne _ => false
  | .slts _ => false
  | .sles _ => false
  | .sltz _ => false
  | .slez _ => false
  | .bz _ => false
  | .bnz _ => false
  | .blz _ => false
  | .bgez _ => false
  | .bkany _ => false
  | .bkall _ => false
  | .bknone _ => false
  | .brv _ => false
  | .jmp _ => false
  | .call _ => false
  | .jr _ => false
  | .callr _ => false
  | .ret => false
  | .join => false
  | .exit => false
  | .yield => false
  | .nop32 => false
  | .bkpt _ => false
  | .elect _ => false
  | .vldB32 _ => true
  | .vldB64 _ => true
  | .vldB128 _ => true
  | .vldB16z _ => true
  | .vldB8z _ => true
  | .vldB8s _ => true
  | .vldB16s _ => true
  | .vstB32 _ => true
  | .vstB64 _ => true
  | .vstB128 _ => true
  | .vstB16 _ => true
  | .vstB8 _ => true
  | .vldlB32 _ => true
  | .vldlB128 _ => true
  | .vstlB32 _ => true
  | .vstlB128 _ => true
  | .sldB64 _ => true
  | .sldB32z _ => true
  | .sldB32s _ => true
  | .sldB8z _ => true
  | .sstB64 _ => true
  | .sstB32 _ => true
  | .sstB8 _ => true
  | .slda _ => true
  | .ssta _ => true
  | .sldl _ => true
  | .sstl _ => true
  | .clean _ => false
  | .inval _ => false
  | .clninv _ => false
  | .pref _ _ => true
  | .bankmode _ _ _ => false
  | .l1drop => false
  | .msvaddBf16 _ => false
  | .msvaddF32 _ => false
  | .msvmulBf16 _ => false
  | .msvfill _ => false
  | .msvcopy _ => false
  | .atom _ => false
  | .atom64 _ => false
  | .atompk _ => false
  | .satom _ => false
  | .atomicPerform _ _ => false
  | .fence _ _ => false
  | .oprdy => false
  | .fencei => false
  | .waitc _ _ => false
  | .waitr _ _ => false
  | .waita _ => false
  | .mma _ => false
  | .mzero _ => false
  | .mldt _ => false
  | .mstt _ => false
  | .msave _ _ => false
  | .mrest _ _ => false
  | .mscale _ => false
  | .matrixOpStart _ => false
  | .matrixOpRetire _ => false
  | .cpyg2l _ => true
  | .cpyl2g _ => true
  | .cpyg2g _ => true
  | .cpygath _ => true
  | .cpyl2l _ => true
  | .cpyrk _ => true
  | .collared _ => false
  | .collbc _ => false
  | .copyCommandStart _ => false
  | .copyPartLand _ => false
  | .collectiveComplete _ _ => false
  | .syncinit _ _ => false
  | .syncwait _ _ => false
  | .syncadd _ _ => false
  | .barwarr _ => false
  | .barwwait _ _ => false
  | .nbarinit _ _ => false
  | .nbararr _ => false
  | .nbarwait _ => false
  | .nbarsync _ => false
  | .qcfg _ _ => false
  | .qtry _ _ _ => false
  | .qpeek _ _ _ => false
  | .qclose _ => false
  | .cqfence _ _ => false
  | .rdep _ _ _ => false
  | .depositDelivery _ => false
  | .tasknew _ => false
  | .taskdep _ => false
  | .taskget _ => false
  | .taskdone _ _ => false
  | .lnch _ => false
  | .vpart _ => false
  | .vxacq => false
  | .vxrel => false
  | .xwait _ => false
  | .setobs _ _ => false
  | .rwp _ => false
  | .exmask _ _ => false
  | .setrng _ _ => false
  | .pin _ _ => false
  | .unpin _ => false
  | .recl _ => false
  | .pinrd _ _ => false
  | .groomerSweep _ => false
  | .rkldK _ => true
  | .rkldV _ => true
  | .rkstK _ => true
  | .rkstV _ => true
  | .rkalloc _ => false
  | .rkpub _ => false
  | .rkacq _ => false
  | .rksnap _ => false
  | .rkvoid _ => false
  | .rkpage _ => false
  | .rkinfo _ => false
  | .sldesc _ _ => false
  | .slexp _ => false
  | .slback _ => false
  | .slpick _ => false
  | .slroot _ => false
  | .slprune _ => false
  | .slread _ => false
  | .slnew _ => false
  | .slcfg _ => false
  | .trap _ => false
  | .rett => false
  | .srd _ _ => false
  | .swr _ _ => false
  | .wfe _ => false
  | .wfeTimeout _ _ => false
  | .evsig _ _ => false
  | .time _ => false
  | .halt _ => false
  | .resultDelivery _ => false
  | .sfuResult _ => false
  | .storePerform _ _ => false
  | .ownLeaseReturn _ => false
  | .leaseRequestRetry _ _ => false
  | .leaseSweep _ => false
  | .maintenanceDone _ => false
  | .msvComplete _ => false
  | .tlbInvalidate _ _ _ => false
  | .pagerPromote _ _ _ => false
  | .wridxWrite _ _ _ => false
  | .launchTake _ _ _ => false
  | .gangPlace _ => false
  | .placementStarvation _ => false
  | .eqRdWrite _ _ => false
  | .flagsSet _ _ => false
  | .lodgeNow _ => false
  | .softReset _ => false
  | .clearReset _ => false
  | .functionLevelReset _ => false
  | .supervisorResetRequest _ _ => false
  | .resetComplete _ => false
  | .registerWrite _ _ _ _ => false
  | .commandRegionRead _ _ => false
  | .liftComplete _ => false
  | .lodge _ => false
  | .sliceEnd _ => false
  | .contextImageWrite _ => false
  | .gangResume _ => false
  | .overrunWatchdog _ => false
  | .overrunKill _ => false
  | .suspensionWatchdog _ => false
  | .replayWatchdog _ => false
  | .supervisorResume _ _ => false
  | .supervisorKill _ => false
  | .replay _ => false
  | .continueHalt _ => false
  | .umarekLaunch _ _ _ _ _ => false
  | .createRink _ _ _ => false
  | .destroyRink _ _ => false
  | .createTree _ _ _ => false
  | .trapVectorWrite _ _ _ => false
  | .rangeEntryWrite _ _ _ _ _ => false
  | .reclaimActionWrite _ _ _ => false
  | .taskTypeLoad _ _ _ => false
  | .groupConfigure _ _ _ => false
  | .peerSlotWrite _ _ _ => false
  | .inboundGrantWrite _ _ _ => false
  | .peerLinkJoin _ _ => false
  | .setPartitions _ => false
  | .createVd _ => false
  | .memorySliceMove _ _ => false
  | .chunkBusy _ => false
  | .chunkCopied _ => false
  | .btbaseSet _ _ _ _ => false
  | .steal _ => false
  | .stealFinish _ => false
  | .recordingSet _ _ => false
  | .rerun _ _ => false
  | .hostSharedRead _ _ _ => false
  | .hostOwnershipRequest _ _ _ _ => false
  | .hostWriteback _ _ _ _ _ _ => false
  | .bisnpRetry _ _ _ => false
  | .hostSnoop _ _ => false
  | .ucieModuleFail _ => false
  | .ucieModuleTrain _ => false
  | .flitReceive _ _ _ => false
  | .ack _ _ => false
  | .nak _ _ => false
  | .rate _ _ _ => false
  | .rateTimer _ => false
  | .portRetrain _ _ => false
  | .linkDown _ => false
  | .scrub _ => false
  | .powerCeiling _ => false
  | .islandFrequencyChange _ _ => false
  | .powerGood _ _ => false
  | .warmStart _ _ => false
  | .recoveryImage _ => false
  | .dmtLoad _ _ _ _ _ => false
  | .dmtLaunch _ _ _ _ _ => false
  | .dmtBreak _ _ _ => false
  | .dmtRun _ _ => false
  | .dmtStep _ _ => false
  | .dmtRegs _ _ _ _ => false
  | .dmtKpred _ _ => false
  | .dmtWaves _ => false
  | .dmtMem _ _ _ _ => false
  | .dmtMemDir _ _ _ => false
  | .dmtTrace _ _ _ => false
  | .dmtWatch _ _ _ => false
  | .dmtInjectPreempt _ => false
  | .dmtInjectFault _ _ => false
  | .dmtVector _ _ _ => false
  | .dmtSlalom _ _ => false
  | .dmtPins _ => false
  | .dmtRink _ _ => false
  | .peerLinkTrain _ => false
  | .uncorrectableError _ _ => false
  | .destroyTree _ _ => false
  | .rootChange _ _ _ => false
  | .hostAccessWindowGrant _ => false
  | .fabricRateCap _ _ => false

open Encoding in
/-- REP is accepted before the instruction; step vb only where vb is no selector or immediate (R54). A step of a source that the
instruction does not read, va of VMOVI or vb of VFABS and VFNEG, is accepted without effect: DESIGN CHOICE, log 104. -/
def Instr.takesRep (stepB : BitVec 1) : Instr → Bool
  | .cMov _ => false
  | .cAdd _ => false
  | .cSub _ => false
  | .cMul _ => false
  | .cAnd _ => false
  | .cOr _ => false
  | .cXor _ => false
  | .cShl _ => false
  | .cShrz _ => false
  | .cAddi _ => false
  | .cShli _ => false
  | .cFadd _ => false
  | .cFsub _ => false
  | .cFmul _ => false
  | .cFmax _ => false
  | .cFmin _ => false
  | .immx _ => false
  | .obs _ _ => false
  | .hint _ => false
  | .rep _ _ _ _ => false
  | .role _ => false
  | .predx _ _ => false
  | .vadd _ => true
  | .vsub _ => true
  | .vaddss _ => true
  | .vaddsz _ => true
  | .vmul _ => true
  | .vmulhs _ => true
  | .vmulhz _ => true
  | .vmad _ => true
  | .vand _ => true
  | .vor _ => true
  | .vxor _ => true
  | .vandn _ => true
  | .vshl _ => true
  | .vshrz _ => true
  | .vshrs _ => true
  | .vrot _ => true
  | .vcmpeq _ => false
  | .vcmplts _ => false
  | .vcmpltz _ => false
  | .vcmples _ => false
  | .vmins _ => true
  | .vmaxs _ => true
  | .vminz _ => true
  | .vmaxz _ => true
  | .vsel _ => false
  | .vbcst _ _ _ => false
  | .vlane _ _ => false
  | .vpopc _ => false
  | .vaddi _ => stepB == 0
  | .vandi _ => stepB == 0
  | .vshli _ => stepB == 0
  | .vshrzi _ => stepB == 0
  | .vmovi _ _ _ => stepB == 0
  | .vmuli _ => stepB == 0
  | .vshrsi _ => stepB == 0
  | .vxori _ => stepB == 0
  | .vdot4 _ => true
  | .vdot8 _ => true
  | .vdot4s _ => true
  | .vdot8s _ => true
  | .vcmpeqi _ => false
  | .vcmpltsi _ => false
  | .vcmpltzi _ => false
  | .vcmpgtsi _ => false
  | .vfadd _ => true
  | .vfsub _ => true
  | .vfmul _ => true
  | .vfma _ => true
  | .vfmin _ => true
  | .vfmax _ => true
  | .vfabs _ => true
  | .vfneg _ => true
  | .vfcmpeq _ => false
  | .vfcmplt _ => false
  | .vfcmple _ => false
  | .vfcmpun _ => false
  | .vhfma _ => true
  | .vbfma _ => true
  | .vhmul _ => true
  | .vbmul _ => true
  | .vhadd _ => true
  | .vbadd _ => true
  | .vhmax _ => true
  | .vbmax _ => true
  | .vmovw _ => false
  | .vmovwz _ => false
  | .vfmovb _ => false
  | .vmovhi _ => false
  | .vcvt _ => stepB == 0
  | .vsfu _ => false
  | .vrand _ _ => false
  | .vrandf _ _ => false
  | .vgumb _ => false
  | .vradv _ => false
  | .vshfl _ => false
  | .vshflx _ => false
  | .vshflup _ => false
  | .vshfldn _ => false
  | .vredadd _ => false
  | .vredmaxs _ => false
  | .vredfadd _ => false
  | .vredfmax _ => false
  | .vballot _ => false
  | .vany _ => false
  | .vall _ => false
  | .vfirst _ => false
  | .kand _ => false
  | .kor _ => false
  | .kxor _ => false
  | .kandn _ => false
  | .knot _ => false
  | .kfroms _ => false
  | .ktos _ => false
  | .kpopc _ => false
  | .sadd _ => false
  | .ssub _ => false
  | .smul _ => false
  | .smulhs _ => false
  | .smulhz _ => false
  | .sand _ => false
  | .sor _ => false
  | .sxor _ => false
  | .sshl _ => false
  | .sshrz _ => false
  | .sshrs _ => false
  | .smins _ => false
  | .smaxs _ => false
  | .sdivz _ => false
  | .sremz _ => false
  | .sclz _ => false
  | .saddi _ => false
  | .sandi _ => false
  | .sori _ => false
  | .sxori _ => false
  | .sshli _ => false
  | .sshrzi _ => false
  | .sshrsi _ => false
  | .smuli _ => false
  | .smovi _ => false
  | .smoviz _ => false
  | .smovh16 _ => false
  | .smovh32 _ => false
  | .smovh48 _ => false
  | .stagi _ _ => false
  | .saddi16 _ => false
  | .adda _ => false
  | .suba _ => false
  | .gettag _ => false
  | .settag _ => false
  | .seq _ => false
  | .sne _ => false
  | .slts _ => false
  | .sles _ => false
  | .sltz _ => false
  | .slez _ => false
  | .bz _ => false
  | .bnz _ => false
  | .blz _ => false
  | .bgez _ => false
  | .bkany _ => false
  | .bkall _ => false
  | .bknone _ => false
  | .brv _ => false
  | .jmp _ => false
  | .call _ => false
  | .jr _ => false
  | .callr _ => false
  | .ret => false
  | .join => false
  | .exit => false
  | .yield => false
  | .nop32 => false
  | .bkpt _ => false
  | .elect _ => false
  | .vldB32 _ => false
  | .vldB64 _ => false
  | .vldB128 _ => false
  | .vldB16z _ => false
  | .vldB8z _ => false
  | .vldB8s _ => false
  | .vldB16s _ => false
  | .vstB32 _ => false
  | .vstB64 _ => false
  | .vstB128 _ => false
  | .vstB16 _ => false
  | .vstB8 _ => false
  | .vldlB32 _ => false
  | .vldlB128 _ => false
  | .vstlB32 _ => false
  | .vstlB128 _ => false
  | .sldB64 _ => false
  | .sldB32z _ => false
  | .sldB32s _ => false
  | .sldB8z _ => false
  | .sstB64 _ => false
  | .sstB32 _ => false
  | .sstB8 _ => false
  | .slda _ => false
  | .ssta _ => false
  | .sldl _ => false
  | .sstl _ => false
  | .clean _ => false
  | .inval _ => false
  | .clninv _ => false
  | .pref _ _ => false
  | .bankmode _ _ _ => false
  | .l1drop => false
  | .msvaddBf16 _ => false
  | .msvaddF32 _ => false
  | .msvmulBf16 _ => false
  | .msvfill _ => false
  | .msvcopy _ => false
  | .atom _ => false
  | .atom64 _ => false
  | .atompk _ => false
  | .satom _ => false
  | .atomicPerform _ _ => false
  | .fence _ _ => false
  | .oprdy => false
  | .fencei => false
  | .waitc _ _ => false
  | .waitr _ _ => false
  | .waita _ => false
  | .mma _ => false
  | .mzero _ => false
  | .mldt _ => false
  | .mstt _ => false
  | .msave _ _ => false
  | .mrest _ _ => false
  | .mscale _ => false
  | .matrixOpStart _ => false
  | .matrixOpRetire _ => false
  | .cpyg2l _ => false
  | .cpyl2g _ => false
  | .cpyg2g _ => false
  | .cpygath _ => false
  | .cpyl2l _ => false
  | .cpyrk _ => false
  | .collared _ => false
  | .collbc _ => false
  | .copyCommandStart _ => false
  | .copyPartLand _ => false
  | .collectiveComplete _ _ => false
  | .syncinit _ _ => false
  | .syncwait _ _ => false
  | .syncadd _ _ => false
  | .barwarr _ => false
  | .barwwait _ _ => false
  | .nbarinit _ _ => false
  | .nbararr _ => false
  | .nbarwait _ => false
  | .nbarsync _ => false
  | .qcfg _ _ => false
  | .qtry _ _ _ => false
  | .qpeek _ _ _ => false
  | .qclose _ => false
  | .cqfence _ _ => false
  | .rdep _ _ _ => false
  | .depositDelivery _ => false
  | .tasknew _ => false
  | .taskdep _ => false
  | .taskget _ => false
  | .taskdone _ _ => false
  | .lnch _ => false
  | .vpart _ => false
  | .vxacq => false
  | .vxrel => false
  | .xwait _ => false
  | .setobs _ _ => false
  | .rwp _ => false
  | .exmask _ _ => false
  | .setrng _ _ => false
  | .pin _ _ => false
  | .unpin _ => false
  | .recl _ => false
  | .pinrd _ _ => false
  | .groomerSweep _ => false
  | .rkldK _ => false
  | .rkldV _ => false
  | .rkstK _ => false
  | .rkstV _ => false
  | .rkalloc _ => false
  | .rkpub _ => false
  | .rkacq _ => false
  | .rksnap _ => false
  | .rkvoid _ => false
  | .rkpage _ => false
  | .rkinfo _ => false
  | .sldesc _ _ => false
  | .slexp _ => false
  | .slback _ => false
  | .slpick _ => false
  | .slroot _ => false
  | .slprune _ => false
  | .slread _ => false
  | .slnew _ => false
  | .slcfg _ => false
  | .trap _ => false
  | .rett => false
  | .srd _ _ => false
  | .swr _ _ => false
  | .wfe _ => false
  | .wfeTimeout _ _ => false
  | .evsig _ _ => false
  | .time _ => false
  | .halt _ => false
  | .resultDelivery _ => false
  | .sfuResult _ => false
  | .storePerform _ _ => false
  | .ownLeaseReturn _ => false
  | .leaseRequestRetry _ _ => false
  | .leaseSweep _ => false
  | .maintenanceDone _ => false
  | .msvComplete _ => false
  | .tlbInvalidate _ _ _ => false
  | .pagerPromote _ _ _ => false
  | .wridxWrite _ _ _ => false
  | .launchTake _ _ _ => false
  | .gangPlace _ => false
  | .placementStarvation _ => false
  | .eqRdWrite _ _ => false
  | .flagsSet _ _ => false
  | .lodgeNow _ => false
  | .softReset _ => false
  | .clearReset _ => false
  | .functionLevelReset _ => false
  | .supervisorResetRequest _ _ => false
  | .resetComplete _ => false
  | .registerWrite _ _ _ _ => false
  | .commandRegionRead _ _ => false
  | .liftComplete _ => false
  | .lodge _ => false
  | .sliceEnd _ => false
  | .contextImageWrite _ => false
  | .gangResume _ => false
  | .overrunWatchdog _ => false
  | .overrunKill _ => false
  | .suspensionWatchdog _ => false
  | .replayWatchdog _ => false
  | .supervisorResume _ _ => false
  | .supervisorKill _ => false
  | .replay _ => false
  | .continueHalt _ => false
  | .umarekLaunch _ _ _ _ _ => false
  | .createRink _ _ _ => false
  | .destroyRink _ _ => false
  | .createTree _ _ _ => false
  | .trapVectorWrite _ _ _ => false
  | .rangeEntryWrite _ _ _ _ _ => false
  | .reclaimActionWrite _ _ _ => false
  | .taskTypeLoad _ _ _ => false
  | .groupConfigure _ _ _ => false
  | .peerSlotWrite _ _ _ => false
  | .inboundGrantWrite _ _ _ => false
  | .peerLinkJoin _ _ => false
  | .setPartitions _ => false
  | .createVd _ => false
  | .memorySliceMove _ _ => false
  | .chunkBusy _ => false
  | .chunkCopied _ => false
  | .btbaseSet _ _ _ _ => false
  | .steal _ => false
  | .stealFinish _ => false
  | .recordingSet _ _ => false
  | .rerun _ _ => false
  | .hostSharedRead _ _ _ => false
  | .hostOwnershipRequest _ _ _ _ => false
  | .hostWriteback _ _ _ _ _ _ => false
  | .bisnpRetry _ _ _ => false
  | .hostSnoop _ _ => false
  | .ucieModuleFail _ => false
  | .ucieModuleTrain _ => false
  | .flitReceive _ _ _ => false
  | .ack _ _ => false
  | .nak _ _ => false
  | .rate _ _ _ => false
  | .rateTimer _ => false
  | .portRetrain _ _ => false
  | .linkDown _ => false
  | .scrub _ => false
  | .powerCeiling _ => false
  | .islandFrequencyChange _ _ => false
  | .powerGood _ _ => false
  | .warmStart _ _ => false
  | .recoveryImage _ => false
  | .dmtLoad _ _ _ _ _ => false
  | .dmtLaunch _ _ _ _ _ => false
  | .dmtBreak _ _ _ => false
  | .dmtRun _ _ => false
  | .dmtStep _ _ => false
  | .dmtRegs _ _ _ _ => false
  | .dmtKpred _ _ => false
  | .dmtWaves _ => false
  | .dmtMem _ _ _ _ => false
  | .dmtMemDir _ _ _ => false
  | .dmtTrace _ _ _ => false
  | .dmtWatch _ _ _ => false
  | .dmtInjectPreempt _ => false
  | .dmtInjectFault _ _ => false
  | .dmtVector _ _ _ => false
  | .dmtSlalom _ _ => false
  | .dmtPins _ => false
  | .dmtRink _ _ => false
  | .peerLinkTrain _ => false
  | .uncorrectableError _ _ => false
  | .destroyTree _ _ => false
  | .rootChange _ _ _ => false
  | .hostAccessWindowGrant _ => false
  | .fabricRateCap _ _ => false

open Encoding in
/-- ROLE is accepted before the instruction (R54). -/
def Instr.takesRole : Instr → Bool
  | .cMov _ => false
  | .cAdd _ => false
  | .cSub _ => false
  | .cMul _ => false
  | .cAnd _ => false
  | .cOr _ => false
  | .cXor _ => false
  | .cShl _ => false
  | .cShrz _ => false
  | .cAddi _ => false
  | .cShli _ => false
  | .cFadd _ => false
  | .cFsub _ => false
  | .cFmul _ => false
  | .cFmax _ => false
  | .cFmin _ => false
  | .immx _ => false
  | .obs _ _ => false
  | .hint _ => false
  | .rep _ _ _ _ => false
  | .role _ => false
  | .predx _ _ => false
  | .vadd _ => false
  | .vsub _ => false
  | .vaddss _ => false
  | .vaddsz _ => false
  | .vmul _ => false
  | .vmulhs _ => false
  | .vmulhz _ => false
  | .vmad _ => false
  | .vand _ => false
  | .vor _ => false
  | .vxor _ => false
  | .vandn _ => false
  | .vshl _ => false
  | .vshrz _ => false
  | .vshrs _ => false
  | .vrot _ => false
  | .vcmpeq _ => false
  | .vcmplts _ => false
  | .vcmpltz _ => false
  | .vcmples _ => false
  | .vmins _ => false
  | .vmaxs _ => false
  | .vminz _ => false
  | .vmaxz _ => false
  | .vsel _ => false
  | .vbcst _ _ _ => false
  | .vlane _ _ => false
  | .vpopc _ => false
  | .vaddi _ => false
  | .vandi _ => false
  | .vshli _ => false
  | .vshrzi _ => false
  | .vmovi _ _ _ => false
  | .vmuli _ => false
  | .vshrsi _ => false
  | .vxori _ => false
  | .vdot4 _ => false
  | .vdot8 _ => false
  | .vdot4s _ => false
  | .vdot8s _ => false
  | .vcmpeqi _ => false
  | .vcmpltsi _ => false
  | .vcmpltzi _ => false
  | .vcmpgtsi _ => false
  | .vfadd _ => false
  | .vfsub _ => false
  | .vfmul _ => false
  | .vfma _ => false
  | .vfmin _ => false
  | .vfmax _ => false
  | .vfabs _ => false
  | .vfneg _ => false
  | .vfcmpeq _ => false
  | .vfcmplt _ => false
  | .vfcmple _ => false
  | .vfcmpun _ => false
  | .vhfma _ => false
  | .vbfma _ => false
  | .vhmul _ => false
  | .vbmul _ => false
  | .vhadd _ => false
  | .vbadd _ => false
  | .vhmax _ => false
  | .vbmax _ => false
  | .vmovw _ => false
  | .vmovwz _ => false
  | .vfmovb _ => false
  | .vmovhi _ => false
  | .vcvt _ => false
  | .vsfu _ => false
  | .vrand _ _ => false
  | .vrandf _ _ => false
  | .vgumb _ => false
  | .vradv _ => false
  | .vshfl _ => false
  | .vshflx _ => false
  | .vshflup _ => false
  | .vshfldn _ => false
  | .vredadd _ => false
  | .vredmaxs _ => false
  | .vredfadd _ => false
  | .vredfmax _ => false
  | .vballot _ => false
  | .vany _ => false
  | .vall _ => false
  | .vfirst _ => false
  | .kand _ => false
  | .kor _ => false
  | .kxor _ => false
  | .kandn _ => false
  | .knot _ => false
  | .kfroms _ => false
  | .ktos _ => false
  | .kpopc _ => false
  | .sadd _ => false
  | .ssub _ => false
  | .smul _ => false
  | .smulhs _ => false
  | .smulhz _ => false
  | .sand _ => false
  | .sor _ => false
  | .sxor _ => false
  | .sshl _ => false
  | .sshrz _ => false
  | .sshrs _ => false
  | .smins _ => false
  | .smaxs _ => false
  | .sdivz _ => false
  | .sremz _ => false
  | .sclz _ => false
  | .saddi _ => false
  | .sandi _ => false
  | .sori _ => false
  | .sxori _ => false
  | .sshli _ => false
  | .sshrzi _ => false
  | .sshrsi _ => false
  | .smuli _ => false
  | .smovi _ => false
  | .smoviz _ => false
  | .smovh16 _ => false
  | .smovh32 _ => false
  | .smovh48 _ => false
  | .stagi _ _ => false
  | .saddi16 _ => false
  | .adda _ => false
  | .suba _ => false
  | .gettag _ => false
  | .settag _ => false
  | .seq _ => false
  | .sne _ => false
  | .slts _ => false
  | .sles _ => false
  | .sltz _ => false
  | .slez _ => false
  | .bz _ => false
  | .bnz _ => false
  | .blz _ => false
  | .bgez _ => false
  | .bkany _ => false
  | .bkall _ => false
  | .bknone _ => false
  | .brv _ => false
  | .jmp _ => false
  | .call _ => false
  | .jr _ => false
  | .callr _ => false
  | .ret => false
  | .join => false
  | .exit => false
  | .yield => false
  | .nop32 => false
  | .bkpt _ => false
  | .elect _ => false
  | .vldB32 _ => false
  | .vldB64 _ => false
  | .vldB128 _ => false
  | .vldB16z _ => false
  | .vldB8z _ => false
  | .vldB8s _ => false
  | .vldB16s _ => false
  | .vstB32 _ => false
  | .vstB64 _ => false
  | .vstB128 _ => false
  | .vstB16 _ => false
  | .vstB8 _ => false
  | .vldlB32 _ => false
  | .vldlB128 _ => false
  | .vstlB32 _ => false
  | .vstlB128 _ => false
  | .sldB64 _ => false
  | .sldB32z _ => false
  | .sldB32s _ => false
  | .sldB8z _ => false
  | .sstB64 _ => false
  | .sstB32 _ => false
  | .sstB8 _ => false
  | .slda _ => false
  | .ssta _ => false
  | .sldl _ => false
  | .sstl _ => false
  | .clean _ => false
  | .inval _ => false
  | .clninv _ => false
  | .pref _ _ => false
  | .bankmode _ _ _ => false
  | .l1drop => false
  | .msvaddBf16 _ => false
  | .msvaddF32 _ => false
  | .msvmulBf16 _ => false
  | .msvfill _ => false
  | .msvcopy _ => false
  | .atom _ => false
  | .atom64 _ => false
  | .atompk _ => false
  | .satom _ => false
  | .atomicPerform _ _ => false
  | .fence _ _ => false
  | .oprdy => false
  | .fencei => false
  | .waitc _ _ => false
  | .waitr _ _ => false
  | .waita _ => false
  | .mma _ => false
  | .mzero _ => false
  | .mldt _ => false
  | .mstt _ => false
  | .msave _ _ => false
  | .mrest _ _ => false
  | .mscale _ => false
  | .matrixOpStart _ => false
  | .matrixOpRetire _ => false
  | .cpyg2l _ => false
  | .cpyl2g _ => false
  | .cpyg2g _ => false
  | .cpygath _ => false
  | .cpyl2l _ => false
  | .cpyrk _ => false
  | .collared _ => false
  | .collbc _ => false
  | .copyCommandStart _ => false
  | .copyPartLand _ => false
  | .collectiveComplete _ _ => false
  | .syncinit _ _ => false
  | .syncwait _ _ => false
  | .syncadd _ _ => false
  | .barwarr _ => false
  | .barwwait _ _ => false
  | .nbarinit _ _ => false
  | .nbararr _ => false
  | .nbarwait _ => false
  | .nbarsync _ => false
  | .qcfg _ _ => true
  | .qtry _ _ _ => false
  | .qpeek _ _ _ => false
  | .qclose _ => false
  | .cqfence _ _ => false
  | .rdep _ _ _ => false
  | .depositDelivery _ => false
  | .tasknew _ => true
  | .taskdep _ => false
  | .taskget _ => false
  | .taskdone _ _ => false
  | .lnch _ => true
  | .vpart _ => false
  | .vxacq => false
  | .vxrel => false
  | .xwait _ => false
  | .setobs _ _ => false
  | .rwp _ => false
  | .exmask _ _ => false
  | .setrng _ _ => false
  | .pin _ _ => false
  | .unpin _ => false
  | .recl _ => false
  | .pinrd _ _ => false
  | .groomerSweep _ => false
  | .rkldK _ => false
  | .rkldV _ => false
  | .rkstK _ => false
  | .rkstV _ => false
  | .rkalloc _ => false
  | .rkpub _ => false
  | .rkacq _ => false
  | .rksnap _ => false
  | .rkvoid _ => false
  | .rkpage _ => false
  | .rkinfo _ => false
  | .sldesc _ _ => false
  | .slexp _ => false
  | .slback _ => false
  | .slpick _ => false
  | .slroot _ => false
  | .slprune _ => false
  | .slread _ => false
  | .slnew _ => false
  | .slcfg _ => false
  | .trap _ => false
  | .rett => false
  | .srd _ _ => false
  | .swr _ _ => false
  | .wfe _ => false
  | .wfeTimeout _ _ => false
  | .evsig _ _ => false
  | .time _ => false
  | .halt _ => false
  | .resultDelivery _ => false
  | .sfuResult _ => false
  | .storePerform _ _ => false
  | .ownLeaseReturn _ => false
  | .leaseRequestRetry _ _ => false
  | .leaseSweep _ => false
  | .maintenanceDone _ => false
  | .msvComplete _ => false
  | .tlbInvalidate _ _ _ => false
  | .pagerPromote _ _ _ => false
  | .wridxWrite _ _ _ => false
  | .launchTake _ _ _ => false
  | .gangPlace _ => false
  | .placementStarvation _ => false
  | .eqRdWrite _ _ => false
  | .flagsSet _ _ => false
  | .lodgeNow _ => false
  | .softReset _ => false
  | .clearReset _ => false
  | .functionLevelReset _ => false
  | .supervisorResetRequest _ _ => false
  | .resetComplete _ => false
  | .registerWrite _ _ _ _ => false
  | .commandRegionRead _ _ => false
  | .liftComplete _ => false
  | .lodge _ => false
  | .sliceEnd _ => false
  | .contextImageWrite _ => false
  | .gangResume _ => false
  | .overrunWatchdog _ => false
  | .overrunKill _ => false
  | .suspensionWatchdog _ => false
  | .replayWatchdog _ => false
  | .supervisorResume _ _ => false
  | .supervisorKill _ => false
  | .replay _ => false
  | .continueHalt _ => false
  | .umarekLaunch _ _ _ _ _ => false
  | .createRink _ _ _ => false
  | .destroyRink _ _ => false
  | .createTree _ _ _ => false
  | .trapVectorWrite _ _ _ => false
  | .rangeEntryWrite _ _ _ _ _ => false
  | .reclaimActionWrite _ _ _ => false
  | .taskTypeLoad _ _ _ => false
  | .groupConfigure _ _ _ => false
  | .peerSlotWrite _ _ _ => false
  | .inboundGrantWrite _ _ _ => false
  | .peerLinkJoin _ _ => false
  | .setPartitions _ => false
  | .createVd _ => false
  | .memorySliceMove _ _ => false
  | .chunkBusy _ => false
  | .chunkCopied _ => false
  | .btbaseSet _ _ _ _ => false
  | .steal _ => false
  | .stealFinish _ => false
  | .recordingSet _ _ => false
  | .rerun _ _ => false
  | .hostSharedRead _ _ _ => false
  | .hostOwnershipRequest _ _ _ _ => false
  | .hostWriteback _ _ _ _ _ _ => false
  | .bisnpRetry _ _ _ => false
  | .hostSnoop _ _ => false
  | .ucieModuleFail _ => false
  | .ucieModuleTrain _ => false
  | .flitReceive _ _ _ => false
  | .ack _ _ => false
  | .nak _ _ => false
  | .rate _ _ _ => false
  | .rateTimer _ => false
  | .portRetrain _ _ => false
  | .linkDown _ => false
  | .scrub _ => false
  | .powerCeiling _ => false
  | .islandFrequencyChange _ _ => false
  | .powerGood _ _ => false
  | .warmStart _ _ => false
  | .recoveryImage _ => false
  | .dmtLoad _ _ _ _ _ => false
  | .dmtLaunch _ _ _ _ _ => false
  | .dmtBreak _ _ _ => false
  | .dmtRun _ _ => false
  | .dmtStep _ _ => false
  | .dmtRegs _ _ _ _ => false
  | .dmtKpred _ _ => false
  | .dmtWaves _ => false
  | .dmtMem _ _ _ _ => false
  | .dmtMemDir _ _ _ => false
  | .dmtTrace _ _ _ => false
  | .dmtWatch _ _ _ => false
  | .dmtInjectPreempt _ => false
  | .dmtInjectFault _ _ => false
  | .dmtVector _ _ _ => false
  | .dmtSlalom _ _ => false
  | .dmtPins _ => false
  | .dmtRink _ _ => false
  | .peerLinkTrain _ => false
  | .uncorrectableError _ _ => false
  | .destroyTree _ _ => false
  | .rootChange _ _ _ => false
  | .hostAccessWindowGrant _ => false
  | .fabricRateCap _ _ => false

open Encoding in
/-- PREDX is accepted before the instruction, whose kp field must then be 0 (R54). -/
def Instr.takesPredx : Instr → Bool
  | .cMov _ => false
  | .cAdd _ => false
  | .cSub _ => false
  | .cMul _ => false
  | .cAnd _ => false
  | .cOr _ => false
  | .cXor _ => false
  | .cShl _ => false
  | .cShrz _ => false
  | .cAddi _ => false
  | .cShli _ => false
  | .cFadd _ => false
  | .cFsub _ => false
  | .cFmul _ => false
  | .cFmax _ => false
  | .cFmin _ => false
  | .immx _ => false
  | .obs _ _ => false
  | .hint _ => false
  | .rep _ _ _ _ => false
  | .role _ => false
  | .predx _ _ => false
  | .vadd f => f.kp == 0
  | .vsub f => f.kp == 0
  | .vaddss f => f.kp == 0
  | .vaddsz f => f.kp == 0
  | .vmul f => f.kp == 0
  | .vmulhs f => f.kp == 0
  | .vmulhz f => f.kp == 0
  | .vmad f => f.kp == 0
  | .vand f => f.kp == 0
  | .vor f => f.kp == 0
  | .vxor f => f.kp == 0
  | .vandn f => f.kp == 0
  | .vshl f => f.kp == 0
  | .vshrz f => f.kp == 0
  | .vshrs f => f.kp == 0
  | .vrot f => f.kp == 0
  | .vcmpeq f => f.kp == 0
  | .vcmplts f => f.kp == 0
  | .vcmpltz f => f.kp == 0
  | .vcmples f => f.kp == 0
  | .vmins f => f.kp == 0
  | .vmaxs f => f.kp == 0
  | .vminz f => f.kp == 0
  | .vmaxz f => f.kp == 0
  | .vsel f => f.kp == 0
  | .vbcst kp _ _ => kp == 0
  | .vlane kp _ => kp == 0
  | .vpopc f => f.kp == 0
  | .vaddi f => f.kp == 0
  | .vandi f => f.kp == 0
  | .vshli f => f.kp == 0
  | .vshrzi f => f.kp == 0
  | .vmovi _ kp _ => kp == 0
  | .vmuli f => f.kp == 0
  | .vshrsi f => f.kp == 0
  | .vxori f => f.kp == 0
  | .vdot4 _ => false
  | .vdot8 _ => false
  | .vdot4s _ => false
  | .vdot8s _ => false
  | .vcmpeqi f => f.kp == 0
  | .vcmpltsi f => f.kp == 0
  | .vcmpltzi f => f.kp == 0
  | .vcmpgtsi f => f.kp == 0
  | .vfadd f => f.kp == 0
  | .vfsub f => f.kp == 0
  | .vfmul f => f.kp == 0
  | .vfma f => f.kp == 0
  | .vfmin f => f.kp == 0
  | .vfmax f => f.kp == 0
  | .vfabs f => f.kp == 0
  | .vfneg f => f.kp == 0
  | .vfcmpeq f => f.kp == 0
  | .vfcmplt f => f.kp == 0
  | .vfcmple f => f.kp == 0
  | .vfcmpun f => f.kp == 0
  | .vhfma f => f.kp == 0
  | .vbfma f => f.kp == 0
  | .vhmul f => f.kp == 0
  | .vbmul f => f.kp == 0
  | .vhadd f => f.kp == 0
  | .vbadd f => f.kp == 0
  | .vhmax f => f.kp == 0
  | .vbmax f => f.kp == 0
  | .vmovw _ => false
  | .vmovwz _ => false
  | .vfmovb _ => false
  | .vmovhi _ => false
  | .vcvt f => f.kp == 0
  | .vsfu f => f.kp == 0
  | .vrand kp _ => kp == 0
  | .vrandf kp _ => kp == 0
  | .vgumb f => f.kp == 0
  | .vradv _ => false
  | .vshfl f => f.kp == 0
  | .vshflx f => f.kp == 0
  | .vshflup f => f.kp == 0
  | .vshfldn f => f.kp == 0
  | .vredadd f => f.kp == 0
  | .vredmaxs f => f.kp == 0
  | .vredfadd f => f.kp == 0
  | .vredfmax f => f.kp == 0
  | .vballot f => f.kp == 0
  | .vany f => f.kp == 0
  | .vall f => f.kp == 0
  | .vfirst f => f.kp == 0
  | .kand _ => false
  | .kor _ => false
  | .kxor _ => false
  | .kandn _ => false
  | .knot _ => false
  | .kfroms _ => false
  | .ktos _ => false
  | .kpopc _ => false
  | .sadd _ => false
  | .ssub _ => false
  | .smul _ => false
  | .smulhs _ => false
  | .smulhz _ => false
  | .sand _ => false
  | .sor _ => false
  | .sxor _ => false
  | .sshl _ => false
  | .sshrz _ => false
  | .sshrs _ => false
  | .smins _ => false
  | .smaxs _ => false
  | .sdivz _ => false
  | .sremz _ => false
  | .sclz _ => false
  | .saddi _ => false
  | .sandi _ => false
  | .sori _ => false
  | .sxori _ => false
  | .sshli _ => false
  | .sshrzi _ => false
  | .sshrsi _ => false
  | .smuli _ => false
  | .smovi _ => false
  | .smoviz _ => false
  | .smovh16 _ => false
  | .smovh32 _ => false
  | .smovh48 _ => false
  | .stagi _ _ => false
  | .saddi16 _ => false
  | .adda _ => false
  | .suba _ => false
  | .gettag _ => false
  | .settag _ => false
  | .seq _ => false
  | .sne _ => false
  | .slts _ => false
  | .sles _ => false
  | .sltz _ => false
  | .slez _ => false
  | .bz _ => false
  | .bnz _ => false
  | .blz _ => false
  | .bgez _ => false
  | .bkany _ => false
  | .bkall _ => false
  | .bknone _ => false
  | .brv _ => false
  | .jmp _ => false
  | .call _ => false
  | .jr _ => false
  | .callr _ => false
  | .ret => false
  | .join => false
  | .exit => false
  | .yield => false
  | .nop32 => false
  | .bkpt _ => false
  | .elect _ => false
  | .vldB32 f => f.kp == 0
  | .vldB64 f => f.kp == 0
  | .vldB128 f => f.kp == 0
  | .vldB16z f => f.kp == 0
  | .vldB8z f => f.kp == 0
  | .vldB8s f => f.kp == 0
  | .vldB16s f => f.kp == 0
  | .vstB32 f => f.kp == 0
  | .vstB64 f => f.kp == 0
  | .vstB128 f => f.kp == 0
  | .vstB16 f => f.kp == 0
  | .vstB8 f => f.kp == 0
  | .vldlB32 f => f.kp == 0
  | .vldlB128 f => f.kp == 0
  | .vstlB32 f => f.kp == 0
  | .vstlB128 f => f.kp == 0
  | .sldB64 _ => false
  | .sldB32z _ => false
  | .sldB32s _ => false
  | .sldB8z _ => false
  | .sstB64 _ => false
  | .sstB32 _ => false
  | .sstB8 _ => false
  | .slda _ => false
  | .ssta _ => false
  | .sldl _ => false
  | .sstl _ => false
  | .clean _ => false
  | .inval _ => false
  | .clninv _ => false
  | .pref _ _ => false
  | .bankmode _ _ _ => false
  | .l1drop => false
  | .msvaddBf16 _ => false
  | .msvaddF32 _ => false
  | .msvmulBf16 _ => false
  | .msvfill _ => false
  | .msvcopy _ => false
  | .atom _ => false
  | .atom64 _ => false
  | .atompk _ => false
  | .satom _ => false
  | .atomicPerform _ _ => false
  | .fence _ _ => false
  | .oprdy => false
  | .fencei => false
  | .waitc _ _ => false
  | .waitr _ _ => false
  | .waita _ => false
  | .mma _ => false
  | .mzero _ => false
  | .mldt _ => false
  | .mstt _ => false
  | .msave _ _ => false
  | .mrest _ _ => false
  | .mscale _ => false
  | .matrixOpStart _ => false
  | .matrixOpRetire _ => false
  | .cpyg2l _ => false
  | .cpyl2g _ => false
  | .cpyg2g _ => false
  | .cpygath _ => false
  | .cpyl2l _ => false
  | .cpyrk _ => false
  | .collared _ => false
  | .collbc _ => false
  | .copyCommandStart _ => false
  | .copyPartLand _ => false
  | .collectiveComplete _ _ => false
  | .syncinit _ _ => false
  | .syncwait _ _ => false
  | .syncadd _ _ => false
  | .barwarr _ => false
  | .barwwait _ _ => false
  | .nbarinit _ _ => false
  | .nbararr _ => false
  | .nbarwait _ => false
  | .nbarsync _ => false
  | .qcfg _ _ => false
  | .qtry _ _ _ => false
  | .qpeek _ _ _ => false
  | .qclose _ => false
  | .cqfence _ _ => false
  | .rdep _ _ _ => false
  | .depositDelivery _ => false
  | .tasknew _ => false
  | .taskdep _ => false
  | .taskget _ => false
  | .taskdone _ _ => false
  | .lnch _ => false
  | .vpart _ => false
  | .vxacq => false
  | .vxrel => false
  | .xwait _ => false
  | .setobs _ _ => false
  | .rwp _ => false
  | .exmask _ _ => false
  | .setrng _ _ => false
  | .pin _ _ => false
  | .unpin _ => false
  | .recl _ => false
  | .pinrd _ _ => false
  | .groomerSweep _ => false
  | .rkldK f => f.kp == 0
  | .rkldV f => f.kp == 0
  | .rkstK f => f.kp == 0
  | .rkstV f => f.kp == 0
  | .rkalloc _ => false
  | .rkpub _ => false
  | .rkacq _ => false
  | .rksnap _ => false
  | .rkvoid _ => false
  | .rkpage _ => false
  | .rkinfo _ => false
  | .sldesc _ _ => false
  | .slexp _ => false
  | .slback _ => false
  | .slpick _ => false
  | .slroot _ => false
  | .slprune _ => false
  | .slread _ => false
  | .slnew _ => false
  | .slcfg _ => false
  | .trap _ => false
  | .rett => false
  | .srd _ _ => false
  | .swr _ _ => false
  | .wfe _ => false
  | .wfeTimeout _ _ => false
  | .evsig _ _ => false
  | .time _ => false
  | .halt _ => false
  | .resultDelivery _ => false
  | .sfuResult _ => false
  | .storePerform _ _ => false
  | .ownLeaseReturn _ => false
  | .leaseRequestRetry _ _ => false
  | .leaseSweep _ => false
  | .maintenanceDone _ => false
  | .msvComplete _ => false
  | .tlbInvalidate _ _ _ => false
  | .pagerPromote _ _ _ => false
  | .wridxWrite _ _ _ => false
  | .launchTake _ _ _ => false
  | .gangPlace _ => false
  | .placementStarvation _ => false
  | .eqRdWrite _ _ => false
  | .flagsSet _ _ => false
  | .lodgeNow _ => false
  | .softReset _ => false
  | .clearReset _ => false
  | .functionLevelReset _ => false
  | .supervisorResetRequest _ _ => false
  | .resetComplete _ => false
  | .registerWrite _ _ _ _ => false
  | .commandRegionRead _ _ => false
  | .liftComplete _ => false
  | .lodge _ => false
  | .sliceEnd _ => false
  | .contextImageWrite _ => false
  | .gangResume _ => false
  | .overrunWatchdog _ => false
  | .overrunKill _ => false
  | .suspensionWatchdog _ => false
  | .replayWatchdog _ => false
  | .supervisorResume _ _ => false
  | .supervisorKill _ => false
  | .replay _ => false
  | .continueHalt _ => false
  | .umarekLaunch _ _ _ _ _ => false
  | .createRink _ _ _ => false
  | .destroyRink _ _ => false
  | .createTree _ _ _ => false
  | .trapVectorWrite _ _ _ => false
  | .rangeEntryWrite _ _ _ _ _ => false
  | .reclaimActionWrite _ _ _ => false
  | .taskTypeLoad _ _ _ => false
  | .groupConfigure _ _ _ => false
  | .peerSlotWrite _ _ _ => false
  | .inboundGrantWrite _ _ _ => false
  | .peerLinkJoin _ _ => false
  | .setPartitions _ => false
  | .createVd _ => false
  | .memorySliceMove _ _ => false
  | .chunkBusy _ => false
  | .chunkCopied _ => false
  | .btbaseSet _ _ _ _ => false
  | .steal _ => false
  | .stealFinish _ => false
  | .recordingSet _ _ => false
  | .rerun _ _ => false
  | .hostSharedRead _ _ _ => false
  | .hostOwnershipRequest _ _ _ _ => false
  | .hostWriteback _ _ _ _ _ _ => false
  | .bisnpRetry _ _ _ => false
  | .hostSnoop _ _ => false
  | .ucieModuleFail _ => false
  | .ucieModuleTrain _ => false
  | .flitReceive _ _ _ => false
  | .ack _ _ => false
  | .nak _ _ => false
  | .rate _ _ _ => false
  | .rateTimer _ => false
  | .portRetrain _ _ => false
  | .linkDown _ => false
  | .scrub _ => false
  | .powerCeiling _ => false
  | .islandFrequencyChange _ _ => false
  | .powerGood _ _ => false
  | .warmStart _ _ => false
  | .recoveryImage _ => false
  | .dmtLoad _ _ _ _ _ => false
  | .dmtLaunch _ _ _ _ _ => false
  | .dmtBreak _ _ _ => false
  | .dmtRun _ _ => false
  | .dmtStep _ _ => false
  | .dmtRegs _ _ _ _ => false
  | .dmtKpred _ _ => false
  | .dmtWaves _ => false
  | .dmtMem _ _ _ _ => false
  | .dmtMemDir _ _ _ => false
  | .dmtTrace _ _ _ => false
  | .dmtWatch _ _ _ => false
  | .dmtInjectPreempt _ => false
  | .dmtInjectFault _ _ => false
  | .dmtVector _ _ _ => false
  | .dmtSlalom _ _ => false
  | .dmtPins _ => false
  | .dmtRink _ _ => false
  | .peerLinkTrain _ => false
  | .uncorrectableError _ _ => false
  | .destroyTree _ _ => false
  | .rootChange _ _ _ => false
  | .hostAccessWindowGrant _ => false
  | .fabricRateCap _ _ => false

/-- The mnemonic has an encoding; the other rows of the table are events of the part. -/
def Instr.encoded : Instr → Bool
  | .cMov _ => true
  | .cAdd _ => true
  | .cSub _ => true
  | .cMul _ => true
  | .cAnd _ => true
  | .cOr _ => true
  | .cXor _ => true
  | .cShl _ => true
  | .cShrz _ => true
  | .cAddi _ => true
  | .cShli _ => true
  | .cFadd _ => true
  | .cFsub _ => true
  | .cFmul _ => true
  | .cFmax _ => true
  | .cFmin _ => true
  | .immx _ => true
  | .obs _ _ => true
  | .hint _ => true
  | .rep _ _ _ _ => true
  | .role _ => true
  | .predx _ _ => true
  | .vadd _ => true
  | .vsub _ => true
  | .vaddss _ => true
  | .vaddsz _ => true
  | .vmul _ => true
  | .vmulhs _ => true
  | .vmulhz _ => true
  | .vmad _ => true
  | .vand _ => true
  | .vor _ => true
  | .vxor _ => true
  | .vandn _ => true
  | .vshl _ => true
  | .vshrz _ => true
  | .vshrs _ => true
  | .vrot _ => true
  | .vcmpeq _ => true
  | .vcmplts _ => true
  | .vcmpltz _ => true
  | .vcmples _ => true
  | .vmins _ => true
  | .vmaxs _ => true
  | .vminz _ => true
  | .vmaxz _ => true
  | .vsel _ => true
  | .vbcst _ _ _ => true
  | .vlane _ _ => true
  | .vpopc _ => true
  | .vaddi _ => true
  | .vandi _ => true
  | .vshli _ => true
  | .vshrzi _ => true
  | .vmovi _ _ _ => true
  | .vmuli _ => true
  | .vshrsi _ => true
  | .vxori _ => true
  | .vdot4 _ => true
  | .vdot8 _ => true
  | .vdot4s _ => true
  | .vdot8s _ => true
  | .vcmpeqi _ => true
  | .vcmpltsi _ => true
  | .vcmpltzi _ => true
  | .vcmpgtsi _ => true
  | .vfadd _ => true
  | .vfsub _ => true
  | .vfmul _ => true
  | .vfma _ => true
  | .vfmin _ => true
  | .vfmax _ => true
  | .vfabs _ => true
  | .vfneg _ => true
  | .vfcmpeq _ => true
  | .vfcmplt _ => true
  | .vfcmple _ => true
  | .vfcmpun _ => true
  | .vhfma _ => true
  | .vbfma _ => true
  | .vhmul _ => true
  | .vbmul _ => true
  | .vhadd _ => true
  | .vbadd _ => true
  | .vhmax _ => true
  | .vbmax _ => true
  | .vmovw _ => true
  | .vmovwz _ => true
  | .vfmovb _ => true
  | .vmovhi _ => true
  | .vcvt _ => true
  | .vsfu _ => true
  | .vrand _ _ => true
  | .vrandf _ _ => true
  | .vgumb _ => true
  | .vradv _ => true
  | .vshfl _ => true
  | .vshflx _ => true
  | .vshflup _ => true
  | .vshfldn _ => true
  | .vredadd _ => true
  | .vredmaxs _ => true
  | .vredfadd _ => true
  | .vredfmax _ => true
  | .vballot _ => true
  | .vany _ => true
  | .vall _ => true
  | .vfirst _ => true
  | .kand _ => true
  | .kor _ => true
  | .kxor _ => true
  | .kandn _ => true
  | .knot _ => true
  | .kfroms _ => true
  | .ktos _ => true
  | .kpopc _ => true
  | .sadd _ => true
  | .ssub _ => true
  | .smul _ => true
  | .smulhs _ => true
  | .smulhz _ => true
  | .sand _ => true
  | .sor _ => true
  | .sxor _ => true
  | .sshl _ => true
  | .sshrz _ => true
  | .sshrs _ => true
  | .smins _ => true
  | .smaxs _ => true
  | .sdivz _ => true
  | .sremz _ => true
  | .sclz _ => true
  | .saddi _ => true
  | .sandi _ => true
  | .sori _ => true
  | .sxori _ => true
  | .sshli _ => true
  | .sshrzi _ => true
  | .sshrsi _ => true
  | .smuli _ => true
  | .smovi _ => true
  | .smoviz _ => true
  | .smovh16 _ => true
  | .smovh32 _ => true
  | .smovh48 _ => true
  | .stagi _ _ => true
  | .saddi16 _ => true
  | .adda _ => true
  | .suba _ => true
  | .gettag _ => true
  | .settag _ => true
  | .seq _ => true
  | .sne _ => true
  | .slts _ => true
  | .sles _ => true
  | .sltz _ => true
  | .slez _ => true
  | .bz _ => true
  | .bnz _ => true
  | .blz _ => true
  | .bgez _ => true
  | .bkany _ => true
  | .bkall _ => true
  | .bknone _ => true
  | .brv _ => true
  | .jmp _ => true
  | .call _ => true
  | .jr _ => true
  | .callr _ => true
  | .ret => true
  | .join => true
  | .exit => true
  | .yield => true
  | .nop32 => true
  | .bkpt _ => true
  | .elect _ => true
  | .vldB32 _ => true
  | .vldB64 _ => true
  | .vldB128 _ => true
  | .vldB16z _ => true
  | .vldB8z _ => true
  | .vldB8s _ => true
  | .vldB16s _ => true
  | .vstB32 _ => true
  | .vstB64 _ => true
  | .vstB128 _ => true
  | .vstB16 _ => true
  | .vstB8 _ => true
  | .vldlB32 _ => true
  | .vldlB128 _ => true
  | .vstlB32 _ => true
  | .vstlB128 _ => true
  | .sldB64 _ => true
  | .sldB32z _ => true
  | .sldB32s _ => true
  | .sldB8z _ => true
  | .sstB64 _ => true
  | .sstB32 _ => true
  | .sstB8 _ => true
  | .slda _ => true
  | .ssta _ => true
  | .sldl _ => true
  | .sstl _ => true
  | .clean _ => true
  | .inval _ => true
  | .clninv _ => true
  | .pref _ _ => true
  | .bankmode _ _ _ => true
  | .l1drop => true
  | .msvaddBf16 _ => true
  | .msvaddF32 _ => true
  | .msvmulBf16 _ => true
  | .msvfill _ => true
  | .msvcopy _ => true
  | .atom _ => true
  | .atom64 _ => true
  | .atompk _ => true
  | .satom _ => true
  | .atomicPerform _ _ => false
  | .fence _ _ => true
  | .oprdy => true
  | .fencei => true
  | .waitc _ _ => true
  | .waitr _ _ => true
  | .waita _ => true
  | .mma _ => true
  | .mzero _ => true
  | .mldt _ => true
  | .mstt _ => true
  | .msave _ _ => true
  | .mrest _ _ => true
  | .mscale _ => true
  | .matrixOpStart _ => false
  | .matrixOpRetire _ => false
  | .cpyg2l _ => true
  | .cpyl2g _ => true
  | .cpyg2g _ => true
  | .cpygath _ => true
  | .cpyl2l _ => true
  | .cpyrk _ => true
  | .collared _ => true
  | .collbc _ => true
  | .copyCommandStart _ => false
  | .copyPartLand _ => false
  | .collectiveComplete _ _ => false
  | .syncinit _ _ => true
  | .syncwait _ _ => true
  | .syncadd _ _ => true
  | .barwarr _ => true
  | .barwwait _ _ => true
  | .nbarinit _ _ => true
  | .nbararr _ => true
  | .nbarwait _ => true
  | .nbarsync _ => true
  | .qcfg _ _ => true
  | .qtry _ _ _ => true
  | .qpeek _ _ _ => true
  | .qclose _ => true
  | .cqfence _ _ => true
  | .rdep _ _ _ => true
  | .depositDelivery _ => false
  | .tasknew _ => true
  | .taskdep _ => true
  | .taskget _ => true
  | .taskdone _ _ => true
  | .lnch _ => true
  | .vpart _ => true
  | .vxacq => true
  | .vxrel => true
  | .xwait _ => false
  | .setobs _ _ => true
  | .rwp _ => true
  | .exmask _ _ => true
  | .setrng _ _ => true
  | .pin _ _ => true
  | .unpin _ => true
  | .recl _ => true
  | .pinrd _ _ => true
  | .groomerSweep _ => false
  | .rkldK _ => true
  | .rkldV _ => true
  | .rkstK _ => true
  | .rkstV _ => true
  | .rkalloc _ => true
  | .rkpub _ => true
  | .rkacq _ => true
  | .rksnap _ => true
  | .rkvoid _ => true
  | .rkpage _ => true
  | .rkinfo _ => true
  | .sldesc _ _ => true
  | .slexp _ => true
  | .slback _ => true
  | .slpick _ => true
  | .slroot _ => true
  | .slprune _ => true
  | .slread _ => true
  | .slnew _ => true
  | .slcfg _ => true
  | .trap _ => true
  | .rett => true
  | .srd _ _ => true
  | .swr _ _ => true
  | .wfe _ => true
  | .wfeTimeout _ _ => false
  | .evsig _ _ => true
  | .time _ => true
  | .halt _ => true
  | .resultDelivery _ => false
  | .sfuResult _ => false
  | .storePerform _ _ => false
  | .ownLeaseReturn _ => false
  | .leaseRequestRetry _ _ => false
  | .leaseSweep _ => false
  | .maintenanceDone _ => false
  | .msvComplete _ => false
  | .tlbInvalidate _ _ _ => false
  | .pagerPromote _ _ _ => false
  | .wridxWrite _ _ _ => false
  | .launchTake _ _ _ => false
  | .gangPlace _ => false
  | .placementStarvation _ => false
  | .eqRdWrite _ _ => false
  | .flagsSet _ _ => false
  | .lodgeNow _ => false
  | .softReset _ => false
  | .clearReset _ => false
  | .functionLevelReset _ => false
  | .supervisorResetRequest _ _ => false
  | .resetComplete _ => false
  | .registerWrite _ _ _ _ => false
  | .commandRegionRead _ _ => false
  | .liftComplete _ => false
  | .lodge _ => false
  | .sliceEnd _ => false
  | .contextImageWrite _ => false
  | .gangResume _ => false
  | .overrunWatchdog _ => false
  | .overrunKill _ => false
  | .suspensionWatchdog _ => false
  | .replayWatchdog _ => false
  | .supervisorResume _ _ => false
  | .supervisorKill _ => false
  | .replay _ => false
  | .continueHalt _ => false
  | .umarekLaunch _ _ _ _ _ => false
  | .createRink _ _ _ => false
  | .destroyRink _ _ => false
  | .createTree _ _ _ => false
  | .trapVectorWrite _ _ _ => false
  | .rangeEntryWrite _ _ _ _ _ => false
  | .reclaimActionWrite _ _ _ => false
  | .taskTypeLoad _ _ _ => false
  | .groupConfigure _ _ _ => false
  | .peerSlotWrite _ _ _ => false
  | .inboundGrantWrite _ _ _ => false
  | .peerLinkJoin _ _ => false
  | .setPartitions _ => false
  | .createVd _ => false
  | .memorySliceMove _ _ => false
  | .chunkBusy _ => false
  | .chunkCopied _ => false
  | .btbaseSet _ _ _ _ => false
  | .steal _ => false
  | .stealFinish _ => false
  | .recordingSet _ _ => false
  | .rerun _ _ => false
  | .hostSharedRead _ _ _ => false
  | .hostOwnershipRequest _ _ _ _ => false
  | .hostWriteback _ _ _ _ _ _ => false
  | .bisnpRetry _ _ _ => false
  | .hostSnoop _ _ => false
  | .ucieModuleFail _ => false
  | .ucieModuleTrain _ => false
  | .flitReceive _ _ _ => false
  | .ack _ _ => false
  | .nak _ _ => false
  | .rate _ _ _ => false
  | .rateTimer _ => false
  | .portRetrain _ _ => false
  | .linkDown _ => false
  | .scrub _ => false
  | .powerCeiling _ => false
  | .islandFrequencyChange _ _ => false
  | .powerGood _ _ => false
  | .warmStart _ _ => false
  | .recoveryImage _ => false
  | .dmtLoad _ _ _ _ _ => false
  | .dmtLaunch _ _ _ _ _ => false
  | .dmtBreak _ _ _ => false
  | .dmtRun _ _ => false
  | .dmtStep _ _ => false
  | .dmtRegs _ _ _ _ => false
  | .dmtKpred _ _ => false
  | .dmtWaves _ => false
  | .dmtMem _ _ _ _ => false
  | .dmtMemDir _ _ _ => false
  | .dmtTrace _ _ _ => false
  | .dmtWatch _ _ _ => false
  | .dmtInjectPreempt _ => false
  | .dmtInjectFault _ _ => false
  | .dmtVector _ _ _ => false
  | .dmtSlalom _ _ => false
  | .dmtPins _ => false
  | .dmtRink _ _ => false
  | .peerLinkTrain _ => false
  | .uncorrectableError _ _ => false
  | .destroyTree _ _ => false
  | .rootChange _ _ _ => false
  | .hostAccessWindowGrant _ => false
  | .fabricRateCap _ _ => false

end Sys2Proof
end

