-- ==== Sys2Proof/WellFormed.lean ====
section
/-! DEFINITION. Well-formed instructions: those the spec gives a meaning (R59). The checks themselves stand in
Sys2Proof/Machine/Encoding.lean. -/
namespace Sys2Proof

/-- An instruction whose operand values the spec accepts. -/
def Instr.wf (i : Instr) : Bool := i.legal

end Sys2Proof
end

