-- ==== Sys2Proof/Decode.lean ====
section
/-! DEFINITION. The decoder and the encoder, from the formats of R52 and the opcode map of R70. An instruction word is
a number; bit 0 of its first halfword tells its length (R47).

The compiler of Lean 4.33 gives an inductive type at most 244 constructors with fields that compiled code may build, and
the table has 411 rows: the definitions that build an instruction from a word are therefore marked noncomputable. They
are structural, and the kernel evaluates them on numerals. -/
namespace Sys2Proof

/-- The field of `w` of n bits whose lowest bit is `lo`, as bits. -/
def bits (w lo n : Nat) : BitVec n := BitVec.ofNat n (w / 2 ^ lo)

/-- imm7 of format VI: bit 6 stands in bit 31, bits 5:0 in bits 26:21 (R52). -/
def immVI (w : Nat) : BitVec 7 := BitVec.ofNat 7 (field w 31 1 * 64 + field w 21 6)

/-- Where imm7 of format VI stands in the word (R52). -/
def putVI (imm : BitVec 7) : Nat := imm.toNat / 64 * 2 ^ 31 + imm.toNat % 64 * 2 ^ 21

def CReg.get (w : Nat) : CReg := ⟨bits w 11 5, bits w 5 6⟩
def CReg.put (f : CReg) : Nat := f.vs.toNat * 2 ^ 11 + f.vd.toNat * 2 ^ 5

def CImm.get (w : Nat) : CImm := ⟨bits w 11 5, bits w 5 6⟩
def CImm.put (f : CImm) : Nat := f.imm.toNat * 2 ^ 11 + f.vd.toNat * 2 ^ 5

def VF.get (w : Nat) : VF := ⟨bits w 31 1, bits w 30 1, bits w 29 1, bits w 27 2, bits w 21 6, bits w 15 6, bits w 9 6⟩
def VF.put (f : VF) : Nat := f.tb.toNat * 2 ^ 31 + f.ta.toNat * 2 ^ 30 + f.h.toNat * 2 ^ 29 + f.kp.toNat * 2 ^ 27 + f.vb.toNat * 2 ^ 21 + f.va.toNat * 2 ^ 15 + f.vd.toNat * 2 ^ 9

def VU.get (w : Nat) : VU := ⟨bits w 30 1, bits w 29 1, bits w 27 2, bits w 15 6, bits w 9 6⟩
def VU.put (f : VU) : Nat := f.ta.toNat * 2 ^ 30 + f.h.toNat * 2 ^ 29 + f.kp.toNat * 2 ^ 27 + f.va.toNat * 2 ^ 15 + f.vd.toNat * 2 ^ 9

def VI.get (w : Nat) : VI := ⟨immVI w, bits w 30 1, bits w 29 1, bits w 27 2, bits w 15 6, bits w 9 6⟩
def VI.put (f : VI) : Nat := putVI f.imm + f.ta.toNat * 2 ^ 30 + f.h.toNat * 2 ^ 29 + f.kp.toNat * 2 ^ 27 + f.va.toNat * 2 ^ 15 + f.vd.toNat * 2 ^ 9

def VDot.get (w : Nat) : VDot := ⟨bits w 31 1, bits w 30 1, bits w 29 1, bits w 28 1, bits w 27 1, bits w 21 6, bits w 15 6, bits w 9 6⟩
def VDot.put (f : VDot) : Nat := f.tb.toNat * 2 ^ 31 + f.ta.toNat * 2 ^ 30 + f.h.toNat * 2 ^ 29 + f.gb.toNat * 2 ^ 28 + f.ga.toNat * 2 ^ 27 + f.vb.toNat * 2 ^ 21 + f.va.toNat * 2 ^ 15 + f.vd.toNat * 2 ^ 9

def VL.get (w : Nat) : VL := ⟨bits w 15 16, bits w 9 6⟩
def VL.put (f : VL) : Nat := f.imm.toNat * 2 ^ 15 + f.vd.toNat * 2 ^ 9

def VC.get (w : Nat) : VC := ⟨bits w 30 1, bits w 29 1, bits w 27 2, bits w 21 6, bits w 15 6, bits w 9 6, bits w 7 2⟩
def VC.put (f : VC) : Nat := f.ta.toNat * 2 ^ 30 + f.h.toNat * 2 ^ 29 + f.kp.toNat * 2 ^ 27 + f.sel.toNat * 2 ^ 21 + f.va.toNat * 2 ^ 15 + f.vd.toNat * 2 ^ 9 + f.rm.toNat * 2 ^ 7

def VS.get (w : Nat) : VS := ⟨bits w 30 1, bits w 29 1, bits w 27 2, bits w 21 6, bits w 15 6, bits w 9 6, bits w 7 1⟩
def VS.put (f : VS) : Nat := f.ta.toNat * 2 ^ 30 + f.h.toNat * 2 ^ 29 + f.kp.toNat * 2 ^ 27 + f.fn.toNat * 2 ^ 21 + f.va.toNat * 2 ^ 15 + f.vd.toNat * 2 ^ 9 + f.fast.toNat * 2 ^ 7

def VX.get (w : Nat) : VX := ⟨bits w 30 1, bits w 29 1, bits w 27 2, bits w 21 6, bits w 15 6, bits w 9 6⟩
def VX.put (f : VX) : Nat := f.ta.toNat * 2 ^ 30 + f.h.toNat * 2 ^ 29 + f.kp.toNat * 2 ^ 27 + f.imm.toNat * 2 ^ 21 + f.va.toNat * 2 ^ 15 + f.vd.toNat * 2 ^ 9

def S3.get (w : Nat) : S3 := ⟨bits w 22 6, bits w 16 6, bits w 10 6⟩
def S3.put (f : S3) : Nat := f.sb.toNat * 2 ^ 22 + f.sa.toNat * 2 ^ 16 + f.sd.toNat * 2 ^ 10

def S2.get (w : Nat) : S2 := ⟨bits w 16 6, bits w 10 6⟩
def S2.put (f : S2) : Nat := f.sa.toNat * 2 ^ 16 + f.sd.toNat * 2 ^ 10

def SW3.get (w : Nat) : SW3 := ⟨bits w 22 6, bits w 16 6, bits w 10 6, bits w 7 1⟩
def SW3.put (f : SW3) : Nat := f.sb.toNat * 2 ^ 22 + f.sa.toNat * 2 ^ 16 + f.sd.toNat * 2 ^ 10 + f.w.toNat * 2 ^ 7

def SW2.get (w : Nat) : SW2 := ⟨bits w 16 6, bits w 10 6, bits w 7 1⟩
def SW2.put (f : SW2) : Nat := f.sa.toNat * 2 ^ 16 + f.sd.toNat * 2 ^ 10 + f.w.toNat * 2 ^ 7

def SI.get (w : Nat) : SI := ⟨bits w 22 10, bits w 16 6, bits w 10 6⟩
def SI.put (f : SI) : Nat := f.imm.toNat * 2 ^ 22 + f.sa.toNat * 2 ^ 16 + f.sd.toNat * 2 ^ 10

def SL.get (w : Nat) : SL := ⟨bits w 16 16, bits w 10 6⟩
def SL.put (f : SL) : Nat := f.imm.toNat * 2 ^ 16 + f.sd.toNat * 2 ^ 10

def BR.get (w : Nat) : BR := ⟨bits w 16 16, bits w 10 6⟩
def BR.put (f : BR) : Nat := f.disp.toNat * 2 ^ 16 + f.sa.toNat * 2 ^ 10

def ML.get (w : Nat) : ML := ⟨bits w 31 1, bits w 29 2, bits w 27 2, bits w 21 6, bits w 15 6, bits w 9 6⟩
def ML.put (f : ML) : Nat := f.split.toNat * 2 ^ 31 + f.ord.toNat * 2 ^ 29 + f.kp.toNat * 2 ^ 27 + f.va.toNat * 2 ^ 21 + f.sa.toNat * 2 ^ 15 + f.vd.toNat * 2 ^ 9

def MS.get (w : Nat) : MS := ⟨bits w 29 2, bits w 27 2, bits w 21 6, bits w 15 6, bits w 9 6⟩
def MS.put (f : MS) : Nat := f.ord.toNat * 2 ^ 29 + f.kp.toNat * 2 ^ 27 + f.va.toNat * 2 ^ 21 + f.sa.toNat * 2 ^ 15 + f.vd.toNat * 2 ^ 9

def ME.get (w : Nat) : ME := ⟨bits w 27 2, bits w 21 6, bits w 15 6, bits w 9 6⟩
def ME.put (f : ME) : Nat := f.kp.toNat * 2 ^ 27 + f.va.toNat * 2 ^ 21 + f.sa.toNat * 2 ^ 15 + f.vd.toNat * 2 ^ 9

def X3.get (w : Nat) : X3 := ⟨bits w 23 6, bits w 17 6, bits w 11 6⟩
def X3.put (f : X3) : Nat := f.sb.toNat * 2 ^ 23 + f.sa.toNat * 2 ^ 17 + f.d.toNat * 2 ^ 11

def AF.get (w : Nat) : AF := ⟨bits w 31 1, bits w 29 2, bits w 23 6, bits w 17 6, bits w 11 6, bits w 7 4⟩
def AF.put (f : AF) : Nat := f.ret.toNat * 2 ^ 31 + f.ord.toNat * 2 ^ 29 + f.va.toNat * 2 ^ 23 + f.sa.toNat * 2 ^ 17 + f.vd.toNat * 2 ^ 11 + f.aop.toNat * 2 ^ 7

def SA.get (w : Nat) : SA := ⟨bits w 28 4, bits w 22 6, bits w 16 6, bits w 10 6, bits w 7 1⟩
def SA.put (f : SA) : Nat := f.aop.toNat * 2 ^ 28 + f.sb.toNat * 2 ^ 22 + f.sa.toNat * 2 ^ 16 + f.sd.toNat * 2 ^ 10 + f.w.toNat * 2 ^ 7

def YF.get (w : Nat) : YF := ⟨bits w 25 7, bits w 19 6, bits w 13 6⟩
def YF.put (f : YF) : Nat := f.imm.toNat * 2 ^ 25 + f.a.toNat * 2 ^ 19 + f.d.toNat * 2 ^ 13

def MM.get (w : Nat) : MM := ⟨bits w 29 1, bits w 23 6, bits w 17 6, bits w 16 1, bits w 15 1, bits w 11 4, bits w 7 4⟩
def MM.put (f : MM) : Nat := f.bs.toNat * 2 ^ 29 + f.sb.toNat * 2 ^ 23 + f.sa.toNat * 2 ^ 17 + f.pair.toNat * 2 ^ 16 + f.z.toNat * 2 ^ 15 + f.t.toNat * 2 ^ 11 + f.ty.toNat * 2 ^ 7

def TF.get (w : Nat) : TF := ⟨bits w 29 3, bits w 17 6, bits w 11 4⟩
def TF.put (f : TF) : Nat := f.f3.toNat * 2 ^ 29 + f.sa.toNat * 2 ^ 17 + f.t.toNat * 2 ^ 11

def XF.get (w : Nat) : XF := ⟨bits w 29 3, bits w 23 6, bits w 17 6, bits w 11 6⟩
def XF.put (f : XF) : Nat := f.f3.toNat * 2 ^ 29 + f.sb.toNat * 2 ^ 23 + f.sa.toNat * 2 ^ 17 + f.d.toNat * 2 ^ 11

def XG.get (w : Nat) : XG := ⟨bits w 29 1, bits w 23 6, bits w 17 6, bits w 11 6⟩
def XG.put (f : XG) : Nat := f.g.toNat * 2 ^ 29 + f.sb.toNat * 2 ^ 23 + f.sa.toNat * 2 ^ 17 + f.d.toNat * 2 ^ 11

/-- The compact instructions, by op (R50). -/
def decodeHalf (w : Nat) : Option Instr :=
  match field w 1 4 with
  | 0 => some (.cMov (CReg.get w))
  | 1 => some (.cAdd (CReg.get w))
  | 2 => some (.cSub (CReg.get w))
  | 3 => some (.cMul (CReg.get w))
  | 4 => some (.cAnd (CReg.get w))
  | 5 => some (.cOr (CReg.get w))
  | 6 => some (.cXor (CReg.get w))
  | 7 => some (.cShl (CReg.get w))
  | 8 => some (.cShrz (CReg.get w))
  | 9 => some (.cAddi (CImm.get w))
  | 10 => some (.cShli (CImm.get w))
  | 11 => some (.cFadd (CReg.get w))
  | 12 => some (.cFsub (CReg.get w))
  | 13 => some (.cFmul (CReg.get w))
  | 14 => some (.cFmax (CReg.get w))
  | 15 => some (.cFmin (CReg.get w))
  | _ => none

/-- Major 0x01 (R70). -/
def decode01 (w : Nat) : Option Instr :=
  if field w 7 2 = 0 then some (.vadd (VF.get w))
  else if field w 7 2 = 1 then some (.vsub (VF.get w))
  else if field w 7 2 = 2 then some (.vaddss (VF.get w))
  else if field w 7 2 = 3 then some (.vaddsz (VF.get w))
  else none

/-- Major 0x02 (R70). -/
def decode02 (w : Nat) : Option Instr :=
  if field w 7 2 = 0 then some (.vmul (VF.get w))
  else if field w 7 2 = 1 then some (.vmulhs (VF.get w))
  else if field w 7 2 = 2 then some (.vmulhz (VF.get w))
  else if field w 7 2 = 3 then some (.vmad (VF.get w))
  else none

/-- Major 0x03 (R70). -/
def decode03 (w : Nat) : Option Instr :=
  if field w 7 2 = 0 then some (.vand (VF.get w))
  else if field w 7 2 = 1 then some (.vor (VF.get w))
  else if field w 7 2 = 2 then some (.vxor (VF.get w))
  else if field w 7 2 = 3 then some (.vandn (VF.get w))
  else none

/-- Major 0x04 (R70). -/
def decode04 (w : Nat) : Option Instr :=
  if field w 7 2 = 0 then some (.vshl (VF.get w))
  else if field w 7 2 = 1 then some (.vshrz (VF.get w))
  else if field w 7 2 = 2 then some (.vshrs (VF.get w))
  else if field w 7 2 = 3 then some (.vrot (VF.get w))
  else none

/-- Major 0x05 (R70). -/
def decode05 (w : Nat) : Option Instr :=
  if field w 7 2 = 0 then some (.vcmpeq (VF.get w))
  else if field w 7 2 = 1 then some (.vcmplts (VF.get w))
  else if field w 7 2 = 2 then some (.vcmpltz (VF.get w))
  else if field w 7 2 = 3 then some (.vcmples (VF.get w))
  else none

/-- Major 0x06 (R70). -/
def decode06 (w : Nat) : Option Instr :=
  if field w 7 2 = 0 then some (.vmins (VF.get w))
  else if field w 7 2 = 1 then some (.vmaxs (VF.get w))
  else if field w 7 2 = 2 then some (.vminz (VF.get w))
  else if field w 7 2 = 3 then some (.vmaxz (VF.get w))
  else none

/-- Major 0x07 (R70). -/
def decode07 (w : Nat) : Option Instr :=
  if field w 7 2 = 0 then some (.vsel (VF.get w))
  else if field w 7 2 = 1 ∧ field w 21 6 = 0 ∧ field w 29 3 = 0 then some (.vbcst (bits w 27 2) (bits w 15 6) (bits w 9 6))
  else if field w 7 2 = 2 ∧ field w 15 12 = 0 ∧ field w 29 3 = 0 then some (.vlane (bits w 27 2) (bits w 9 6))
  else if field w 7 2 = 3 ∧ field w 21 6 = 0 ∧ field w 31 1 = 0 then some (.vpopc (VU.get w))
  else none

/-- Major 0x08 (R70). -/
def decode08 (w : Nat) : Option Instr :=
  if field w 7 2 = 0 then some (.vaddi (VI.get w))
  else if field w 7 2 = 1 then some (.vandi (VI.get w))
  else if field w 7 2 = 2 then some (.vshli (VI.get w))
  else if field w 7 2 = 3 then some (.vshrzi (VI.get w))
  else none

/-- Major 0x09 (R70). -/
def decode09 (w : Nat) : Option Instr :=
  if field w 7 2 = 0 ∧ field w 15 6 = 0 ∧ field w 29 2 = 0 then some (.vmovi (immVI w) (bits w 27 2) (bits w 9 6))
  else if field w 7 2 = 1 then some (.vmuli (VI.get w))
  else if field w 7 2 = 2 then some (.vshrsi (VI.get w))
  else if field w 7 2 = 3 then some (.vxori (VI.get w))
  else none

/-- Major 0x0A (R70). -/
def decode0A (w : Nat) : Option Instr :=
  if field w 7 2 = 0 then some (.vdot4 (VDot.get w))
  else if field w 7 2 = 1 then some (.vdot8 (VDot.get w))
  else if field w 7 2 = 2 then some (.vdot4s (VDot.get w))
  else if field w 7 2 = 3 then some (.vdot8s (VDot.get w))
  else none

/-- Major 0x0B (R70). -/
def decode0B (w : Nat) : Option Instr :=
  if field w 7 2 = 0 then some (.vcmpeqi (VI.get w))
  else if field w 7 2 = 1 then some (.vcmpltsi (VI.get w))
  else if field w 7 2 = 2 then some (.vcmpltzi (VI.get w))
  else if field w 7 2 = 3 then some (.vcmpgtsi (VI.get w))
  else none

/-- Major 0x0C (R70). -/
def decode0C (w : Nat) : Option Instr :=
  if field w 7 2 = 0 then some (.vfadd (VF.get w))
  else if field w 7 2 = 1 then some (.vfsub (VF.get w))
  else if field w 7 2 = 2 then some (.vfmul (VF.get w))
  else if field w 7 2 = 3 then some (.vfma (VF.get w))
  else none

/-- Major 0x0D (R70). -/
def decode0D (w : Nat) : Option Instr :=
  if field w 7 2 = 0 then some (.vfmin (VF.get w))
  else if field w 7 2 = 1 then some (.vfmax (VF.get w))
  else if field w 7 2 = 2 ∧ field w 21 6 = 0 ∧ field w 31 1 = 0 then some (.vfabs (VU.get w))
  else if field w 7 2 = 3 ∧ field w 21 6 = 0 ∧ field w 31 1 = 0 then some (.vfneg (VU.get w))
  else none

/-- Major 0x0E (R70). -/
def decode0E (w : Nat) : Option Instr :=
  if field w 7 2 = 0 then some (.vfcmpeq (VF.get w))
  else if field w 7 2 = 1 then some (.vfcmplt (VF.get w))
  else if field w 7 2 = 2 then some (.vfcmple (VF.get w))
  else if field w 7 2 = 3 then some (.vfcmpun (VF.get w))
  else none

/-- Major 0x0F (R70). -/
def decode0F (w : Nat) : Option Instr :=
  if field w 7 2 = 0 then some (.vhfma (VF.get w))
  else if field w 7 2 = 1 then some (.vbfma (VF.get w))
  else if field w 7 2 = 2 then some (.vhmul (VF.get w))
  else if field w 7 2 = 3 then some (.vbmul (VF.get w))
  else none

/-- Major 0x10 (R70). -/
def decode10 (w : Nat) : Option Instr :=
  if field w 7 2 = 0 then some (.vhadd (VF.get w))
  else if field w 7 2 = 1 then some (.vbadd (VF.get w))
  else if field w 7 2 = 2 then some (.vhmax (VF.get w))
  else if field w 7 2 = 3 then some (.vbmax (VF.get w))
  else none

/-- Major 0x11 (R70). -/
def decode11 (w : Nat) : Option Instr :=
  if field w 7 2 = 0 ∧ field w 31 1 = 0 then some (.vmovw (VL.get w))
  else if field w 7 2 = 1 ∧ field w 31 1 = 0 then some (.vmovwz (VL.get w))
  else if field w 7 2 = 2 ∧ field w 31 1 = 0 then some (.vfmovb (VL.get w))
  else if field w 7 2 = 3 ∧ field w 31 1 = 0 then some (.vmovhi (VL.get w))
  else none

/-- Major 0x12 (R70). -/
def decode12 (w : Nat) : Option Instr :=
  if field w 31 1 = 0 then some (.vcvt (VC.get w))
  else none

/-- Major 0x13 (R70). -/
def decode13 (w : Nat) : Option Instr :=
  if field w 8 1 = 0 ∧ field w 31 1 = 0 then some (.vsfu (VS.get w))
  else none

/-- Major 0x14 (R70). -/
def decode14 (w : Nat) : Option Instr :=
  if field w 7 2 = 0 ∧ field w 15 12 = 0 ∧ field w 29 3 = 0 then some (.vrand (bits w 27 2) (bits w 9 6))
  else if field w 7 2 = 1 ∧ field w 15 12 = 0 ∧ field w 29 3 = 0 then some (.vrandf (bits w 27 2) (bits w 9 6))
  else if field w 7 2 = 2 ∧ field w 21 6 = 0 ∧ field w 31 1 = 0 then some (.vgumb (VU.get w))
  else if field w 7 8 = 3 ∧ field w 21 11 = 0 then some (.vradv (bits w 15 6))
  else none

/-- Major 0x15 (R70). -/
def decode15 (w : Nat) : Option Instr :=
  if field w 7 2 = 0 then some (.vshfl (VF.get w))
  else if field w 7 2 = 1 ∧ field w 31 1 = 0 then some (.vshflx (VX.get w))
  else if field w 7 2 = 2 ∧ field w 31 1 = 0 then some (.vshflup (VX.get w))
  else if field w 7 2 = 3 ∧ field w 31 1 = 0 then some (.vshfldn (VX.get w))
  else none

/-- Major 0x16 (R70). -/
def decode16 (w : Nat) : Option Instr :=
  if field w 7 2 = 0 ∧ field w 21 6 = 0 ∧ field w 31 1 = 0 then some (.vredadd (VU.get w))
  else if field w 7 2 = 1 ∧ field w 21 6 = 0 ∧ field w 31 1 = 0 then some (.vredmaxs (VU.get w))
  else if field w 7 2 = 2 ∧ field w 21 6 = 0 ∧ field w 31 1 = 0 then some (.vredfadd (VU.get w))
  else if field w 7 2 = 3 ∧ field w 21 6 = 0 ∧ field w 31 1 = 0 then some (.vredfmax (VU.get w))
  else none

/-- Major 0x17 (R70). -/
def decode17 (w : Nat) : Option Instr :=
  if field w 7 2 = 0 ∧ field w 21 6 = 0 ∧ field w 31 1 = 0 then some (.vballot (VU.get w))
  else if field w 7 2 = 1 ∧ field w 21 6 = 0 ∧ field w 31 1 = 0 then some (.vany (VU.get w))
  else if field w 7 2 = 2 ∧ field w 21 6 = 0 ∧ field w 31 1 = 0 then some (.vall (VU.get w))
  else if field w 7 2 = 3 ∧ field w 21 6 = 0 ∧ field w 31 1 = 0 then some (.vfirst (VU.get w))
  else none

/-- Major 0x18 (R70). -/
def decode18 (w : Nat) : Option Instr :=
  if field w 7 3 = 0 ∧ field w 28 4 = 0 then some (.kand (S3.get w))
  else if field w 7 3 = 1 ∧ field w 28 4 = 0 then some (.kor (S3.get w))
  else if field w 7 3 = 2 ∧ field w 28 4 = 0 then some (.kxor (S3.get w))
  else if field w 7 3 = 3 ∧ field w 28 4 = 0 then some (.kandn (S3.get w))
  else if field w 7 3 = 4 ∧ field w 22 10 = 0 then some (.knot (S2.get w))
  else if field w 7 3 = 5 ∧ field w 22 10 = 0 then some (.kfroms (S2.get w))
  else if field w 7 3 = 6 ∧ field w 22 10 = 0 then some (.ktos (S2.get w))
  else if field w 7 3 = 7 ∧ field w 22 10 = 0 then some (.kpopc (S2.get w))
  else none

/-- Major 0x19 (R70). -/
def decode19 (w : Nat) : Option Instr :=
  if field w 8 2 = 0 ∧ field w 28 4 = 0 then some (.sadd (SW3.get w))
  else if field w 8 2 = 0 ∧ field w 28 4 = 1 then some (.ssub (SW3.get w))
  else if field w 8 2 = 0 ∧ field w 28 4 = 2 then some (.smul (SW3.get w))
  else if field w 8 2 = 0 ∧ field w 28 4 = 3 then some (.smulhs (SW3.get w))
  else if field w 8 2 = 0 ∧ field w 28 4 = 4 then some (.smulhz (SW3.get w))
  else if field w 8 2 = 0 ∧ field w 28 4 = 5 then some (.sand (SW3.get w))
  else if field w 8 2 = 0 ∧ field w 28 4 = 6 then some (.sor (SW3.get w))
  else if field w 8 2 = 0 ∧ field w 28 4 = 7 then some (.sxor (SW3.get w))
  else if field w 8 2 = 0 ∧ field w 28 4 = 8 then some (.sshl (SW3.get w))
  else if field w 8 2 = 0 ∧ field w 28 4 = 9 then some (.sshrz (SW3.get w))
  else if field w 8 2 = 0 ∧ field w 28 4 = 10 then some (.sshrs (SW3.get w))
  else if field w 8 2 = 0 ∧ field w 28 4 = 11 then some (.smins (SW3.get w))
  else if field w 8 2 = 0 ∧ field w 28 4 = 12 then some (.smaxs (SW3.get w))
  else if field w 8 2 = 0 ∧ field w 28 4 = 13 then some (.sdivz (SW3.get w))
  else if field w 8 2 = 0 ∧ field w 28 4 = 14 then some (.sremz (SW3.get w))
  else if field w 8 2 = 0 ∧ field w 22 10 = 960 then some (.sclz (SW2.get w))
  else none

/-- Major 0x1A (R70). -/
def decode1A (w : Nat) : Option Instr :=
  if field w 7 3 = 0 then some (.saddi (SI.get w))
  else if field w 7 3 = 1 then some (.sandi (SI.get w))
  else if field w 7 3 = 2 then some (.sori (SI.get w))
  else if field w 7 3 = 3 then some (.sxori (SI.get w))
  else if field w 7 3 = 4 then some (.sshli (SI.get w))
  else if field w 7 3 = 5 then some (.sshrzi (SI.get w))
  else if field w 7 3 = 6 then some (.sshrsi (SI.get w))
  else if field w 7 3 = 7 then some (.smuli (SI.get w))
  else none

/-- Major 0x1B (R70). -/
def decode1B (w : Nat) : Option Instr :=
  if field w 7 3 = 0 then some (.smovi (SL.get w))
  else if field w 7 3 = 1 then some (.smoviz (SL.get w))
  else if field w 7 3 = 2 then some (.smovh16 (SL.get w))
  else if field w 7 3 = 3 then some (.smovh32 (SL.get w))
  else if field w 7 3 = 4 then some (.smovh48 (SL.get w))
  else if field w 7 3 = 5 ∧ field w 24 8 = 0 then some (.stagi (bits w 16 8) (bits w 10 6))
  else if field w 7 3 = 6 then some (.saddi16 (SL.get w))
  else none

/-- Major 0x1C (R70). -/
def decode1C (w : Nat) : Option Instr :=
  if field w 7 3 = 0 ∧ field w 28 4 = 0 then some (.adda (S3.get w))
  else if field w 7 3 = 1 ∧ field w 28 4 = 0 then some (.suba (S3.get w))
  else if field w 7 3 = 2 ∧ field w 22 10 = 0 then some (.gettag (S2.get w))
  else if field w 7 3 = 3 ∧ field w 28 4 = 0 then some (.settag (S3.get w))
  else none

/-- Major 0x1D (R70). -/
def decode1D (w : Nat) : Option Instr :=
  if field w 7 3 = 0 ∧ field w 28 4 = 0 then some (.seq (S3.get w))
  else if field w 7 3 = 1 ∧ field w 28 4 = 0 then some (.sne (S3.get w))
  else if field w 7 3 = 2 ∧ field w 28 4 = 0 then some (.slts (S3.get w))
  else if field w 7 3 = 3 ∧ field w 28 4 = 0 then some (.sles (S3.get w))
  else if field w 7 3 = 4 ∧ field w 28 4 = 0 then some (.sltz (S3.get w))
  else if field w 7 3 = 5 ∧ field w 28 4 = 0 then some (.slez (S3.get w))
  else none

/-- Major 0x1E (R70). -/
def decode1E (w : Nat) : Option Instr :=
  if field w 7 3 = 0 then some (.bz (BR.get w))
  else if field w 7 3 = 1 then some (.bnz (BR.get w))
  else if field w 7 3 = 2 then some (.blz (BR.get w))
  else if field w 7 3 = 3 then some (.bgez (BR.get w))
  else if field w 7 3 = 4 then some (.bkany (BR.get w))
  else if field w 7 3 = 5 then some (.bkall (BR.get w))
  else if field w 7 3 = 6 then some (.bknone (BR.get w))
  else if field w 7 3 = 7 then some (.brv (BR.get w))
  else none

/-- Major 0x1F (R70). -/
def decode1F (w : Nat) : Option Instr :=
  if field w 7 1 = 0 then some (.jmp (bits w 8 24))
  else if field w 7 1 = 1 then some (.call (bits w 8 24))
  else none

/-- Major 0x20 (R70). -/
def decode20 (w : Nat) : Option Instr :=
  if field w 7 12 = 0 ∧ field w 25 7 = 0 then some (.jr (bits w 19 6))
  else if field w 7 12 = 1 ∧ field w 25 7 = 0 then some (.callr (bits w 19 6))
  else if field w 7 25 = 2 then some .ret
  else if field w 7 25 = 3 then some .join
  else if field w 7 25 = 4 then some .exit
  else if field w 7 25 = 5 then some .yield
  else if field w 7 25 = 6 then some .nop32
  else if field w 7 18 = 7 then some (.bkpt (bits w 25 7))
  else if field w 7 6 = 8 ∧ field w 19 13 = 0 then some (.elect (bits w 13 6))
  else none

/-- Major 0x21 (R70). -/
def decode21 (w : Nat) : Option Instr :=
  if field w 7 2 = 0 then some (.vldB32 (ML.get w))
  else if field w 7 2 = 1 then some (.vldB64 (ML.get w))
  else if field w 7 2 = 2 then some (.vldB128 (ML.get w))
  else if field w 7 2 = 3 then some (.vldB16z (ML.get w))
  else none

/-- Major 0x22 (R70). -/
def decode22 (w : Nat) : Option Instr :=
  if field w 7 2 = 0 then some (.vldB8z (ML.get w))
  else if field w 7 2 = 1 then some (.vldB8s (ML.get w))
  else if field w 7 2 = 2 then some (.vldB16s (ML.get w))
  else none

/-- Major 0x23 (R70). -/
def decode23 (w : Nat) : Option Instr :=
  if field w 7 2 = 0 ∧ field w 31 1 = 0 then some (.vstB32 (MS.get w))
  else if field w 7 2 = 1 ∧ field w 31 1 = 0 then some (.vstB64 (MS.get w))
  else if field w 7 2 = 2 ∧ field w 31 1 = 0 then some (.vstB128 (MS.get w))
  else if field w 7 2 = 3 ∧ field w 31 1 = 0 then some (.vstB16 (MS.get w))
  else none

/-- Major 0x24 (R70). -/
def decode24 (w : Nat) : Option Instr :=
  if field w 7 2 = 0 ∧ field w 31 1 = 0 then some (.vstB8 (MS.get w))
  else none

/-- Major 0x25 (R70). -/
def decode25 (w : Nat) : Option Instr :=
  if field w 7 2 = 0 ∧ field w 29 3 = 0 then some (.vldlB32 (ME.get w))
  else if field w 7 2 = 1 ∧ field w 29 3 = 0 then some (.vldlB128 (ME.get w))
  else if field w 7 2 = 2 ∧ field w 29 3 = 0 then some (.vstlB32 (ME.get w))
  else if field w 7 2 = 3 ∧ field w 29 3 = 0 then some (.vstlB128 (ME.get w))
  else none

/-- Major 0x26 (R70). -/
def decode26 (w : Nat) : Option Instr :=
  if field w 7 3 = 0 then some (.sldB64 (SI.get w))
  else if field w 7 3 = 1 then some (.sldB32z (SI.get w))
  else if field w 7 3 = 2 then some (.sldB32s (SI.get w))
  else if field w 7 3 = 3 then some (.sldB8z (SI.get w))
  else if field w 7 3 = 4 then some (.sstB64 (SI.get w))
  else if field w 7 3 = 5 then some (.sstB32 (SI.get w))
  else if field w 7 3 = 6 then some (.sstB8 (SI.get w))
  else if field w 7 3 = 7 then some (.slda (SI.get w))
  else none

/-- Major 0x27 (R70). -/
def decode27 (w : Nat) : Option Instr :=
  if field w 7 3 = 0 then some (.ssta (SI.get w))
  else if field w 7 3 = 1 then some (.sldl (SI.get w))
  else if field w 7 3 = 2 then some (.sstl (SI.get w))
  else none

/-- Major 0x28 (R70). -/
def decode28 (w : Nat) : Option Instr :=
  if field w 7 4 = 0 ∧ field w 29 3 = 0 then some (.clean (X3.get w))
  else if field w 7 4 = 1 ∧ field w 29 3 = 0 then some (.inval (X3.get w))
  else if field w 7 4 = 2 ∧ field w 29 3 = 0 then some (.clninv (X3.get w))
  else if field w 7 10 = 3 ∧ field w 29 3 = 0 then some (.pref (bits w 23 6) (bits w 17 6))
  else if field w 7 4 = 4 ∧ field w 23 6 = 0 then some (.bankmode (bits w 29 3) (bits w 17 6) (bits w 11 6))
  else if field w 7 25 = 5 then some .l1drop
  else none

/-- Major 0x29 (R70). -/
def decode29 (w : Nat) : Option Instr :=
  if field w 7 4 = 0 ∧ field w 29 3 = 0 then some (.msvaddBf16 (X3.get w))
  else if field w 7 4 = 1 ∧ field w 29 3 = 0 then some (.msvaddF32 (X3.get w))
  else if field w 7 4 = 2 ∧ field w 29 3 = 0 then some (.msvmulBf16 (X3.get w))
  else if field w 7 4 = 3 ∧ field w 29 3 = 0 then some (.msvfill (X3.get w))
  else if field w 7 4 = 4 ∧ field w 29 3 = 0 then some (.msvcopy (X3.get w))
  else none

/-- Major 0x2A (R70). -/
def decode2A (w : Nat) : Option Instr :=
  if True then some (.atom (AF.get w))
  else none

/-- Major 0x2B (R70). -/
def decode2B (w : Nat) : Option Instr :=
  if True then some (.atom64 (AF.get w))
  else none

/-- Major 0x2C (R70). -/
def decode2C (w : Nat) : Option Instr :=
  if field w 8 3 = 0 then some (.atompk (AF.get w))
  else none

/-- Major 0x2D (R70). -/
def decode2D (w : Nat) : Option Instr :=
  if field w 8 2 = 0 then some (.satom (SA.get w))
  else none

/-- Major 0x2E (R70). -/
def decode2E (w : Nat) : Option Instr :=
  if field w 7 18 = 0 then some (.fence (bits w 30 2) (bits w 25 5))
  else if field w 7 25 = 1 then some .oprdy
  else if field w 7 25 = 2 then some .fencei
  else none

/-- Major 0x2F (R70). -/
def decode2F (w : Nat) : Option Instr :=
  if field w 7 6 = 0 ∧ field w 19 6 = 0 then some (.waitc (bits w 25 7) (bits w 13 6))
  else if field w 7 6 = 1 ∧ field w 19 6 = 0 ∧ field w 26 6 = 0 then some (.waitr (bits w 25 1) (bits w 13 6))
  else if field w 7 6 = 2 then some (.waita (YF.get w))
  else none

/-- Major 0x30 (R70). -/
def decode30 (w : Nat) : Option Instr :=
  if field w 30 2 = 0 then some (.mma (MM.get w))
  else none

/-- Major 0x31 (R70). -/
def decode31 (w : Nat) : Option Instr :=
  if field w 7 4 = 0 ∧ field w 15 17 = 0 then some (.mzero (bits w 11 4))
  else if field w 7 4 = 1 ∧ field w 15 2 = 0 ∧ field w 23 6 = 0 then some (.mldt (TF.get w))
  else if field w 7 4 = 2 ∧ field w 15 2 = 0 ∧ field w 23 6 = 0 then some (.mstt (TF.get w))
  else if field w 7 4 = 3 ∧ field w 15 2 = 0 ∧ field w 23 9 = 0 then some (.msave (bits w 17 6) (bits w 11 4))
  else if field w 7 4 = 4 ∧ field w 15 2 = 0 ∧ field w 23 9 = 0 then some (.mrest (bits w 17 6) (bits w 11 4))
  else if field w 7 4 = 5 ∧ field w 15 2 = 0 ∧ field w 23 6 = 0 then some (.mscale (TF.get w))
  else none

/-- Major 0x32 (R70). -/
def decode32 (w : Nat) : Option Instr :=
  if field w 7 4 = 0 then some (.cpyg2l (XF.get w))
  else if field w 7 4 = 1 then some (.cpyl2g (XF.get w))
  else if field w 7 4 = 2 then some (.cpyg2g (XF.get w))
  else if field w 7 4 = 3 then some (.cpygath (XF.get w))
  else if field w 7 4 = 4 then some (.cpyl2l (XF.get w))
  else if field w 7 4 = 5 then some (.cpyrk (XF.get w))
  else if field w 7 4 = 6 then some (.collared (XF.get w))
  else if field w 7 4 = 7 then some (.collbc (XF.get w))
  else none

/-- Major 0x33 (R70). -/
noncomputable def decode33 (w : Nat) : Option Instr :=
  if field w 7 6 = 0 ∧ field w 25 7 = 0 then some (.syncinit (bits w 19 6) (bits w 13 6))
  else if field w 7 6 = 1 ∧ field w 25 7 = 0 then some (.syncwait (bits w 19 6) (bits w 13 6))
  else if field w 7 6 = 2 ∧ field w 25 7 = 0 then some (.syncadd (bits w 19 6) (bits w 13 6))
  else if field w 7 6 = 3 then some (.barwarr (YF.get w))
  else if field w 7 6 = 4 ∧ field w 25 7 = 0 then some (.barwwait (bits w 19 6) (bits w 13 6))
  else if field w 7 6 = 5 ∧ field w 19 6 = 0 then some (.nbarinit (bits w 25 7) (bits w 13 6))
  else if field w 7 18 = 6 then some (.nbararr (bits w 25 7))
  else if field w 7 18 = 7 then some (.nbarwait (bits w 25 7))
  else if field w 7 18 = 8 then some (.nbarsync (bits w 25 7))
  else none

/-- Major 0x34 (R70). -/
noncomputable def decode34 (w : Nat) : Option Instr :=
  if field w 7 6 = 0 ∧ field w 25 7 = 0 then some (.qcfg (bits w 19 6) (bits w 13 6))
  else if field w 7 6 = 1 ∧ field w 31 1 = 0 then some (.qtry (bits w 25 6) (bits w 19 6) (bits w 13 6))
  else if field w 7 6 = 2 ∧ field w 31 1 = 0 then some (.qpeek (bits w 25 6) (bits w 19 6) (bits w 13 6))
  else if field w 7 12 = 3 ∧ field w 25 7 = 0 then some (.qclose (bits w 19 6))
  else if field w 7 18 = 4 ∧ field w 29 3 = 0 then some (.cqfence (bits w 28 1) (bits w 25 3))
  else none

/-- Major 0x35 (R70). -/
noncomputable def decode35 (w : Nat) : Option Instr :=
  if field w 7 4 = 0 ∧ field w 23 6 = 0 ∧ field w 31 1 = 0 then some (.rdep (bits w 29 2) (bits w 17 6) (bits w 11 6))
  else none

/-- Major 0x36 (R70). -/
noncomputable def decode36 (w : Nat) : Option Instr :=
  if field w 7 4 = 0 ∧ field w 29 3 = 0 then some (.tasknew (X3.get w))
  else if field w 7 4 = 1 ∧ field w 29 3 = 0 then some (.taskdep (X3.get w))
  else if field w 7 4 = 2 ∧ field w 17 15 = 0 then some (.taskget (bits w 11 6))
  else if field w 7 4 = 3 ∧ field w 23 9 = 0 then some (.taskdone (bits w 17 6) (bits w 11 6))
  else if field w 7 4 = 4 ∧ field w 29 3 = 0 then some (.lnch (X3.get w))
  else none

/-- Major 0x37 (R70). -/
noncomputable def decode37 (w : Nat) : Option Instr :=
  if field w 7 18 = 0 then some (.vpart (bits w 25 7))
  else if field w 7 25 = 1 then some .vxacq
  else if field w 7 25 = 2 then some .vxrel
  else if field w 7 18 = 3 then some (.setobs (bits w 30 2) (bits w 25 5))
  else if field w 7 18 = 4 then some (.rwp (bits w 25 7))
  else if field w 7 12 = 5 then some (.exmask (bits w 25 7) (bits w 19 6))
  else if field w 7 6 = 6 ∧ field w 25 7 = 0 then some (.setrng (bits w 19 6) (bits w 13 6))
  else none

/-- Major 0x38 (R70). -/
noncomputable def decode38 (w : Nat) : Option Instr :=
  if field w 7 6 = 0 ∧ field w 25 7 = 0 then some (.pin (bits w 19 6) (bits w 13 6))
  else if field w 7 6 = 1 ∧ field w 19 13 = 0 then some (.unpin (bits w 13 6))
  else if field w 7 6 = 2 then some (.recl (YF.get w))
  else if field w 7 6 = 3 ∧ field w 25 7 = 0 then some (.pinrd (bits w 19 6) (bits w 13 6))
  else none

/-- Major 0x39 (R70). -/
noncomputable def decode39 (w : Nat) : Option Instr :=
  if field w 7 2 = 0 ∧ field w 29 3 = 0 then some (.rkldK (ME.get w))
  else if field w 7 2 = 1 ∧ field w 29 3 = 0 then some (.rkldV (ME.get w))
  else if field w 7 2 = 2 ∧ field w 29 3 = 0 then some (.rkstK (ME.get w))
  else if field w 7 2 = 3 ∧ field w 29 3 = 0 then some (.rkstV (ME.get w))
  else none

/-- Major 0x3A (R70). -/
noncomputable def decode3A (w : Nat) : Option Instr :=
  if field w 7 4 = 0 ∧ field w 30 2 = 0 then some (.rkalloc (XG.get w))
  else if field w 7 4 = 1 ∧ field w 29 3 = 0 then some (.rkpub (X3.get w))
  else if field w 7 4 = 2 ∧ field w 29 3 = 0 then some (.rkacq (X3.get w))
  else if field w 7 4 = 3 ∧ field w 30 2 = 0 then some (.rksnap (XG.get w))
  else if field w 7 4 = 4 ∧ field w 29 3 = 0 then some (.rkvoid (X3.get w))
  else if field w 7 4 = 5 ∧ field w 30 2 = 0 then some (.rkpage (XG.get w))
  else if field w 7 4 = 6 ∧ field w 29 3 = 0 then some (.rkinfo (X3.get w))
  else none

/-- Major 0x3B (R70). -/
noncomputable def decode3B (w : Nat) : Option Instr :=
  if field w 7 4 = 0 ∧ field w 23 9 = 0 then some (.sldesc (bits w 17 6) (bits w 11 6))
  else if field w 7 4 = 1 ∧ field w 29 3 = 0 then some (.slexp (X3.get w))
  else if field w 7 4 = 2 ∧ field w 29 3 = 0 then some (.slback (X3.get w))
  else if field w 7 4 = 3 ∧ field w 29 3 = 0 then some (.slpick (X3.get w))
  else if field w 7 4 = 4 ∧ field w 29 3 = 0 then some (.slroot (X3.get w))
  else if field w 7 4 = 5 ∧ field w 29 3 = 0 then some (.slprune (X3.get w))
  else if field w 7 4 = 6 ∧ field w 29 3 = 0 then some (.slread (X3.get w))
  else if field w 7 4 = 7 ∧ field w 29 3 = 0 then some (.slnew (X3.get w))
  else if field w 7 4 = 8 ∧ field w 29 3 = 0 then some (.slcfg (X3.get w))
  else none

/-- Major 0x3C (R70). -/
noncomputable def decode3C (w : Nat) : Option Instr :=
  if field w 7 18 = 0 then some (.trap (bits w 25 7))
  else if field w 7 25 = 1 then some .rett
  else if field w 7 6 = 2 ∧ field w 19 6 = 0 then some (.srd (bits w 25 7) (bits w 13 6))
  else if field w 7 12 = 3 then some (.swr (bits w 25 7) (bits w 19 6))
  else if field w 7 6 = 4 then some (.wfe (YF.get w))
  else if field w 7 12 = 5 then some (.evsig (bits w 25 7) (bits w 19 6))
  else if field w 7 6 = 6 ∧ field w 19 13 = 0 then some (.time (bits w 13 6))
  else if field w 7 18 = 7 then some (.halt (bits w 25 7))
  else none

/-- Major 0x3F (R70). -/
def decode3F (w : Nat) : Option Instr :=
  if field w 7 4 = 0 then some (.immx (bits w 11 21))
  else if field w 7 4 = 1 ∧ field w 19 13 = 0 then some (.obs (bits w 16 3) (bits w 11 5))
  else if field w 7 4 = 2 ∧ field w 14 18 = 0 then some (.hint (bits w 11 3))
  else if field w 7 4 = 3 ∧ field w 21 11 = 0 then some (.rep (bits w 20 1) (bits w 19 1) (bits w 17 2) (bits w 11 6))
  else if field w 7 4 = 4 ∧ field w 17 15 = 0 then some (.role (bits w 11 6))
  else if field w 7 4 = 5 ∧ field w 15 17 = 0 then some (.predx (bits w 14 1) (bits w 11 3))
  else none

/-- The 32-bit instructions and the prefixes, by major (R70). Majors 0x00, 0x3D and 0x3E hold nothing. -/
noncomputable def decodeWord (w : Nat) : Option Instr :=
  match field w 1 6 with
  | 0x01 => decode01 w
  | 0x02 => decode02 w
  | 0x03 => decode03 w
  | 0x04 => decode04 w
  | 0x05 => decode05 w
  | 0x06 => decode06 w
  | 0x07 => decode07 w
  | 0x08 => decode08 w
  | 0x09 => decode09 w
  | 0x0A => decode0A w
  | 0x0B => decode0B w
  | 0x0C => decode0C w
  | 0x0D => decode0D w
  | 0x0E => decode0E w
  | 0x0F => decode0F w
  | 0x10 => decode10 w
  | 0x11 => decode11 w
  | 0x12 => decode12 w
  | 0x13 => decode13 w
  | 0x14 => decode14 w
  | 0x15 => decode15 w
  | 0x16 => decode16 w
  | 0x17 => decode17 w
  | 0x18 => decode18 w
  | 0x19 => decode19 w
  | 0x1A => decode1A w
  | 0x1B => decode1B w
  | 0x1C => decode1C w
  | 0x1D => decode1D w
  | 0x1E => decode1E w
  | 0x1F => decode1F w
  | 0x20 => decode20 w
  | 0x21 => decode21 w
  | 0x22 => decode22 w
  | 0x23 => decode23 w
  | 0x24 => decode24 w
  | 0x25 => decode25 w
  | 0x26 => decode26 w
  | 0x27 => decode27 w
  | 0x28 => decode28 w
  | 0x29 => decode29 w
  | 0x2A => decode2A w
  | 0x2B => decode2B w
  | 0x2C => decode2C w
  | 0x2D => decode2D w
  | 0x2E => decode2E w
  | 0x2F => decode2F w
  | 0x30 => decode30 w
  | 0x31 => decode31 w
  | 0x32 => decode32 w
  | 0x33 => decode33 w
  | 0x34 => decode34 w
  | 0x35 => decode35 w
  | 0x36 => decode36 w
  | 0x37 => decode37 w
  | 0x38 => decode38 w
  | 0x39 => decode39 w
  | 0x3A => decode3A w
  | 0x3B => decode3B w
  | 0x3C => decode3C w
  | 0x3F => decode3F w
  | _ => none

/-- The bytes an instruction takes, from its first byte (R47). -/
def lengthOf (b : Byte) : Nat := if b.toNat % 2 = 0 then 2 else 4

/-- Read one instruction: none for every encoding that is not an instruction (R59). -/
noncomputable def decode (bs : List Byte) : Option Instr :=
  match bs with
  | [] => none
  | b :: _ =>
    let w := natOf (bs.take (lengthOf b))
    (if lengthOf b = 2 then decodeHalf w else decodeWord w).filter Instr.wf

/-- The word of a 32-bit instruction, or the halfword of a compact one (R50, R52); 0 for an event. -/
def encodeWord : Instr → Nat
  | .cMov f => 0x0 + f.put
  | .cAdd f => 0x2 + f.put
  | .cSub f => 0x4 + f.put
  | .cMul f => 0x6 + f.put
  | .cAnd f => 0x8 + f.put
  | .cOr f => 0xa + f.put
  | .cXor f => 0xc + f.put
  | .cShl f => 0xe + f.put
  | .cShrz f => 0x10 + f.put
  | .cAddi f => 0x12 + f.put
  | .cShli f => 0x14 + f.put
  | .cFadd f => 0x16 + f.put
  | .cFsub f => 0x18 + f.put
  | .cFmul f => 0x1a + f.put
  | .cFmax f => 0x1c + f.put
  | .cFmin f => 0x1e + f.put
  | .immx payload => 0x7f + payload.toNat * 2 ^ 11
  | .obs ord mask => 0xff + ord.toNat * 2 ^ 16 + mask.toNat * 2 ^ 11
  | .hint h => 0x17f + h.toNat * 2 ^ 11
  | .rep stepB stepA stride cnt => 0x1ff + stepB.toNat * 2 ^ 20 + stepA.toNat * 2 ^ 19 + stride.toNat * 2 ^ 17 + cnt.toNat * 2 ^ 11
  | .role r => 0x27f + r.toNat * 2 ^ 11
  | .predx neg k => 0x2ff + neg.toNat * 2 ^ 14 + k.toNat * 2 ^ 11
  | .vadd f => 0x3 + f.put
  | .vsub f => 0x83 + f.put
  | .vaddss f => 0x103 + f.put
  | .vaddsz f => 0x183 + f.put
  | .vmul f => 0x5 + f.put
  | .vmulhs f => 0x85 + f.put
  | .vmulhz f => 0x105 + f.put
  | .vmad f => 0x185 + f.put
  | .vand f => 0x7 + f.put
  | .vor f => 0x87 + f.put
  | .vxor f => 0x107 + f.put
  | .vandn f => 0x187 + f.put
  | .vshl f => 0x9 + f.put
  | .vshrz f => 0x89 + f.put
  | .vshrs f => 0x109 + f.put
  | .vrot f => 0x189 + f.put
  | .vcmpeq f => 0xb + f.put
  | .vcmplts f => 0x8b + f.put
  | .vcmpltz f => 0x10b + f.put
  | .vcmples f => 0x18b + f.put
  | .vmins f => 0xd + f.put
  | .vmaxs f => 0x8d + f.put
  | .vminz f => 0x10d + f.put
  | .vmaxz f => 0x18d + f.put
  | .vsel f => 0xf + f.put
  | .vbcst kp sa vd => 0x8f + kp.toNat * 2 ^ 27 + sa.toNat * 2 ^ 15 + vd.toNat * 2 ^ 9
  | .vlane kp vd => 0x10f + kp.toNat * 2 ^ 27 + vd.toNat * 2 ^ 9
  | .vpopc f => 0x18f + f.put
  | .vaddi f => 0x11 + f.put
  | .vandi f => 0x91 + f.put
  | .vshli f => 0x111 + f.put
  | .vshrzi f => 0x191 + f.put
  | .vmovi imm kp vd => 0x13 + putVI imm + kp.toNat * 2 ^ 27 + vd.toNat * 2 ^ 9
  | .vmuli f => 0x93 + f.put
  | .vshrsi f => 0x113 + f.put
  | .vxori f => 0x193 + f.put
  | .vdot4 f => 0x15 + f.put
  | .vdot8 f => 0x95 + f.put
  | .vdot4s f => 0x115 + f.put
  | .vdot8s f => 0x195 + f.put
  | .vcmpeqi f => 0x17 + f.put
  | .vcmpltsi f => 0x97 + f.put
  | .vcmpltzi f => 0x117 + f.put
  | .vcmpgtsi f => 0x197 + f.put
  | .vfadd f => 0x19 + f.put
  | .vfsub f => 0x99 + f.put
  | .vfmul f => 0x119 + f.put
  | .vfma f => 0x199 + f.put
  | .vfmin f => 0x1b + f.put
  | .vfmax f => 0x9b + f.put
  | .vfabs f => 0x11b + f.put
  | .vfneg f => 0x19b + f.put
  | .vfcmpeq f => 0x1d + f.put
  | .vfcmplt f => 0x9d + f.put
  | .vfcmple f => 0x11d + f.put
  | .vfcmpun f => 0x19d + f.put
  | .vhfma f => 0x1f + f.put
  | .vbfma f => 0x9f + f.put
  | .vhmul f => 0x11f + f.put
  | .vbmul f => 0x19f + f.put
  | .vhadd f => 0x21 + f.put
  | .vbadd f => 0xa1 + f.put
  | .vhmax f => 0x121 + f.put
  | .vbmax f => 0x1a1 + f.put
  | .vmovw f => 0x23 + f.put
  | .vmovwz f => 0xa3 + f.put
  | .vfmovb f => 0x123 + f.put
  | .vmovhi f => 0x1a3 + f.put
  | .vcvt f => 0x25 + f.put
  | .vsfu f => 0x27 + f.put
  | .vrand kp vd => 0x29 + kp.toNat * 2 ^ 27 + vd.toNat * 2 ^ 9
  | .vrandf kp vd => 0xa9 + kp.toNat * 2 ^ 27 + vd.toNat * 2 ^ 9
  | .vgumb f => 0x129 + f.put
  | .vradv sa => 0x1a9 + sa.toNat * 2 ^ 15
  | .vshfl f => 0x2b + f.put
  | .vshflx f => 0xab + f.put
  | .vshflup f => 0x12b + f.put
  | .vshfldn f => 0x1ab + f.put
  | .vredadd f => 0x2d + f.put
  | .vredmaxs f => 0xad + f.put
  | .vredfadd f => 0x12d + f.put
  | .vredfmax f => 0x1ad + f.put
  | .vballot f => 0x2f + f.put
  | .vany f => 0xaf + f.put
  | .vall f => 0x12f + f.put
  | .vfirst f => 0x1af + f.put
  | .kand f => 0x31 + f.put
  | .kor f => 0xb1 + f.put
  | .kxor f => 0x131 + f.put
  | .kandn f => 0x1b1 + f.put
  | .knot f => 0x231 + f.put
  | .kfroms f => 0x2b1 + f.put
  | .ktos f => 0x331 + f.put
  | .kpopc f => 0x3b1 + f.put
  | .sadd f => 0x33 + f.put
  | .ssub f => 0x10000033 + f.put
  | .smul f => 0x20000033 + f.put
  | .smulhs f => 0x30000033 + f.put
  | .smulhz f => 0x40000033 + f.put
  | .sand f => 0x50000033 + f.put
  | .sor f => 0x60000033 + f.put
  | .sxor f => 0x70000033 + f.put
  | .sshl f => 0x80000033 + f.put
  | .sshrz f => 0x90000033 + f.put
  | .sshrs f => 0xa0000033 + f.put
  | .smins f => 0xb0000033 + f.put
  | .smaxs f => 0xc0000033 + f.put
  | .sdivz f => 0xd0000033 + f.put
  | .sremz f => 0xe0000033 + f.put
  | .sclz f => 0xf0000033 + f.put
  | .saddi f => 0x35 + f.put
  | .sandi f => 0xb5 + f.put
  | .sori f => 0x135 + f.put
  | .sxori f => 0x1b5 + f.put
  | .sshli f => 0x235 + f.put
  | .sshrzi f => 0x2b5 + f.put
  | .sshrsi f => 0x335 + f.put
  | .smuli f => 0x3b5 + f.put
  | .smovi f => 0x37 + f.put
  | .smoviz f => 0xb7 + f.put
  | .smovh16 f => 0x137 + f.put
  | .smovh32 f => 0x1b7 + f.put
  | .smovh48 f => 0x237 + f.put
  | .stagi tag sd => 0x2b7 + tag.toNat * 2 ^ 16 + sd.toNat * 2 ^ 10
  | .saddi16 f => 0x337 + f.put
  | .adda f => 0x39 + f.put
  | .suba f => 0xb9 + f.put
  | .gettag f => 0x139 + f.put
  | .settag f => 0x1b9 + f.put
  | .seq f => 0x3b + f.put
  | .sne f => 0xbb + f.put
  | .slts f => 0x13b + f.put
  | .sles f => 0x1bb + f.put
  | .sltz f => 0x23b + f.put
  | .slez f => 0x2bb + f.put
  | .bz f => 0x3d + f.put
  | .bnz f => 0xbd + f.put
  | .blz f => 0x13d + f.put
  | .bgez f => 0x1bd + f.put
  | .bkany f => 0x23d + f.put
  | .bkall f => 0x2bd + f.put
  | .bknone f => 0x33d + f.put
  | .brv f => 0x3bd + f.put
  | .jmp disp => 0x3f + disp.toNat * 2 ^ 8
  | .call disp => 0xbf + disp.toNat * 2 ^ 8
  | .jr sa => 0x41 + sa.toNat * 2 ^ 19
  | .callr sa => 0xc1 + sa.toNat * 2 ^ 19
  | .ret => 0x141
  | .join => 0x1c1
  | .exit => 0x241
  | .yield => 0x2c1
  | .nop32 => 0x341
  | .bkpt code => 0x3c1 + code.toNat * 2 ^ 25
  | .elect sd => 0x441 + sd.toNat * 2 ^ 13
  | .vldB32 f => 0x43 + f.put
  | .vldB64 f => 0xc3 + f.put
  | .vldB128 f => 0x143 + f.put
  | .vldB16z f => 0x1c3 + f.put
  | .vldB8z f => 0x45 + f.put
  | .vldB8s f => 0xc5 + f.put
  | .vldB16s f => 0x145 + f.put
  | .vstB32 f => 0x47 + f.put
  | .vstB64 f => 0xc7 + f.put
  | .vstB128 f => 0x147 + f.put
  | .vstB16 f => 0x1c7 + f.put
  | .vstB8 f => 0x49 + f.put
  | .vldlB32 f => 0x4b + f.put
  | .vldlB128 f => 0xcb + f.put
  | .vstlB32 f => 0x14b + f.put
  | .vstlB128 f => 0x1cb + f.put
  | .sldB64 f => 0x4d + f.put
  | .sldB32z f => 0xcd + f.put
  | .sldB32s f => 0x14d + f.put
  | .sldB8z f => 0x1cd + f.put
  | .sstB64 f => 0x24d + f.put
  | .sstB32 f => 0x2cd + f.put
  | .sstB8 f => 0x34d + f.put
  | .slda f => 0x3cd + f.put
  | .ssta f => 0x4f + f.put
  | .sldl f => 0xcf + f.put
  | .sstl f => 0x14f + f.put
  | .clean f => 0x51 + f.put
  | .inval f => 0xd1 + f.put
  | .clninv f => 0x151 + f.put
  | .pref sb sa => 0x1d1 + sb.toNat * 2 ^ 23 + sa.toNat * 2 ^ 17
  | .bankmode mode sa d => 0x251 + mode.toNat * 2 ^ 29 + sa.toNat * 2 ^ 17 + d.toNat * 2 ^ 11
  | .l1drop => 0x2d1
  | .msvaddBf16 f => 0x53 + f.put
  | .msvaddF32 f => 0xd3 + f.put
  | .msvmulBf16 f => 0x153 + f.put
  | .msvfill f => 0x1d3 + f.put
  | .msvcopy f => 0x253 + f.put
  | .atom f => 0x55 + f.put
  | .atom64 f => 0x57 + f.put
  | .atompk f => 0x59 + f.put
  | .satom f => 0x5b + f.put
  | .atomicPerform _ _ => 0
  | .fence ord mask => 0x5d + ord.toNat * 2 ^ 30 + mask.toNat * 2 ^ 25
  | .oprdy => 0xdd
  | .fencei => 0x15d
  | .waitc n cls => 0x5f + n.toNat * 2 ^ 25 + cls.toNat * 2 ^ 13
  | .waitr scalar d => 0xdf + scalar.toNat * 2 ^ 25 + d.toNat * 2 ^ 13
  | .waita f => 0x15f + f.put
  | .mma f => 0x61 + f.put
  | .mzero t => 0x63 + t.toNat * 2 ^ 11
  | .mldt f => 0xe3 + f.put
  | .mstt f => 0x163 + f.put
  | .msave sa t => 0x1e3 + sa.toNat * 2 ^ 17 + t.toNat * 2 ^ 11
  | .mrest sa t => 0x263 + sa.toNat * 2 ^ 17 + t.toNat * 2 ^ 11
  | .mscale f => 0x2e3 + f.put
  | .matrixOpStart _ => 0
  | .matrixOpRetire _ => 0
  | .cpyg2l f => 0x65 + f.put
  | .cpyl2g f => 0xe5 + f.put
  | .cpyg2g f => 0x165 + f.put
  | .cpygath f => 0x1e5 + f.put
  | .cpyl2l f => 0x265 + f.put
  | .cpyrk f => 0x2e5 + f.put
  | .collared f => 0x365 + f.put
  | .collbc f => 0x3e5 + f.put
  | .copyCommandStart _ => 0
  | .copyPartLand _ => 0
  | .collectiveComplete _ _ => 0
  | .syncinit a d => 0x67 + a.toNat * 2 ^ 19 + d.toNat * 2 ^ 13
  | .syncwait a d => 0xe7 + a.toNat * 2 ^ 19 + d.toNat * 2 ^ 13
  | .syncadd a d => 0x167 + a.toNat * 2 ^ 19 + d.toNat * 2 ^ 13
  | .barwarr f => 0x1e7 + f.put
  | .barwwait a d => 0x267 + a.toNat * 2 ^ 19 + d.toNat * 2 ^ 13
  | .nbarinit b d => 0x2e7 + b.toNat * 2 ^ 25 + d.toNat * 2 ^ 13
  | .nbararr b => 0x367 + b.toNat * 2 ^ 25
  | .nbarwait b => 0x3e7 + b.toNat * 2 ^ 25
  | .nbarsync b => 0x467 + b.toNat * 2 ^ 25
  | .qcfg a d => 0x69 + a.toNat * 2 ^ 19 + d.toNat * 2 ^ 13
  | .qtry sd q d => 0xe9 + sd.toNat * 2 ^ 25 + q.toNat * 2 ^ 19 + d.toNat * 2 ^ 13
  | .qpeek sd q d => 0x169 + sd.toNat * 2 ^ 25 + q.toNat * 2 ^ 19 + d.toNat * 2 ^ 13
  | .qclose q => 0x1e9 + q.toNat * 2 ^ 19
  | .cqfence all n => 0x269 + all.toNat * 2 ^ 28 + n.toNat * 2 ^ 25
  | .rdep n sa d => 0x6b + n.toNat * 2 ^ 29 + sa.toNat * 2 ^ 17 + d.toNat * 2 ^ 11
  | .depositDelivery _ => 0
  | .tasknew f => 0x6d + f.put
  | .taskdep f => 0xed + f.put
  | .taskget d => 0x16d + d.toNat * 2 ^ 11
  | .taskdone sa d => 0x1ed + sa.toNat * 2 ^ 17 + d.toNat * 2 ^ 11
  | .lnch f => 0x26d + f.put
  | .vpart n => 0x6f + n.toNat * 2 ^ 25
  | .vxacq => 0xef
  | .vxrel => 0x16f
  | .xwait _ => 0
  | .setobs ord mask => 0x1ef + ord.toNat * 2 ^ 30 + mask.toNat * 2 ^ 25
  | .rwp r => 0x26f + r.toNat * 2 ^ 25
  | .exmask mode a => 0x2ef + mode.toNat * 2 ^ 25 + a.toNat * 2 ^ 19
  | .setrng a d => 0x36f + a.toNat * 2 ^ 19 + d.toNat * 2 ^ 13
  | .pin a n => 0x71 + a.toNat * 2 ^ 19 + n.toNat * 2 ^ 13
  | .unpin n => 0xf1 + n.toNat * 2 ^ 13
  | .recl f => 0x171 + f.put
  | .pinrd n d => 0x1f1 + n.toNat * 2 ^ 19 + d.toNat * 2 ^ 13
  | .groomerSweep _ => 0
  | .rkldK f => 0x73 + f.put
  | .rkldV f => 0xf3 + f.put
  | .rkstK f => 0x173 + f.put
  | .rkstV f => 0x1f3 + f.put
  | .rkalloc f => 0x75 + f.put
  | .rkpub f => 0xf5 + f.put
  | .rkacq f => 0x175 + f.put
  | .rksnap f => 0x1f5 + f.put
  | .rkvoid f => 0x275 + f.put
  | .rkpage f => 0x2f5 + f.put
  | .rkinfo f => 0x375 + f.put
  | .sldesc sa d => 0x77 + sa.toNat * 2 ^ 17 + d.toNat * 2 ^ 11
  | .slexp f => 0xf7 + f.put
  | .slback f => 0x177 + f.put
  | .slpick f => 0x1f7 + f.put
  | .slroot f => 0x277 + f.put
  | .slprune f => 0x2f7 + f.put
  | .slread f => 0x377 + f.put
  | .slnew f => 0x3f7 + f.put
  | .slcfg f => 0x477 + f.put
  | .trap code => 0x79 + code.toNat * 2 ^ 25
  | .rett => 0xf9
  | .srd r d => 0x179 + r.toNat * 2 ^ 25 + d.toNat * 2 ^ 13
  | .swr r a => 0x1f9 + r.toNat * 2 ^ 25 + a.toNat * 2 ^ 19
  | .wfe f => 0x279 + f.put
  | .wfeTimeout _ _ => 0
  | .evsig code a => 0x2f9 + code.toNat * 2 ^ 25 + a.toNat * 2 ^ 19
  | .time sd => 0x379 + sd.toNat * 2 ^ 13
  | .halt code => 0x3f9 + code.toNat * 2 ^ 25
  | .resultDelivery _ => 0
  | .sfuResult _ => 0
  | .storePerform _ _ => 0
  | .ownLeaseReturn _ => 0
  | .leaseRequestRetry _ _ => 0
  | .leaseSweep _ => 0
  | .maintenanceDone _ => 0
  | .msvComplete _ => 0
  | .tlbInvalidate _ _ _ => 0
  | .pagerPromote _ _ _ => 0
  | .wridxWrite _ _ _ => 0
  | .launchTake _ _ _ => 0
  | .gangPlace _ => 0
  | .placementStarvation _ => 0
  | .eqRdWrite _ _ => 0
  | .flagsSet _ _ => 0
  | .lodgeNow _ => 0
  | .softReset _ => 0
  | .clearReset _ => 0
  | .functionLevelReset _ => 0
  | .supervisorResetRequest _ _ => 0
  | .resetComplete _ => 0
  | .registerWrite _ _ _ _ => 0
  | .commandRegionRead _ _ => 0
  | .liftComplete _ => 0
  | .lodge _ => 0
  | .sliceEnd _ => 0
  | .contextImageWrite _ => 0
  | .gangResume _ => 0
  | .overrunWatchdog _ => 0
  | .overrunKill _ => 0
  | .suspensionWatchdog _ => 0
  | .replayWatchdog _ => 0
  | .supervisorResume _ _ => 0
  | .supervisorKill _ => 0
  | .replay _ => 0
  | .continueHalt _ => 0
  | .umarekLaunch _ _ _ _ _ => 0
  | .createRink _ _ _ => 0
  | .destroyRink _ _ => 0
  | .createTree _ _ _ => 0
  | .trapVectorWrite _ _ _ => 0
  | .rangeEntryWrite _ _ _ _ _ => 0
  | .reclaimActionWrite _ _ _ => 0
  | .taskTypeLoad _ _ _ => 0
  | .groupConfigure _ _ _ => 0
  | .peerSlotWrite _ _ _ => 0
  | .inboundGrantWrite _ _ _ => 0
  | .peerLinkJoin _ _ => 0
  | .setPartitions _ => 0
  | .createVd _ => 0
  | .memorySliceMove _ _ => 0
  | .chunkBusy _ => 0
  | .chunkCopied _ => 0
  | .btbaseSet _ _ _ _ => 0
  | .steal _ => 0
  | .stealFinish _ => 0
  | .recordingSet _ _ => 0
  | .rerun _ _ => 0
  | .hostSharedRead _ _ _ => 0
  | .hostOwnershipRequest _ _ _ _ => 0
  | .hostWriteback _ _ _ _ _ _ => 0
  | .bisnpRetry _ _ _ => 0
  | .hostSnoop _ _ => 0
  | .ucieModuleFail _ => 0
  | .ucieModuleTrain _ => 0
  | .flitReceive _ _ _ => 0
  | .ack _ _ => 0
  | .nak _ _ => 0
  | .rate _ _ _ => 0
  | .rateTimer _ => 0
  | .portRetrain _ _ => 0
  | .linkDown _ => 0
  | .scrub _ => 0
  | .powerCeiling _ => 0
  | .islandFrequencyChange _ _ => 0
  | .powerGood _ _ => 0
  | .warmStart _ _ => 0
  | .recoveryImage _ => 0
  | .dmtLoad _ _ _ _ _ => 0
  | .dmtLaunch _ _ _ _ _ => 0
  | .dmtBreak _ _ _ => 0
  | .dmtRun _ _ => 0
  | .dmtStep _ _ => 0
  | .dmtRegs _ _ _ _ => 0
  | .dmtKpred _ _ => 0
  | .dmtWaves _ => 0
  | .dmtMem _ _ _ _ => 0
  | .dmtMemDir _ _ _ => 0
  | .dmtTrace _ _ _ => 0
  | .dmtWatch _ _ _ => 0
  | .dmtInjectPreempt _ => 0
  | .dmtInjectFault _ _ => 0
  | .dmtVector _ _ _ => 0
  | .dmtSlalom _ _ => 0
  | .dmtPins _ => 0
  | .dmtRink _ _ => 0
  | .peerLinkTrain _ => 0
  | .uncorrectableError _ _ => 0
  | .destroyTree _ _ => 0
  | .rootChange _ _ _ => 0
  | .hostAccessWindowGrant _ => 0
  | .fabricRateCap _ _ => 0

/-- The instruction is one of the sixteen compact forms. -/
def Instr.compact : Instr → Bool
  | .cMov _ => true
  | .cAdd _ => true
  | .cSub _ => true
  | .cMul _ => true
  | .cAnd _ => true
  | .cOr _ => true
  | .cXor _ => true
  | .cShl _ => true
  | .cShrz _ => true
  | .cAddi _ => true
  | .cShli _ => true
  | .cFadd _ => true
  | .cFsub _ => true
  | .cFmul _ => true
  | .cFmax _ => true
  | .cFmin _ => true
  | .immx _ => false
  | .obs _ _ => false
  | .hint _ => false
  | .rep _ _ _ _ => false
  | .role _ => false
  | .predx _ _ => false
  | .vadd _ => false
  | .vsub _ => false
  | .vaddss _ => false
  | .vaddsz _ => false
  | .vmul _ => false
  | .vmulhs _ => false
  | .vmulhz _ => false
  | .vmad _ => false
  | .vand _ => false
  | .vor _ => false
  | .vxor _ => false
  | .vandn _ => false
  | .vshl _ => false
  | .vshrz _ => false
  | .vshrs _ => false
  | .vrot _ => false
  | .vcmpeq _ => false
  | .vcmplts _ => false
  | .vcmpltz _ => false
  | .vcmples _ => false
  | .vmins _ => false
  | .vmaxs _ => false
  | .vminz _ => false
  | .vmaxz _ => false
  | .vsel _ => false
  | .vbcst _ _ _ => false
  | .vlane _ _ => false
  | .vpopc _ => false
  | .vaddi _ => false
  | .vandi _ => false
  | .vshli _ => false
  | .vshrzi _ => false
  | .vmovi _ _ _ => false
  | .vmuli _ => false
  | .vshrsi _ => false
  | .vxori _ => false
  | .vdot4 _ => false
  | .vdot8 _ => false
  | .vdot4s _ => false
  | .vdot8s _ => false
  | .vcmpeqi _ => false
  | .vcmpltsi _ => false
  | .vcmpltzi _ => false
  | .vcmpgtsi _ => false
  | .vfadd _ => false
  | .vfsub _ => false
  | .vfmul _ => false
  | .vfma _ => false
  | .vfmin _ => false
  | .vfmax _ => false
  | .vfabs _ => false
  | .vfneg _ => false
  | .vfcmpeq _ => false
  | .vfcmplt _ => false
  | .vfcmple _ => false
  | .vfcmpun _ => false
  | .vhfma _ => false
  | .vbfma _ => false
  | .vhmul _ => false
  | .vbmul _ => false
  | .vhadd _ => false
  | .vbadd _ => false
  | .vhmax _ => false
  | .vbmax _ => false
  | .vmovw _ => false
  | .vmovwz _ => false
  | .vfmovb _ => false
  | .vmovhi _ => false
  | .vcvt _ => false
  | .vsfu _ => false
  | .vrand _ _ => false
  | .vrandf _ _ => false
  | .vgumb _ => false
  | .vradv _ => false
  | .vshfl _ => false
  | .vshflx _ => false
  | .vshflup _ => false
  | .vshfldn _ => false
  | .vredadd _ => false
  | .vredmaxs _ => false
  | .vredfadd _ => false
  | .vredfmax _ => false
  | .vballot _ => false
  | .vany _ => false
  | .vall _ => false
  | .vfirst _ => false
  | .kand _ => false
  | .kor _ => false
  | .kxor _ => false
  | .kandn _ => false
  | .knot _ => false
  | .kfroms _ => false
  | .ktos _ => false
  | .kpopc _ => false
  | .sadd _ => false
  | .ssub _ => false
  | .smul _ => false
  | .smulhs _ => false
  | .smulhz _ => false
  | .sand _ => false
  | .sor _ => false
  | .sxor _ => false
  | .sshl _ => false
  | .sshrz _ => false
  | .sshrs _ => false
  | .smins _ => false
  | .smaxs _ => false
  | .sdivz _ => false
  | .sremz _ => false
  | .sclz _ => false
  | .saddi _ => false
  | .sandi _ => false
  | .sori _ => false
  | .sxori _ => false
  | .sshli _ => false
  | .sshrzi _ => false
  | .sshrsi _ => false
  | .smuli _ => false
  | .smovi _ => false
  | .smoviz _ => false
  | .smovh16 _ => false
  | .smovh32 _ => false
  | .smovh48 _ => false
  | .stagi _ _ => false
  | .saddi16 _ => false
  | .adda _ => false
  | .suba _ => false
  | .gettag _ => false
  | .settag _ => false
  | .seq _ => false
  | .sne _ => false
  | .slts _ => false
  | .sles _ => false
  | .sltz _ => false
  | .slez _ => false
  | .bz _ => false
  | .bnz _ => false
  | .blz _ => false
  | .bgez _ => false
  | .bkany _ => false
  | .bkall _ => false
  | .bknone _ => false
  | .brv _ => false
  | .jmp _ => false
  | .call _ => false
  | .jr _ => false
  | .callr _ => false
  | .ret => false
  | .join => false
  | .exit => false
  | .yield => false
  | .nop32 => false
  | .bkpt _ => false
  | .elect _ => false
  | .vldB32 _ => false
  | .vldB64 _ => false
  | .vldB128 _ => false
  | .vldB16z _ => false
  | .vldB8z _ => false
  | .vldB8s _ => false
  | .vldB16s _ => false
  | .vstB32 _ => false
  | .vstB64 _ => false
  | .vstB128 _ => false
  | .vstB16 _ => false
  | .vstB8 _ => false
  | .vldlB32 _ => false
  | .vldlB128 _ => false
  | .vstlB32 _ => false
  | .vstlB128 _ => false
  | .sldB64 _ => false
  | .sldB32z _ => false
  | .sldB32s _ => false
  | .sldB8z _ => false
  | .sstB64 _ => false
  | .sstB32 _ => false
  | .sstB8 _ => false
  | .slda _ => false
  | .ssta _ => false
  | .sldl _ => false
  | .sstl _ => false
  | .clean _ => false
  | .inval _ => false
  | .clninv _ => false
  | .pref _ _ => false
  | .bankmode _ _ _ => false
  | .l1drop => false
  | .msvaddBf16 _ => false
  | .msvaddF32 _ => false
  | .msvmulBf16 _ => false
  | .msvfill _ => false
  | .msvcopy _ => false
  | .atom _ => false
  | .atom64 _ => false
  | .atompk _ => false
  | .satom _ => false
  | .atomicPerform _ _ => false
  | .fence _ _ => false
  | .oprdy => false
  | .fencei => false
  | .waitc _ _ => false
  | .waitr _ _ => false
  | .waita _ => false
  | .mma _ => false
  | .mzero _ => false
  | .mldt _ => false
  | .mstt _ => false
  | .msave _ _ => false
  | .mrest _ _ => false
  | .mscale _ => false
  | .matrixOpStart _ => false
  | .matrixOpRetire _ => false
  | .cpyg2l _ => false
  | .cpyl2g _ => false
  | .cpyg2g _ => false
  | .cpygath _ => false
  | .cpyl2l _ => false
  | .cpyrk _ => false
  | .collared _ => false
  | .collbc _ => false
  | .copyCommandStart _ => false
  | .copyPartLand _ => false
  | .collectiveComplete _ _ => false
  | .syncinit _ _ => false
  | .syncwait _ _ => false
  | .syncadd _ _ => false
  | .barwarr _ => false
  | .barwwait _ _ => false
  | .nbarinit _ _ => false
  | .nbararr _ => false
  | .nbarwait _ => false
  | .nbarsync _ => false
  | .qcfg _ _ => false
  | .qtry _ _ _ => false
  | .qpeek _ _ _ => false
  | .qclose _ => false
  | .cqfence _ _ => false
  | .rdep _ _ _ => false
  | .depositDelivery _ => false
  | .tasknew _ => false
  | .taskdep _ => false
  | .taskget _ => false
  | .taskdone _ _ => false
  | .lnch _ => false
  | .vpart _ => false
  | .vxacq => false
  | .vxrel => false
  | .xwait _ => false
  | .setobs _ _ => false
  | .rwp _ => false
  | .exmask _ _ => false
  | .setrng _ _ => false
  | .pin _ _ => false
  | .unpin _ => false
  | .recl _ => false
  | .pinrd _ _ => false
  | .groomerSweep _ => false
  | .rkldK _ => false
  | .rkldV _ => false
  | .rkstK _ => false
  | .rkstV _ => false
  | .rkalloc _ => false
  | .rkpub _ => false
  | .rkacq _ => false
  | .rksnap _ => false
  | .rkvoid _ => false
  | .rkpage _ => false
  | .rkinfo _ => false
  | .sldesc _ _ => false
  | .slexp _ => false
  | .slback _ => false
  | .slpick _ => false
  | .slroot _ => false
  | .slprune _ => false
  | .slread _ => false
  | .slnew _ => false
  | .slcfg _ => false
  | .trap _ => false
  | .rett => false
  | .srd _ _ => false
  | .swr _ _ => false
  | .wfe _ => false
  | .wfeTimeout _ _ => false
  | .evsig _ _ => false
  | .time _ => false
  | .halt _ => false
  | .resultDelivery _ => false
  | .sfuResult _ => false
  | .storePerform _ _ => false
  | .ownLeaseReturn _ => false
  | .leaseRequestRetry _ _ => false
  | .leaseSweep _ => false
  | .maintenanceDone _ => false
  | .msvComplete _ => false
  | .tlbInvalidate _ _ _ => false
  | .pagerPromote _ _ _ => false
  | .wridxWrite _ _ _ => false
  | .launchTake _ _ _ => false
  | .gangPlace _ => false
  | .placementStarvation _ => false
  | .eqRdWrite _ _ => false
  | .flagsSet _ _ => false
  | .lodgeNow _ => false
  | .softReset _ => false
  | .clearReset _ => false
  | .functionLevelReset _ => false
  | .supervisorResetRequest _ _ => false
  | .resetComplete _ => false
  | .registerWrite _ _ _ _ => false
  | .commandRegionRead _ _ => false
  | .liftComplete _ => false
  | .lodge _ => false
  | .sliceEnd _ => false
  | .contextImageWrite _ => false
  | .gangResume _ => false
  | .overrunWatchdog _ => false
  | .overrunKill _ => false
  | .suspensionWatchdog _ => false
  | .replayWatchdog _ => false
  | .supervisorResume _ _ => false
  | .supervisorKill _ => false
  | .replay _ => false
  | .continueHalt _ => false
  | .umarekLaunch _ _ _ _ _ => false
  | .createRink _ _ _ => false
  | .destroyRink _ _ => false
  | .createTree _ _ _ => false
  | .trapVectorWrite _ _ _ => false
  | .rangeEntryWrite _ _ _ _ _ => false
  | .reclaimActionWrite _ _ _ => false
  | .taskTypeLoad _ _ _ => false
  | .groupConfigure _ _ _ => false
  | .peerSlotWrite _ _ _ => false
  | .inboundGrantWrite _ _ _ => false
  | .peerLinkJoin _ _ => false
  | .setPartitions _ => false
  | .createVd _ => false
  | .memorySliceMove _ _ => false
  | .chunkBusy _ => false
  | .chunkCopied _ => false
  | .btbaseSet _ _ _ _ => false
  | .steal _ => false
  | .stealFinish _ => false
  | .recordingSet _ _ => false
  | .rerun _ _ => false
  | .hostSharedRead _ _ _ => false
  | .hostOwnershipRequest _ _ _ _ => false
  | .hostWriteback _ _ _ _ _ _ => false
  | .bisnpRetry _ _ _ => false
  | .hostSnoop _ _ => false
  | .ucieModuleFail _ => false
  | .ucieModuleTrain _ => false
  | .flitReceive _ _ _ => false
  | .ack _ _ => false
  | .nak _ _ => false
  | .rate _ _ _ => false
  | .rateTimer _ => false
  | .portRetrain _ _ => false
  | .linkDown _ => false
  | .scrub _ => false
  | .powerCeiling _ => false
  | .islandFrequencyChange _ _ => false
  | .powerGood _ _ => false
  | .warmStart _ _ => false
  | .recoveryImage _ => false
  | .dmtLoad _ _ _ _ _ => false
  | .dmtLaunch _ _ _ _ _ => false
  | .dmtBreak _ _ _ => false
  | .dmtRun _ _ => false
  | .dmtStep _ _ => false
  | .dmtRegs _ _ _ _ => false
  | .dmtKpred _ _ => false
  | .dmtWaves _ => false
  | .dmtMem _ _ _ _ => false
  | .dmtMemDir _ _ _ => false
  | .dmtTrace _ _ _ => false
  | .dmtWatch _ _ _ => false
  | .dmtInjectPreempt _ => false
  | .dmtInjectFault _ _ => false
  | .dmtVector _ _ _ => false
  | .dmtSlalom _ _ => false
  | .dmtPins _ => false
  | .dmtRink _ _ => false
  | .peerLinkTrain _ => false
  | .uncorrectableError _ _ => false
  | .destroyTree _ _ => false
  | .rootChange _ _ _ => false
  | .hostAccessWindowGrant _ => false
  | .fabricRateCap _ _ => false

/-- The bytes of an instruction as they stand in memory (R47); none for an event. -/
def encode (i : Instr) : List Byte :=
  if i.encoded then bytesOf (if i.compact then 2 else 4) (encodeWord i) else []

/-- What the decoder reads from an instruction whose bits are `w`, bit 0 the lowest bit of the first halfword. -/
noncomputable def decodeTableWord (nbits w : Nat) : Option Instr := decode (bytesOf 4 (w % 2 ^ nbits))

end Sys2Proof
end

