-- ==== Sys2Proof/Config.lean ====
section
/-! DEFINITION. What the spec leaves open or gives each part: the free values, and the constants of the package that no
rule fixes. A free value has no body: nothing can be proved of it, so a statement about it holds whatever it is. Each
draw takes the next number of State.free, so that two draws have nothing in common. -/
namespace Sys2Proof.Config

/-- A bit the spec leaves open: old or new, kept or lost, this value or that (R8). -/
opaque freeBit : Nat → Bool
/-- A word the spec leaves open: which line a cache evicts, a peer's data. -/
opaque freeWord : Nat → Word
/-- What the special-function unit gives for an operand where R122 allows several results: function, .fast, operand. The
part decides once for all: equal operands give equal bits (R89). -/
opaque freeSfu : Nat → Bool → Word → Word
/-- A byte the part does not determine: what a peer device returns (R163). -/
opaque freeByte : Nat → Nat → Byte

end Sys2Proof.Config
end

