-- ==== Sys2Proof/Machine/Num.lean ====
section
/-! DEFINITION. Number formats and arithmetic (R76-R88): exact values, rounding, conversions, shared-exponent blocks,
scale streams. A floating-point operation computes exactly and rounds once at the end. -/
namespace Sys2Proof.Num

/-- An exact value: NaN, a signed infinity, or (-1)^neg × m × 2^e. Zero keeps its sign. -/
inductive Ex where
  | nan
  | inf (neg : Bool)
  | fin (neg : Bool) (m : Nat) (e : Int)
  deriving DecidableEq, Repr, Inhabited

/-- How a format uses its topmost exponent: infinities and NaNs; e4m3's single NaN; finite values only (R77). -/
inductive Kind where
  | ieee
  | e4m3
  | finite
  deriving DecidableEq, Repr, Inhabited

/-- A format of R77: exponent bits, mantissa bits, bias, kind, and whether a finite overflow saturates in every mode
(R81). -/
structure Fmt where
  eb : Nat
  mb : Nat
  bias : Nat
  kind : Kind
  sat : Bool
  deriving DecidableEq, Repr, Inhabited

def f32 : Fmt := ⟨8, 23, 127, .ieee, false⟩
def h16 : Fmt := ⟨5, 10, 15, .ieee, false⟩
def bf16 : Fmt := ⟨8, 7, 127, .ieee, false⟩
def e5m2 : Fmt := ⟨5, 2, 15, .ieee, true⟩
def e4m3 : Fmt := ⟨4, 3, 7, .e4m3, true⟩
def e2m1 : Fmt := ⟨2, 1, 1, .finite, true⟩
def e3m2 : Fmt := ⟨3, 2, 3, .finite, true⟩
def e2m3 : Fmt := ⟨2, 3, 1, .finite, true⟩

/-- The bits below the sign. -/
def Fmt.low (f : Fmt) : Nat := f.eb + f.mb

/-- The pattern of the largest finite value (R77). -/
def Fmt.maxFin (f : Fmt) : Nat :=
  match f.kind with
  | .ieee => (2 ^ f.eb - 1) * 2 ^ f.mb - 1
  | .e4m3 => 0x7E
  | .finite => 2 ^ f.low - 1

/-- The canonical NaN (R78); formats without one give +0 (R81). -/
def Fmt.canon (f : Fmt) : Nat :=
  match f.kind with
  | .ieee => (2 ^ f.eb - 1) * 2 ^ f.mb + 2 ^ (f.mb - 1)
  | .e4m3 => 0x7F
  | .finite => 0

/-- val(F, bits) of R88. -/
def val (f : Fmt) (b : Nat) : Ex :=
  let neg := b / 2 ^ f.low % 2 = 1
  let x := b / 2 ^ f.mb % 2 ^ f.eb
  let m := b % 2 ^ f.mb
  if f.kind = .ieee ∧ x = 2 ^ f.eb - 1 then (if m = 0 then .inf neg else .nan)
  else if f.kind = .e4m3 ∧ b % 2 ^ f.low = 0x7F then .nan
  else if x = 0 then .fin neg m (1 - (f.bias : Int) - f.mb)
  else .fin neg (2 ^ f.mb + m) ((x : Int) - f.bias - f.mb)

inductive Mode where
  | rne
  | rz
  | rdn
  | rup
  deriving DecidableEq, Repr, Inhabited

/-- m × 2^-sh as an integer in the mode, of a value with this sign (R80). -/
def roundShift (mode : Mode) (neg : Bool) (m : Nat) (sh : Int) : Nat :=
  if sh ≤ 0 then m * 2 ^ (-sh).toNat
  else
    let d := 2 ^ sh.toNat
    let n := m / d
    let r := m % d
    let up := match mode with
      | .rne => decide (2 * r > d) || (decide (2 * r = d) && n % 2 == 1)
      | .rz => false
      | .rdn => neg && r != 0
      | .rup => !neg && r != 0
    if up then n + 1 else n

/-- rnd(F, mode, x) and cvt(F, mode, x) for a floating target (R80, R81, R88): the pattern. -/
def round (f : Fmt) (mode : Mode) : Ex → Nat
  | .nan => f.canon
  | .inf neg =>
    let s := if neg then 2 ^ f.low else 0
    match f.kind with
    | .ieee => s + (2 ^ f.eb - 1) * 2 ^ f.mb
    | _ => s + f.maxFin
  | .fin neg m e =>
    let s := if neg then 2 ^ f.low else 0
    if m = 0 then s
    else
      let qmin : Int := 1 - (f.bias : Int) - f.mb
      let q := max ((Nat.log2 m : Int) + e - f.mb) qmin
      let p := (q - qmin).toNat * 2 ^ f.mb + roundShift mode neg m (q - e)
      if p ≤ f.maxFin then s + p
      else if f.sat then s + f.maxFin
      else match mode with
        | .rne => s + f.maxFin + 1
        | .rz => s + f.maxFin
        | .rdn => if neg then s + f.maxFin + 1 else s + f.maxFin
        | .rup => if neg then s + f.maxFin else s + f.maxFin + 1

def Ex.neg : Ex → Ex
  | .nan => .nan
  | .inf n => .inf (!n)
  | .fin n m e => .fin (!n) m e

/-- The exact product (R78). -/
def Ex.mul : Ex → Ex → Ex
  | .nan, _ => .nan
  | _, .nan => .nan
  | .inf a, .inf b => .inf (a != b)
  | .inf a, .fin b m _ => if m = 0 then .nan else .inf (a != b)
  | .fin a m _, .inf b => if m = 0 then .nan else .inf (a != b)
  | .fin a m e, .fin b n k => .fin (a != b) (m * n) (e + k)

/-- A signed integer times 2^e; zero is +0. -/
def ofInt (i : Int) (e : Int := 0) : Ex := .fin (i < 0) i.natAbs e

/-- The significand aligned to the exponent `k`, signed. -/
def aligned (neg : Bool) (m : Nat) (e k : Int) : Int :=
  let v : Int := m * 2 ^ (e - k).toNat
  if neg then -v else v

/-- The exact sum; an exact zero sum is +0 unless both terms are -0 (R78). -/
def Ex.add : Ex → Ex → Ex
  | .nan, _ => .nan
  | _, .nan => .nan
  | .inf a, .inf b => if a = b then .inf a else .nan
  | .inf a, _ => .inf a
  | _, .inf b => .inf b
  | .fin a m e, .fin b n k =>
    let q := min e k
    let v := aligned a m e q + aligned b n k q
    if v = 0 then .fin (a && b) 0 q else ofInt v q

/-- Is a < b, both not NaN? -/
def Ex.lt : Ex → Ex → Bool
  | .nan, _ => false
  | _, .nan => false
  | .inf a, .inf b => a && !b
  | .inf a, _ => a
  | _, .inf b => !b
  | .fin a m e, .fin b n k => let q := min e k; aligned a m e q < aligned b n k q

/-- Are they equal, neither NaN, -0 equal to +0? -/
def Ex.eq (a b : Ex) : Bool := a != .nan && b != .nan && !a.lt b && !b.lt a

def Ex.isZero : Ex → Bool
  | .fin _ m _ => m == 0
  | _ => false

def Ex.isNeg : Ex → Bool
  | .nan => false
  | .inf n => n
  | .fin n _ _ => n

/-- a ÷ b with a sticky last bit: rounding it to 24 bits or fewer gives the correctly rounded quotient. -/
def Ex.div : Ex → Ex → Ex
  | .nan, _ => .nan
  | _, .nan => .nan
  | .inf _, .inf _ => .nan
  | .inf a, .fin b _ _ => .inf (a != b)
  | .fin a _ _, .inf b => .fin (a != b) 0 0
  | .fin a m e, .fin b n k =>
    if n = 0 then (if m = 0 then .nan else .inf (a != b))
    else
      let sh := Nat.log2 n + 64
      let q := m * 2 ^ sh / n
      let r := m * 2 ^ sh % n
      .fin (a != b) (2 * q + (if r = 0 then 0 else 1)) (e - k - sh - 1)

/-- Integer square root, bit by bit: `fuel` bits below `r`. -/
def isqrt (x : Nat) : Nat → Nat → Nat
  | 0, r => r
  | fuel + 1, r => let c := r + 2 ^ fuel; isqrt x fuel (if c * c ≤ x then c else r)

/-- √a with a sticky last bit (R122, R301). -/
def Ex.sqrt : Ex → Ex
  | .nan => .nan
  | .inf neg => if neg then .nan else .inf false
  | .fin neg m e =>
    if m = 0 then .fin neg 0 0
    else if neg then .nan
    else
      let e' := if e % 2 = 0 then e - 80 else e - 81
      let x := m * 2 ^ (e - e').toNat
      let r := isqrt x (Nat.log2 x / 2 + 1) 0
      .fin false (2 * r + (if r * r = x then 0 else 1)) (e' / 2 - 1)

/-- rne_f32, rne_h16, rne_bf16 (R88). -/
def rneF32 (x : Ex) : Word := BitVec.ofNat 32 (round f32 .rne x)
def vf (w : Word) : Ex := val f32 w.toNat

/-- The pattern is NaN in the format. -/
def isNan (f : Fmt) (b : Nat) : Bool := val f b == .nan

/-- A key that orders patterns as R79 does: -0 below +0, NaN apart. -/
def ordKey (f : Fmt) (b : Nat) : Int :=
  if b / 2 ^ f.low % 2 = 1 then -(b % 2 ^ f.low : Nat) - 1 else (b % 2 ^ f.low : Nat)

/-- maxnum and minnum of R79, on patterns. -/
def maxnum (f : Fmt) (a b : Nat) : Nat :=
  if isNan f a then (if isNan f b then f.canon else b)
  else if isNan f b then a
  else if ordKey f a < ordKey f b then b else a

def minnum (f : Fmt) (a b : Nat) : Nat :=
  if isNan f a then (if isNan f b then f.canon else b)
  else if isNan f b then a
  else if ordKey f b < ordKey f a then b else a

/-- Rounding to an integer in the mode, before any range check (R81). -/
def toInt (mode : Mode) : Ex → Option Int
  | .fin neg m e =>
    let n : Int := roundShift mode neg m (-e)
    some (if neg then -n else n)
  | _ => none

/-- cvt to an integer range: clamped; NaN gives 0 (R81). -/
def cvtInt (lo hi : Int) (mode : Mode) (x : Ex) : Int :=
  match x with
  | .nan => 0
  | .inf neg => if neg then lo else hi
  | _ => max lo (min hi ((toInt mode x).getD 0))

/-! ## Shared-exponent blocks -/

/-- Block bytes of an sx format with m magnitude bits (R82). -/
def sxBytes (m : Nat) : Nat := 2 + 2 * (m + 1)

/-- dec_sx(m, block, i) (R82). -/
def decSx (m blk i : Nat) : Ex :=
  let e := blk % 256
  let mu := blk / 2 ^ (8 + i / 2) % 2
  let el := blk / 2 ^ (16 + i * (m + 1)) % 2 ^ (m + 1)
  if e = 0 then .fin false 0 0
  else if e = 255 then .nan
  else .fin (el / 2 ^ m == 1) (el % 2 ^ m) ((e : Int) - 127 - mu - m)

/-- floor(log2 |x|) of a nonzero value; infinity counts as 127 (R83). -/
def floorLog2 : Ex → Option Int
  | .nan => none
  | .inf _ => some 127
  | .fin _ m e => if m = 0 then none else some ((Nat.log2 m : Int) + e)

/-- enc_sx(m, x) (R83): the block as a number. -/
def encSx (m : Nat) (x : List Ex) : Nat :=
  if x.any (· == .nan) then 255
  else
    match (x.filterMap floorLog2).max? with
    | none => 0
    | some emax =>
      let e := max (min (emax + 128) 254) 1
      let small (v : Ex) : Bool := match floorLog2 v with | none => true | some l => l < e - 128
      let mu (j : Nat) : Nat := if small (x.getD (2 * j) .nan) && small (x.getD (2 * j + 1) .nan) then 1 else 0
      let mag (i : Nat) : Nat :=
        match x.getD i .nan with
        | .fin neg s k => min (roundShift .rne neg s (-(k + m - (e - 127 - mu (i / 2))))) (2 ^ m - 1)
        | _ => 2 ^ m - 1
      let sgn (i : Nat) : Nat := if (x.getD i .nan).isNeg then 1 else 0
      e.toNat + (List.range 8).foldl (fun a j => a + mu j * 2 ^ (8 + j)) 0
        + (List.range 16).foldl (fun a i => a + (sgn i * 2 ^ m + mag i) * 2 ^ (16 + i * (m + 1))) 0

/-! ## Scale streams -/

/-- The nibbles of bytes, low nibble first (R84). -/
def nibbles (bs : List Byte) : List Nat := bs.flatMap fun b => [b.toNat % 16, b.toNat / 16]

/-- Decode n scale exponents of a Polzen stream; none from the block on at which the decode stops (R86). -/
def polzen : Nat → Bool → Int → List Nat → List (Option Nat)
  | 0, _, _, _ => []
  | n + 1, _, _, 8 :: lo :: hi :: rest =>
    some (lo + 16 * hi) :: polzen n false (lo + 16 * hi : Nat) rest
  | n + 1, first, prev, c :: rest =>
    let s := if first then 0 else prev + (if c < 8 then (c : Int) else (c : Int) - 16)
    if s < 0 ∨ 255 < s ∨ c = 8 then List.replicate (n + 1) none
    else some s.toNat :: polzen n false s rest
  | n + 1, _, _, [] => List.replicate (n + 1) none

/-- A block's scale (R86). -/
def polzenScale (s : Nat) (x : Ex) : Ex :=
  if s = 0 then .fin false 0 0 else if s = 255 then .nan
  else x.mul (.fin false 1 ((s : Int) - 127))

/-! ## Fixed-point approximations

Values scaled by 2^P, P = 320: far below any tolerance they are compared with. -/

def P : Nat := 320
def one : Int := 2 ^ 320

def fmul (a b : Int) : Int := a * b / one

/-- Σ t_i with t_0 = t and t_{i+1} = t_i × x / (i + 1): the exponential series. -/
def expSeries (x : Int) : Nat → Nat → Int → Int
  | 0, _, _ => 0
  | n + 1, i, t => t + expSeries x n (i + 1) (fmul t x / (i + 1))

/-- Σ y^(2i+1) / (2i+1): the series of atanh. -/
def atanhSeries (y2 : Int) : Nat → Nat → Int → Int
  | 0, _, _ => 0
  | n + 1, i, t => t / (2 * i + 1) + atanhSeries y2 n (i + 1) (fmul t y2)

/-- ln of (a / b), for a / b in [1/2, 2]. -/
def lnRatio (a b : Nat) : Int :=
  let y := ((a : Int) - b) * one / (a + b)
  2 * atanhSeries (fmul y y) 110 0 y

def ln2 : Int := lnRatio 2 1

/-- Alternating series x^(2i+c) / (2i+c)!: sin for c = 1, cos for c = 0. -/
def trigSeries (x2 : Int) : Nat → Nat → Int → Int
  | 0, _, _ => 0
  | n + 1, i, t => t + trigSeries x2 n (i + 2) (-(fmul t x2) / ((i + 1) * (i + 2)))

/-- Σ ± 1 / ((2i+1) q^(2i+1)): arctan(1/q). -/
def atanInv (q : Nat) : Nat → Nat → Int → Int → Int
  | 0, _, _, _ => 0
  | n + 1, i, t, s => s * (t / (2 * i + 1)) + atanInv q n (i + 1) (t / (q * q)) (-s)

/-- π, by Machin's formula. -/
def pi : Int := 4 * (4 * atanInv 5 80 0 (one / 5) 1 - atanInv 239 40 0 (one / 239) 1)

/-- A finite value in fixed point. -/
def fix (neg : Bool) (m : Nat) (e : Int) : Int :=
  let v : Int := if 0 ≤ e + P then m * 2 ^ (e + P).toNat else m / 2 ^ (-(e + P)).toNat
  if neg then -v else v

/-- e^x for x ≤ 0 or moderate x, in fixed point: 2^k × e^r. -/
def fexp (x : Int) : Int :=
  let k := x / ln2
  let r := x - k * ln2
  let v := expSeries r 80 0 one
  if 0 ≤ k then v * 2 ^ k.toNat else v / 2 ^ (-k).toNat

/-- ln of a positive m × 2^e. -/
def fln (m : Nat) (e : Int) : Int :=
  let l := Nat.log2 m
  lnRatio m (2 ^ l) + ((l : Int) + e) * ln2

/-- sin and cos of a fixed-point angle, reduced by 2π first. -/
def fsin (x : Int) : Int :=
  let y := x % (2 * pi)
  let y := if y > pi then y - 2 * pi else y
  trigSeries (fmul y y) 60 1 y

def fcos (x : Int) : Int :=
  let y := x % (2 * pi)
  let y := if y > pi then y - 2 * pi else y
  trigSeries (fmul y y) 60 0 one

/-- A fixed-point value as an exact value. -/
def ofFix (v : Int) : Ex := ofInt v (-(P : Int))

end Sys2Proof.Num
end

