-- ==== Sys2Proof/Machine/State.lean ====
section
/-! DEFINITION. The state of the package: everything the spec gives the machine, as plain data. Each type cites the
rules that name its parts; State.reset is the machine as cold start finds it (R91, R409). -/
namespace Sys2Proof.Machine

/-! ## Registers of a wave -/

/-- FULL, EMPTY or POISON (R92). -/
inductive RSt where
  | full
  | empty
  | poison
  deriving DecidableEq, Repr, Inhabited

/-- A scalar register: 64-bit value, 8-bit tag, state (R90, R92). -/
structure SReg where
  val : DWord := 0
  tag : Byte := 0
  st : RSt := .full
  deriving DecidableEq, Repr, Inhabited

/-- A vector register: 32 lanes, register-wide FULL/EMPTY, poison mask (R92). -/
structure VReg where
  lanes : List Word := List.replicate 32 0
  empty : Bool := false
  poison : Word := 0
  deriving DecidableEq, Repr, Inhabited

/-- One entry of a join stack (R21); `keeper`: this fragment was carving when the group was formed (R26). -/
structure JoinEnt where
  depth : Nat
  epoch : Nat
  keeper : Bool
  deriving DecidableEq, Repr, Inhabited

/-- The order of an access or fence (R189). -/
inductive Order where
  | weak
  | x
  | acq
  | rel
  | ar
  | sc
  deriving DecidableEq, Repr, Inhabited

/-- The prefix of the issue unit in hand (R54). -/
inductive Pfx where
  | immx (payload : BitVec 21)
  | obs (ord : BitVec 3) (mask : BitVec 5)
  | hint (h : BitVec 3)
  | rep (stepB stepA : BitVec 1) (stride : BitVec 2) (cnt : BitVec 6)
  | role (r : BitVec 6)
  | predx (neg : BitVec 1) (k : BitVec 3)
  deriving DecidableEq, Repr, Inhabited

/-- What a fragment is parked on (R38): an instruction that has begun to wait keeps here what it must remember. -/
inductive Park where
  | none
  /-- parked at JOIN at this address (R26) -/
  | join
  /-- arrived on barrier `b` with a waiting form; ends when GEN leaves `gen` once the wave's arrival counts (R332) -/
  | nbar (b : Nat)
  /-- SYNCWAIT that read this GEN (R338) -/
  | sync (gen : Nat)
  /-- VXACQ waiting since this TIME (R132) -/
  | vx (since : Nat)
  /-- WFE on a flag, with the tick at which its limit expires; `fired` once the limit has expired (R372) -/
  | wfe (flag : Nat) (deadline : Option Nat) (fired : Bool)
  /-- TASKGET (R265) -/
  | task
  /-- detached by a split load: until this operation has delivered its lanes (R24) -/
  | data (op : Nat)
  deriving DecidableEq, Repr, Inhabited

/-- A fragment: R19, R21. `parkSeq` is the place in issue order at which it parked, `lastIssue` that of its last
issue (R269). -/
structure Frag where
  live : Bool := false
  pc : DWord := 0
  lanes : Word := 0
  exm : Word := 0
  s : List SReg := List.replicate 64 {}
  depth : Nat := 0
  joins : List JoinEnt := []
  epc : DWord := 0
  park : Park := .none
  parkSeq : Nat := 0
  lastIssue : Nat := 0
  deriving DecidableEq, Repr, Inhabited

/-- The rewind buffer (R41, R363). `pc` is the RWP's own address. -/
structure Snap where
  pc : DWord := 0
  regs : List (Nat × VReg) := []
  sregs : List (Nat × SReg) := []
  tiles : BitVec 16 := 0
  rcpc : DWord := 0
  lanes : Word := 0xFFFFFFFF
  exm : Word := 0xFFFFFFFF
  preds : List Word := 0xFFFFFFFF :: List.replicate 7 0
  rngk : DWord := 0
  rngc : BitVec 96 := 0
  stat : BitVec 3 := 0
  obsd : BitVec 8 := 0x21
  piste : BitVec 6 := 32
  held : Bool := false
  dry : Bool := false
  /-- the address at which the wave goes on: after the RWP, or the role's entry for the start of the wave -/
  next : DWord := 0
  deriving DecidableEq, Repr, Inhabited

/-- How a wave runs (R350, R356, R364, R44). -/
inductive WMode where
  | run
  /-- in the trap handler that the fault of this fragment entered -/
  | handler (frag : Nat)
  | recompute
  /-- suspended since this TIME by a fault of this fragment (R356) -/
  | suspended (frag : Nat) (since : Nat)
  /-- rewound, or stopped at an RWP, by a pre-emption request (R44) -/
  | stopped (rewound : Bool)
  | ended
  deriving DecidableEq, Repr, Inhabited

/-- A queue port's binding: bank of the gang and the peer role, if given (R233). -/
structure PortBind where
  bank : Nat
  role : Option Nat
  deriving DecidableEq, Repr, Inhabited

/-- ARRGEN and ARR of a wave for one bound barrier (R330). -/
structure Arrival where
  num : Nat
  gen : Nat
  opened : Bool
  deriving DecidableEq, Repr, Inhabited

/-- What a fragment's next unit waits on, and since when: scalar and vector registers, y and w registers from 256 on; none where
it waits on something else (R413, R425). -/
structure Wait where
  frag : Nat
  since : Nat
  scalars : List Nat := []
  vectors : List Nat := []
  deriving DecidableEq, Repr, Inhabited

/-- A wave: R19, R90, R98, R350. Its position in State.waves is its name. -/
structure Wave where
  gang : Nat := 0
  wg : Nat := 0
  idx : Nat := 0
  role : Nat := 0
  slot : Nat := 0
  part : Nat := 0
  core : Nat := 0
  cluster : Nat := 0
  die : Nat := 0
  wgslot : Nat := 0
  frags : List Frag := List.replicate 8 {}
  v : List VReg := List.replicate 56 {}
  k : List Word := 0xFFFFFFFF :: List.replicate 7 0
  piste : BitVec 6 := 32
  obsd : BitVec 8 := 0x21
  rngk : DWord := 0
  rngc : BitVec 96 := 0
  stat : BitVec 3 := 0
  path : BitVec 42 := 0
  xbh : BitVec 5 := 0
  /-- the wave waits, from this place in issue order, for the block its saved state holds (R45) -/
  blk : Option Nat := none
  trapc : BitVec 17 := 0
  trapa : Addr := 0
  trapl : Word := 0
  ac : List (BitVec 16) := List.replicate 4 0
  epoch : Nat := 0
  y : List SReg := List.replicate 16 {}
  w : List VReg := List.replicate 8 {}
  snap : Snap := {}
  /-- the wave has an open commit (R43) -/
  commit : Bool := false
  mode : WMode := .run
  /-- the handler's program counter -/
  hpc : DWord := 0
  dry : Bool := false
  ports : List (Option PortBind) := List.replicate 8 none
  /-- context generation (R124) -/
  gen : Nat := 0
  /-- private window number (R157) -/
  win : Nat := 0
  arrs : List Arrival := []
  /-- fragments that have arrived on a barrier for which the wave's arrival does not count yet (R29) -/
  fragArr : List (Nat × BitVec 8) := []
  /-- the latest reading of TIME by the wave's fragments: none is below it (R344) -/
  seenTime : Nat := 0
  /-- deposits delivered since the last honoured RWP: register, lanes, values (R251) -/
  deps : List (Nat × Word × List Word) := []
  /-- instructions dmt has still to run before the wave stops again, if dmt holds it (R413) -/
  dmtStop : Option Nat := none
  /-- the fragment that dmt last stopped at a breakpoint and that has not issued since (R413) -/
  brk : Option Nat := none
  /-- a fault dmt raises at the next issue unit (R413) -/
  inject : Option Byte := none
  /-- dmt has reported a stop of the wave (R413) -/
  told : Bool := false
  /-- fragments whose next unit waits, as dmt sees them (R425) -/
  waits : List Wait := []
  deriving DecidableEq, Repr, Inhabited

/-- An entry of a partition's operand latch: partition, wave, register, and how many of the wave's coming instructions
still read it there (R95). -/
structure Latch where
  part : Nat
  wave : Nat
  reg : Nat
  left : Nat
  deriving DecidableEq, Repr, Inhabited

/-! ## Gangs and launches -/

/-- A named barrier (R330). -/
structure Nbar where
  count : Nat := 0
  expect : Nat := 0
  num : Nat := 0
  bound : Bool := false
  gen : Nat := 0
  deriving DecidableEq, Repr, Inhabited

/-- A workgroup: its place (R32), pins (R315), barriers and tiles (R208). -/
structure Wg where
  role : Nat := 0
  core : Nat := 0
  slot : Nat := 0
  first : Nat := 0
  waves : List Nat := []
  pins : List DWord := List.replicate 8 0
  bars : List Nbar := List.replicate 3 {}
  tileBase : Nat := 0
  tiles : Nat := 0
  deriving DecidableEq, Repr, Inhabited

inductive BankMode where
  | cache
  | scratch
  | fifo
  deriving DecidableEq, Repr, Inhabited

/-- A bank a gang holds (R156, R229, R432): its position in Gang.banks is its number. -/
structure Bank where
  phys : Nat := 0
  mode : BankMode := .scratch
  /-- the entries, oldest first, each with its poison mask (R148, R230) -/
  entries : List VReg := []
  closed : Bool := false
  /-- roles of the waves that have bound a port to it, and the roles that such bindings have named (R232) -/
  boundBy : List Nat := []
  named : List Nat := []
  deriving DecidableEq, Repr, Inhabited

/-- What a gang is doing (R33, R45, R358, R365). -/
inductive GSt where
  | resident
  /-- its context image is written and its placement released -/
  | imaged
  /-- stopped by an ENGINE fault -/
  | engine
  | retired
  deriving DecidableEq, Repr, Inhabited

/-- Accumulator contents of one tile, saved: workgroup, partition, tile number, bytes (R225, R360). -/
structure SavedTile where
  wg : Nat
  part : Nat
  tile : Nat
  bytes : List Byte
  deriving DecidableEq, Repr, Inhabited

/-- The gang's one checkpoint (R359, R360): its waves and tiles; `resume` when it is that of a placement or
resumption, whose rollback repeats it, with the HALT that then stood unanswered. -/
structure Ckpt where
  resume : Bool := true
  waves : List Wave := []
  tiles : List SavedTile := []
  halted : Option Nat := none
  deriving DecidableEq, Repr, Inhabited

structure Gang where
  launch : Nat := 0
  vd : Nat := 0
  index : Nat := 0
  die : Nat := 0
  cluster : Nat := 0
  core0 : Nat := 0
  wgs : List Wg := []
  banks : List Bank := []
  st : GSt := .resident
  /-- pre-emption requested at this TIME (R44, R365); its overrun has been reported (R367); it stays because the
  overflow store has no room (R317) -/
  preempt : Option Nat := none
  warned : Bool := false
  ovf : Bool := false
  /-- HALT by this wave, not yet answered (R374) -/
  halted : Option Nat := none
  ckpt : Ckpt := {}
  /-- a barrier completion has made a checkpoint, which is taken when no register producer is outstanding (R359) -/
  ckptDue : Bool := false
  /-- a wave has executed a committing instruction since the checkpoint (R361) -/
  committed : Bool := false
  replays : Nat := 0
  /-- tiles of the context image (R225) -/
  saved : List SavedTile := []
  /-- deposits received since the checkpoint: wave, register, lanes, values (R360 step 3) -/
  ckDeps : List (Nat × Nat × Word × List Word) := []
  deriving DecidableEq, Repr, Inhabited

/-- One role of a launch block (R256). -/
structure Role where
  entry : DWord := 0
  regs : Nat := 0
  waves : Nat := 0
  wgs : Nat := 0
  xb : Bool := false
  tiles : Nat := 0
  deriving DecidableEq, Repr, Inhabited

/-- A launch block as the stream engine read it (R256). -/
structure Block where
  ngangs : Nat := 0
  code : DWord := 0
  roles : List Role := []
  scratch : Nat := 0
  fifos : Nat := 0
  ttfirst : Nat := 0
  ttcount : Nat := 0
  event : DWord := 0
  args : List SReg := []
  binds : List (BitVec 16) := []
  seeds : List DWord := []
  deriving DecidableEq, Repr, Inhabited

/-- The launch that runs the block has role r: a launch of one role alone leaves the others without workgroups (R268). -/
def Block.has (b : Block) (r : Nat) : Bool := r < b.roles.length && (b.roles.getD r {}).wgs != 0

/-- A launch taken by the stream engine (R254-R258). -/
structure Launch where
  vd : Nat := 0
  stream : Nat := 0
  dev : Bool := false
  seq : Word := 0
  serial : Bool := false
  block : Block := {}
  /-- gangs placed so far, and gangs retired -/
  placed : Nat := 0
  retired : Nat := 0
  killed : Bool := false
  done : Bool := false
  /-- TIME at which its next gang began to wait for placement (R259), and whether that gang stops lower ones -/
  waitFrom : Nat := 0
  starved : Bool := false
  deriving DecidableEq, Repr, Inhabited

/-! ## Operations in flight -/

/-- The memories that hold bytes, and the copies of them (R147). `phys`: HBM by physical address; `tier1`; `host`:
tag 0xF0 lines; `fmt`: decoded lines of a formatted page (R159); `sram`: cluster SRAM; `tile`: accumulator memory;
`llc`, `l1 c`, `cc c`, `ic c`: copies in the LLC, in core c's L1, in cluster c's CACHE banks, in core c's instruction
cache; `iv w`: the instruction bytes that wave w has fetched (R49); `hostCopy`: the host's copy of a device half; `bridge`: tag 0xF0 halves held by the device; `priv w`,
`privWb w`: lane-private lines of wave w and what was written back of them; `cmd d`: command region of VD d (64: PF). -/
inductive Space where
  | phys
  | tier1
  | host
  | fmt
  | sram
  | tile
  | llc
  | hostCopy
  | bridge
  | l1 (c : Nat)
  | cc (c : Nat)
  | ic (c : Nat)
  | priv (w : Nat)
  | privWb (w : Nat)
  | cmd (d : Nat)
  | iv (w : Nat)
  deriving DecidableEq, Repr, Inhabited

/-- A place for bytes: a space and an address in it. -/
structure Loc where
  sp : Space
  a : Nat
  deriving DecidableEq, Repr, Inhabited

/-- Where one lane's access goes after translation (R153, R163, R183). -/
inductive Place where
  /-- local memory or other directly addressed bytes -/
  | direct (l : Loc)
  /-- a line with a home in the LLC or at the tag 0xF0 bridge; `ms`: on a memory-side page -/
  | homed (l : Loc) (ms : Bool)
  /-- the lane-private window, by the low byte's key in the wave's private lines (R157) -/
  | lane (off : Nat)
  /-- a peer device -/
  | peer (slot : Nat) (off : DWord)
  deriving DecidableEq, Repr, Inhabited

/-- One lane's access: lane, place, size; the bytes of a store; `va` as the program formed it; `lost`: the link to its
peer went down while it was outstanding (R393). -/
structure Acc where
  lane : Nat
  place : Place
  size : Nat
  data : List Byte := []
  va : Addr := 0
  lost : Bool := false
  deriving DecidableEq, Repr, Inhabited

/-- The register file a result goes to: the wave's own or its trap bank (R124). -/
inductive RBank where
  | wave
  | trap
  deriving DecidableEq, Repr, Inhabited

/-- Where a long-latency result goes (R93). -/
inductive Dst where
  | none
  | vec (b : RBank) (r n : Nat)
  | scl (b : RBank) (r n : Nat)
  | port (q : Nat)
  /-- lanes of a split load whose fragment waits for them (R24) -/
  | quiet (r n : Nat)
  deriving DecidableEq, Repr, Inhabited

/-- How a load widens what it read (R161, R167). -/
inductive Ext where
  | word
  | zext
  | sext
  | tagged
  deriving DecidableEq, Repr, Inhabited

/-- A copy or collective command (R238, R246, R293). -/
inductive CopyKind where
  | linear (dst src : List Place) (bytes : Nat)
  | gather (dst : List Place) (base : Addr) (row count : Nat) (idx : List Place)
  | rink (h layer head first count : Nat) (v : Bool) (dst : List Place)
  | coll (isRed : Bool) (group bytes : Nat) (param : DWord) (buf : List Place) (status : List Place)
  | marker (all : Bool)
  deriving DecidableEq, Repr, Inhabited

/-- An operand region of a matrix operation: for each byte, its SRAM or memory place (R211). -/
structure Region where
  rows : List (List Place)
  scales : List Place := []
  deriving DecidableEq, Repr, Inhabited

/-- A matrix or tile operation (R215, R222): tiles are places in accumulator memory. -/
inductive MxKind where
  | mma (ty : Nat) (z bs : Bool) (a b : Region) (tile : Nat) (follower : Option Nat)
  | mzero (tile : Nat)
  | mldt (tile fmt : Nat) (src : Region)
  | mstt (tile fmt : Nat) (dst : Region)
  | msave (tile : Nat) (dst : List Place)
  | mrest (tile : Nat) (src : List Place)
  | mscale (tile : Nat) (cols : Bool) (src : Region)
  deriving DecidableEq, Repr, Inhabited

/-- A memory-side operation (R175): sub, destination, sources, pattern, lines. -/
structure Msv where
  sub : Nat
  c : List Nat
  a : List Nat
  b : List Nat
  pat : Word
  deriving DecidableEq, Repr, Inhabited

/-- A Slalom node (R297); USED is its presence in the tree's list. -/
structure Node where
  n : Word := 0
  w : Word := 0
  p : BitVec 16 := 0
  vl : BitVec 16 := 0
  first : Nat := 0
  nch : Nat := 0
  token : Word := 0
  parent : Nat := 0
  root : Bool := false
  cut : Bool := false
  unlinked : Bool := false
  user : DWord := 0
  deriving DecidableEq, Repr, Inhabited

/-- What a Slalom unit has still to do for an instruction that visits several nodes, each at a moment of its own (R295). -/
inductive Walk where
  /-- SLDESC at node x: the snapshot its step took, if it has been taken, and those of the children read so far (R300) -/
  | desc (x depth : Nat) (at_ : Option Node) (kids : List Node)
  /-- SLBACK with value v at node x, k nodes done (R303) -/
  | back (leaf : Nat) (v : Word) (x k : Nat) (cut : Bool)
  /-- SLPICK on a node (R307) -/
  | pick (at_ : Node) (kids : List Node)
  /-- an SLBACK that has come to its end, with its result, and has updates left (R295) -/
  | rest (v : Word) (res : Nat) (path : Option (BitVec 42))
  deriving DecidableEq, Repr, Inhabited

/-- What an operation in flight will do. -/
inductive OpKind where
  | load (accs : List Acc) (dst : Dst) (ext : Ext) (hint : Nat)
  | store (accs : List Acc)
  /-- `far`: an inbound peer's, which takes no own lease -/
  | atomic (aop w : Nat) (accs : List Acc) (dst : Dst) (got : List (Nat × List Byte × Bool)) (far : Bool)
  /-- a vector result already known: lane values, poisoned lanes -/
  | value (dst : Dst) (lanes : Word) (vals : List (List Word)) (poison : Word)
  /-- scalar results already known -/
  | svalue (dst : Dst) (vals : List SReg)
  | sfu (fn : Nat) (fast : Bool) (dst : Dst) (lanes : Word) (src : List Word)
  /-- an RKACQ, and an RKSNAP (`void`: of the VOID map), that the rink unit has not answered yet -/
  | rkacq (vd h layer q : Nat) (dst : Dst)
  | rksnap (void : Bool) (vd h layer base : Nat) (dst : Dst)
  /-- a walk over the nodes of a tree -/
  | slalom (tree : Nat) (w : Walk) (dst : Dst)
  | copy (queue : Nat) (k : CopyKind) (sync : Option Place) (started : Bool) (data : List (Byte × Bool)) (landed : Nat)
  | mx (k : MxKind) (leader : Nat) (started : Bool) (before : List (List (Byte × Bool)))
  | msv (m : Msv)
  | maint (sub : Nat) (lines : List Place)
  | deposit (target reg n : Nat) (lanes : Word) (vals : List Word)
  deriving DecidableEq, Repr, Inhabited

/-- An operation in flight. `owners`: the fragments whose program order it belongs to (R190); `after`: the operations in
flight at its issue that come before it in that order, which stay before it when their fragment exits or is rewound;
`sfr`: the fragments whose scalar registers receive its result (R20, R141); `cls`: the WAITC class that counts it
(R340). -/
structure Op where
  id : Nat := 0
  wave : Nat := 0
  gang : Nat := 0
  gen : Nat := 0
  owners : List Nat := []
  after : List Nat := []
  sfr : List Nat := []
  core : Nat := 0
  cls : Option Nat := none
  ord : Order := .weak
  mask : BitVec 5 := 0
  /-- an inbound peer's access: the link and the device its response goes to (R390) -/
  answer : Option (Nat × Nat) := none
  /-- PATH as the delivery of this result leaves it (R300) -/
  path : Option (BitVec 42) := none
  /-- PATH.DEPTH is left as it then is (R305) -/
  keepDepth : Bool := false
  /-- the HINT under which a store goes to its home (R168) -/
  hint : Nat := 0
  /-- the group's table entry as a collective was issued, which it keeps whatever is written to the table since (R248, R392) -/
  entry : Nat := 0
  /-- C, VLOSS and FPU as a descent reached its unit (R311) -/
  knobs : List Word := []
  /-- nodes that an SLBACK has gone past and has still to update (R295) -/
  late : List Nat := []
  /-- the instruction that issued it, as dmt names it (R421) -/
  code : List Byte := []
  kind : OpKind
  deriving DecidableEq, Repr, Inhabited

/-! ## Coherence -/

/-- What a home keeps of one line (R180, R184, R186). `own`: the core with an own lease and its expiry; `used`: when that
core last performed an atomic under it. -/
structure Home where
  line : Loc
  latest : Nat := 0
  lastStore : Option Nat := none
  own : Option (Nat × Nat) := none
  used : Nat := 0
  holder : Option Nat := none
  count : Nat := 0
  deriving DecidableEq, Repr, Inhabited

/-- What a bridge exchange is (R379, R381). -/
inductive BridgeAct where
  | fetch
  | snpData
  | snpInv
  | memRdS
  | memRdA
  | memWr
  | hostSnoop
  deriving DecidableEq, Repr, Inhabited

/-- What caused one: the host's request, an instruction of a wave under its order, or the package itself (R421). -/
inductive BridgeBy where
  | package
  | host
  | wave (w : Nat) (code : List Byte) (ord : Order)
  deriving DecidableEq, Repr, Inhabited

/-- A record of dmt's trace (R421): when, which half, what caused it, the host's declared change and the data it sent, the change
of the directory or of the bridge. -/
structure Exchange where
  time : Nat
  half : Loc
  cause : BridgeBy
  act : BridgeAct
  said : Option HalfSt × Option HalfSt
  data : List Byte
  old : Option HalfSt
  new : Option HalfSt
  deriving DecidableEq, Repr, Inhabited

/-- What dmt reports (R413): a stop, with the wave's placement (die, cluster, core, partition, slot) on its first report and the
offset from the kernel's first instruction where the kernel was loaded with `load/o`; an issue unit of a step, with the scalar and
vector registers it changed, as dmt prints them, the predicates, and what it waited on for how long. -/
inductive Note where
  | stop (time w : Nat) (pc : DWord) (place : List Nat) (off : Option Nat)
  | unit (time w frag : Nat) (pc : DWord) (i : Option Instr) (scalars vectors preds : List (List Nat)) (waited : Option Wait)
  deriving DecidableEq, Repr, Inhabited

/-- When a line goes for a new one: before the others, among them, or after them (R168). -/
inductive Keep where
  | first
  | normal
  | last
  deriving DecidableEq, Repr, Inhabited

/-- A read copy of a line: holder space (an L1 or a cluster CACHE), line, expiry (R178); of a copy in a cluster CACHE, the
physical bank; when it is replaced (R168). -/
structure Copy where
  holder : Space
  line : Loc
  expiry : BitVec 20
  bank : Nat := 0
  keep : Keep := .normal
  deriving DecidableEq, Repr, Inhabited

/-- A line held in the LLC, with a dirty bit for each byte (R147); when it is replaced (R168); `part`: one half's dirty bytes
have been written back ahead of the other's (R414). -/
structure LlcLine where
  line : Loc
  dirty : BitVec 128
  keep : Keep := .normal
  part : Bool := false
  deriving DecidableEq, Repr, Inhabited

/-- A lane-private line that an L1 holds: its wave, its offset among the wave's lines, when it is replaced (R157, R168). -/
structure PrivLine where
  wave : Nat
  off : Nat
  keep : Keep := .normal
  deriving DecidableEq, Repr, Inhabited

/-- The TLB of a core or of a cluster (R154). -/
inductive TlbOf where
  | core (c : Nat)
  | cluster (c : Nat)
  deriving DecidableEq, Repr, Inhabited

/-- A TLB entry: its TLB, VD, tag, virtual page, root generation, the leaf found (R154). -/
structure TlbEnt where
  tlb : TlbOf
  vd : Nat
  tag : Byte
  page : Nat
  big : Bool
  gen : Nat
  pte : DWord
  deriving DecidableEq, Repr, Inhabited

/-! ## Tables of a virtual device -/

/-- A device-queue entry appended by LNCH (R268). -/
structure DevEnt where
  block : DWord
  seq : Word
  role : Option Nat
  deriving DecidableEq, Repr, Inhabited

/-- A stream: header fields and the device queue (R253, R254). `order`: the sources of the entries received and not
yet taken, oldest first, true for the device queue. -/
structure Stream where
  wridx : Nat := 0
  rdidx : Nat := 0
  prio : Nat := 0
  en : Bool := false
  devq : List DevEnt := []
  seqc : Word := 1
  order : List Bool := []
  deriving DecidableEq, Repr, Inhabited

/-- A page of the old map of a rink whose sequence was stolen, which this workgroup still reads (R272). -/
structure OldPage where
  gang : Nat
  wg : Nat
  layer : Nat
  idx : Nat
  page : Nat
  deriving DecidableEq, Repr, Inhabited

/-- A rink: descriptor fields and tables (R273, R277). Bitmaps are numbers whose bit p is position p. -/
structure Rink where
  fmt : Nat := 0
  nlayers : Nat := 1
  nheads : Nat := 1
  hdim : Nat := 2
  ppplog : Nat := 0
  maxpos : Nat := 1
  stbase : Nat := 0
  desc : DWord := 0
  next : Nat := 0
  spec : Nat := 0
  void : Nat := 0
  pub : List Nat := []
  /-- layer, page index, pool page -/
  pages : List (Nat × Nat × Nat) := []
  /-- pages whose deferred action a reset discarded: held until the rink is destroyed (R406) -/
  kept : List Nat := []
  /-- pages that a steal has replaced and whose search returned FULL: the next RKVOID searches for them again -/
  stale : List Nat := []
  /-- pages that a steal has replaced, for the workgroups that had the rink pinned then (R272) -/
  old : List OldPage := []
  deriving DecidableEq, Repr, Inhabited

/-- A Slalom tree (R294): descriptor and its allocated nodes by index. -/
structure Tree where
  cap : Nat := 1
  base : Nat := 0
  rootv : Bool := false
  root : Nat := 0
  c : Word := 0
  vloss : Word := 0
  fpu : Word := 0
  nodes : List (Nat × Node) := []
  deriving DecidableEq, Repr, Inhabited

/-- What a reclaim request does when its search returns NONE (R319, R275, R308). -/
inductive Reclaim where
  | table (act : Nat) (arg : DWord) (launch die : Nat)
  | pages (ps : List Nat)
  | nodes (t : Nat) (is : List Nat)
  deriving DecidableEq, Repr, Inhabited

/-- An entry of the deferred-reclaim list (R320); its bucket follows from its name. -/
structure Deferred where
  name : DWord
  act : Reclaim
  deriving DecidableEq, Repr, Inhabited

/-- A RING action that waits at the homes for leases to pass (R181, R319): the action's index, its argument, the operation
whose delivery waits for it. -/
structure Ring where
  act : Nat
  arg : DWord
  op : Option Nat
  deriving DecidableEq, Repr, Inhabited

/-- An entry of the pin overflow store (R317): name, gang, workgroup, register. -/
structure OvfEnt where
  name : DWord
  gang : Nat
  wg : Nat
  reg : Nat
  deriving DecidableEq, Repr, Inhabited

inductive TaskSt where
  | free
  | waiting
  | ready
  | running
  deriving DecidableEq, Repr, Inhabited

/-- A record of a die's task table (R261). `since`: its place in the order in which records became READY (R40). -/
structure Task where
  die : Nat := 0
  idx : Nat := 0
  typ : Nat := 0
  st : TaskSt := .free
  gen : BitVec 12 := 0
  /-- the owning launch, and the die's slot for it (LSLOT) -/
  launch : Nat := 0
  lslot : Byte := 0
  tx : BitVec 16 := 0
  ty : BitVec 16 := 0
  tz : BitVec 16 := 0
  dep : Nat := 0
  succ : List Nat := []
  rrole : Bool := false
  role : Nat := 0
  holder : Option Nat := none
  since : Nat := 0
  deriving DecidableEq, Repr, Inhabited

/-- A launch recorded for a re-run (R410). -/
structure LogEnt where
  stream : Nat
  seq : Word
  block : List Byte
  deriving DecidableEq, Repr, Inhabited

/-- A page-table root and its generation, by tag (R150, R154). -/
structure Root where
  tag : Byte
  root : Nat
  gen : Nat := 0
  deriving DecidableEq, Repr, Inhabited

/-- A virtual device (R394-R409). -/
structure Vd where
  live : Bool := false
  part : Nat := 0
  /-- LODGE fields (R395): class, AUTO, NOW, STATE (0 RUN, 1 LODGING, 2 LODGED, 3 LIFTING), IDLE -/
  cls : BitVec 2 := 0
  auto : Bool := false
  now : Bool := false
  lodge : Nat := 0
  idle : Nat := 1000
  idleFrom : Nat := 0
  /-- slice length and how much the next one is shortened, in ticks (R402, R367) -/
  slice : Nat := 2000000
  short : Nat := 0
  streams : List Stream := List.replicate 16 {}
  eqwr : Nat := 0
  eqrd : Nat := 0
  /-- completions and reports held in order while the queue is full (R227) -/
  eqHeld : List (List Byte) := []
  flags : BitVec 16 := 0
  rst : Nat := 0
  /-- a VF reset in progress: is it a clear reset (R406) -/
  resetting : Option Bool := none
  roots : List Root := []
  vectors : List (BitVec 128) := List.replicate 32 0
  types : List (BitVec 128) := List.replicate 256 0
  rinks : List (Nat × Rink) := []
  pool : List Nat := []
  trees : List (Nat × Tree) := []
  nodePool : List Nat := []
  actions : List (BitVec 128) := List.replicate 128 0
  deferred : List Deferred := []
  /-- RING actions that wait for leases, oldest first (R319) -/
  rings : List Ring := []
  /-- names released, whose bucket the groomer is to recheck (R321) -/
  recheck : List DWord := []
  ovf : List OvfEnt := []
  ovfCap : Nat := 0
  /-- the supervisor's count of reclaim actions that did nothing (R319) -/
  reclaimLoss : Nat := 0
  peers : List DWord := List.replicate 16 0
  grants : List (Option (Nat × Nat)) := List.replicate 16 none
  groups : List DWord := List.replicate 64 0
  cap : Option Nat := none
  key : Nat := 0
  /-- 64 KiB pages of HBM the device holds (R399, R406); those of its context area and of its overflow store -/
  pages : List Nat := []
  context : List Nat := []
  ovfPages : List Nat := []
  recording : Bool := false
  log : List LogEnt := []
  /-- recorded launches submitted for a re-run, not yet taken (R410) -/
  rerun : List LogEnt := []
  /-- continuous batching: BTBASE by die, BTLAUNCH (R271) -/
  btbase : List (Nat × DWord) := []
  btlaunch : Option Nat := none
  /-- dies whose ready lists hold no task of BTLAUNCH, each with the TIME since which (R272) -/
  btempty : List (Nat × Nat) := []
  /-- command-region offsets whose reads wait for the lift (R398) -/
  reads : List Nat := []
  /-- dmt attached, breakpoints (address, wave), watchpoints (address, bytes), trace (R413, R421) -/
  dmt : Bool := false
  breaks : List (DWord × Option Nat) := []
  watches : List (Addr × Nat) := []
  /-- kernels that dmt loaded with `load/o`: where their first instruction stands and where their code ends (R413) -/
  kernels : List (Nat × Nat) := []
  deriving DecidableEq, Repr, Inhabited

/-! ## Links, partitions, the package -/

/-- A flit's contents on their way out: virtual channel, virtual device, payload. -/
structure Outgoing where
  vc : Nat
  vd : Nat
  payload : List Byte
  deriving DecidableEq, Repr, Inhabited

/-- A fabric port (R385-R388). -/
structure Port where
  link : Option Nat := none
  up : Bool := true
  /-- DATA flits not acknowledged, and those of them that are to be replayed, oldest first, each with its device -/
  replay : List (Nat × Flit) := []
  again : List (Nat × Flit) := []
  /-- for each flit of `replay` that a NAK has sent back, its channel and sequence number and how often in a row (R387) -/
  replays : List (Nat × Nat × Nat) := []
  /-- latest rate announced to this port for each virtual channel, and the rates it announces -/
  rates : List (BitVec 16) := List.replicate 4 0
  announce : List (BitVec 16) := List.replicate 4 0
  /-- flits the port has put on the wire, oldest first -/
  sent : List Flit := []
  /-- contents waiting to be sent, and the channel, device and TIME of each DATA flit put on the wire in the last
  microsecond -/
  out : List Outgoing := []
  window : List (Nat × Nat × Nat) := []
  deriving DecidableEq, Repr, Inhabited

/-- A peer link (R385, R393): for each virtual channel the next sequence number to send and the next one expected, whatever
port carries it. -/
structure PeerLink where
  ports : List Nat := []
  down : Bool := false
  sendSeq : List (BitVec 12) := List.replicate 4 0
  recvSeq : List (BitVec 12) := List.replicate 4 0
  deriving DecidableEq, Repr, Inhabited

/-- A firewall register (R400). -/
structure Firewall where
  opened : Bool := false
  lock : Bool := false
  drops : Byte := 0
  tdrops : Byte := 0
  deriving DecidableEq, Repr, Inhabited

/-- A range entry (R158): controller (none: the tier-1 port), index, CTL, BASE, LIMIT. -/
structure RangeEnt where
  ctrl : Option Nat
  idx : Nat
  ctl : DWord
  base : DWord
  limit : DWord
  deriving DecidableEq, Repr, Inhabited

/-- A moving 64 KiB page (R403): old and new address, COPIED mask, chunk in hand, BUSY or draining. -/
structure Move where
  src : Nat
  dst : Nat
  copied : BitVec 16 := 0
  chunk : Nat := 0
  busy : Bool := false
  deriving DecidableEq, Repr, Inhabited

/-- An open collective (R245): the operation that carries it, its VD and group; `gone`: ABANDON flits have arrived for it, or
a link of its ring has gone down (R248, R393). -/
structure OpenColl where
  op : Nat
  vd : Nat
  group : Nat
  gone : Bool := false
  deriving DecidableEq, Repr, Inhabited

/-- A steal in progress (R272): the thief's die and slot, the victim's, the pages taken for the copies (layer, index, old
page, new page); `claimed`: the claim has been made; `word`: word 0 of the victim's record as the engine last read or wrote
it, which its next CAS compares. -/
structure Steal where
  die : Nat
  slot : Nat
  from_ : Nat
  fromSlot : Nat
  vd : Nat
  claimed : Bool
  copied : List (Nat × Nat × Nat × Nat)
  word : Nat := 0
  deriving DecidableEq, Repr, Inhabited

/-- The issue unit in hand: whose it is, where it starts, the address of the instruction that comes next, the prefix
and the election it carries (R48, R144). `stalled`: the unit could not issue. `opened`: the unit goes on with the next
instruction. `undo`: the scalar an election overwrote, restored when the unit faults (R9). -/
structure Cursor where
  wave : Nat := 0
  frag : Nat := 0
  start : DWord := 0
  pc : DWord := 0
  nxt : DWord := 0
  pfx : Option Pfx := none
  elect : Option Word := none
  opened : Bool := false
  stalled : Bool := false
  undo : Option (Nat × SReg) := none
  /-- the bytes of the instruction last fetched -/
  code : List Byte := []
  deriving DecidableEq, Repr, Inhabited

structure State where
  /-- the root of TIME (R343) -/
  time : Nat := 0
  /-- model: ticks that pass before each coming step; events that happen before anything else; partitions that issue
  first; whether an internal event goes before a unit at the next step; a counter for free values; the issue order -/
  pace : List Nat := []
  inputs : List Instr := []
  turns : List Nat := []
  evTurn : Bool := false
  free : Nat := 0
  seq : Nat := 1
  cur : Cursor := {}
  /-- the operand latches of the partitions, newest entry first (R95) -/
  latches : List Latch := []
  waves : List Wave := []
  gangs : List Gang := []
  launches : List Launch := []
  vds : List Vd := List.replicate 64 {}
  tasks : List Task := []
  mem : List Host.Cell := []
  /-- keys of bytes marked poisoned (R148), rising -/
  bad : List Nat := []
  flight : List Op := []
  homes : List Home := []
  copies : List Copy := []
  /-- lane-private lines that the L1 of their wave's core holds (R157) -/
  privHeld : List PrivLine := []
  llc : List LlcLine := []
  /-- atomics that met an uncorrectable error, as the homes logged them for the supervisor: TIME, place (R198) -/
  atomLog : List (Nat × Loc) := []
  /-- instruction-cache sectors held: core, sector; and the sectors each wave has fetched since its last FENCEI: wave, sector
  (R49, R173) -/
  sectors : List (Nat × Loc) := []
  views : List (Nat × Loc) := []
  tlb : List TlbEnt := []
  /-- directory of device halves (R379) and halves of tag 0xF0 lines the bridge holds (R381), by half address -/
  dir : List (Nat × HalfSt) := []
  bridge : List (Nat × HalfSt) := []
  /-- host requests in flight for a device half, served before a back-invalidation is retried (R382) -/
  hostReqs : List (Nat × HostReq) := []
  /-- host snoops of tag 0xF0 halves that wait for leases: half, invalidating (R381) -/
  snoops : List (Nat × Bool) := []
  colls : List OpenColl := []
  steals : List Steal := []
  /-- sequence numbers (in the order of S) of .sc fences: fragment and mask (R193) -/
  scOrder : List (Nat × Nat × BitVec 5) := []
  ports : List Port := List.replicate 32 {}
  links : List PeerLink := List.replicate 32 {}
  /-- payloads performed at this device, newest first: port, channel, bytes (R387) -/
  performed : List (Nat × Nat × List Byte) := []
  firewall : List Firewall := List.replicate 10 ⟨false, false, 0, 0⟩ ++ List.replicate 4 ⟨true, false, 0, 0⟩
  partitions : List (List Nat) := []
  /-- the VD that holds each partition's slice and since when (R402) -/
  slices : List (Nat × Nat × Nat) := []
  pfWr : Nat := 0
  pfRd : Nat := 0
  pfHeld : List (List Byte) := []
  /-- MSI-X messages sent: VD, or 64 for the PF (R378, R397) -/
  msix : List Nat := []
  /-- the UCIe modules that work: 0 and 1 on I-die 0, 2 and 3 on I-die 1 (R376, R377) -/
  modules : BitVec 4 := 0
  recovery : Bool := false
  started : Bool := false
  keys : Nat := 0
  moves : List Move := []
  /-- owner partition of each 512 MiB slice of a stack that has one (R403) -/
  owners : List (Nat × Nat) := []
  marked : List Nat := []
  ranges : List RangeEnt := []
  windows : List (Nat × Nat) := []
  /-- clock of an island in MHz where it was set, and each island's offset from the root of TIME (R14, R343). Islands 0-39 are
  those of the clusters, five a die; 40-47 the dies' uncore; 48-63 the stack base dies -/
  islands : List (Nat × Nat) := []
  skew : List (Nat × Int) := []
  ceiling : Option Nat := none
  /-- the configuration record that a start has verified (R408), and the group binding tables written from it (R270) -/
  record : Option Record := none
  binding : List BindEnt := []
  /-- what was returned outside last: dmt's print (R413), a command-region read, Umarek's status (R65) -/
  reply : List (List Nat) := []
  /-- words of code that dmt has printed and the disassembly that follows them (R412), and its reports of stops and units (R413) -/
  words : List (List Byte) := []
  listing : List (List (Option Instr)) := []
  notes : List Note := []
  /-- the lines whose bridge exchanges dmt records, and the records, oldest first (R421) -/
  trace : List Loc := []
  exchanges : List Exchange := []
  deriving DecidableEq, Repr, Inhabited

/-- Why a step stops. No rule of the spec stops the package: a precise fault is a next state, the trap. -/
inductive Fault where
  /-- raised by nothing: no rule of the spec stops the package, and no step of this model does. Safe: a machine that
  never stops here cannot hide a run of the hardware. -/
  | noWave
  deriving DecidableEq, Repr, Inhabited

/-- Why an instruction has no meaning here. -/
inductive Refusal where
  /-- raised by exec for an instruction whose meaning is not written; safe. -/
  | notModelled (mnemonic : String)
  deriving DecidableEq, Repr, Inhabited

/-- The machine as a cold start finds it: no wave, gang, launch or virtual device exists (R91, R409). -/
def State.reset : State := {}

end Sys2Proof.Machine
end

