-- ==== Sys2Proof/Machine/Regs.lean ====
section
/-! DEFINITION. The issue unit in hand, its wave and fragment, and the register files: every read and write of a
scalar, vector, predicate or queue port goes through this file (R56, R90-R97, R100-R102, R230, R231, R350). -/
namespace Sys2Proof.Machine

/-- A precise fault (R353, R355): cause, TRAPA, the faulting lanes, and whether EPC is the address after the unit. -/
structure Trap where
  cause : Byte
  addr : Addr := 0
  lanes : Word := 0
  after : Bool := false
  deriving DecidableEq, Repr, Inhabited

/-- Why an instruction does not complete: it waits and nothing changes; it waits and keeps what it has begun; it
faults, in the state that the fault finds (R9, R100). -/
inductive Stop where
  | wait
  | keep (s : State)
  | trap (s : State) (t : Trap)
  deriving Repr, Inhabited

/-- A meaning in progress. -/
abbrev Act (α : Type) := Except Stop α

/-! ## The causes of R355, and how a meaning raises one or waits -/

def cILL : Byte := 0x01
def cALIGN : Byte := 0x02
def cXLATE : Byte := 0x03
def cPROT : Byte := 0x04
def cTAG : Byte := 0x05
def cPOISON : Byte := 0x06
def cFEMPTY : Byte := 0x07

/-- The instruction faults with this cause and TRAPA. -/
def fault {α : Type} (s : State) (c : Byte) (a : Addr := 0) : Act α := .error (.trap s ⟨c, a, 0, false⟩)

def cFRAGOVF : Byte := 0x08
def cXBLK : Byte := 0x09
def cXWAIT : Byte := 0x0A
def cSLNODE : Byte := 0x0B
def cSLPATH : Byte := 0x0C
def cKVDRY : Byte := 0x0D
def cRNGOVF : Byte := 0x0E

/-- Fault unless the condition holds. -/
def need (b : Bool) (s : State) (c : Byte) (a : Addr := 0) : Act Unit := if b then .ok () else fault s c a

def cSYNCOVR : Byte := 0x0F
def cQCLOSED : Byte := 0x10
def cTRAP : Byte := 0x11
def cBKPT : Byte := 0x12
def cWATCH : Byte := 0x13
def cENGINE : Byte := 0x14
def cPINOVF : Byte := 0x15

/-- Wait unless the condition holds. -/
def waitFor (b : Bool) : Act Unit := if b then .ok () else .error .wait

def cDEPTH : Byte := 0x16
def cPAIR : Byte := 0x17
def cRKSTATE : Byte := 0x18
def cROLE : Byte := 0x19
def cPRIV : Byte := 0x1A
def cLOCAL : Byte := 0x1B

/-! ## Waves and fragments -/

def State.wave (s : State) (w : Nat) : Wave := s.waves.getD w {}
def State.gang (s : State) (g : Nat) : Gang := s.gangs.getD g {}
def State.vd (s : State) (d : Nat) : Vd := s.vds.getD d {}
def State.launch (s : State) (l : Nat) : Launch := s.launches.getD l {}
def State.modWave (s : State) (w : Nat) (f : Wave → Wave) : State := { s with waves := s.waves.modify w f }
def State.modGang (s : State) (g : Nat) (f : Gang → Gang) : State := { s with gangs := s.gangs.modify g f }
def State.modVd (s : State) (d : Nat) (f : Vd → Vd) : State := { s with vds := s.vds.modify d f }
def State.modLaunch (s : State) (l : Nat) (f : Launch → Launch) : State :=
  { s with launches := s.launches.modify l f }

/-- The wave, fragment, gang and virtual device of the issue unit in hand. -/
def State.cw (s : State) : Wave := s.wave s.cur.wave
def State.cf (s : State) : Frag := s.cw.frags.getD s.cur.frag {}
def State.cg (s : State) : Gang := s.gang s.cw.gang
def State.cv (s : State) : Vd := s.vd s.cg.vd
def State.cl (s : State) : Launch := s.launch s.cg.launch
def State.cwg (s : State) : Wg := s.cg.wgs.getD s.cw.wg {}
/-- Its role in the launch block (R34). -/
def State.crole (s : State) : Role := s.cl.block.roles.getD s.cw.role {}

def Wave.modFrag (w : Wave) (f : Nat) (g : Frag → Frag) : Wave := { w with frags := w.frags.modify f g }
def State.modCw (s : State) (f : Wave → Wave) : State := s.modWave s.cur.wave f
def State.modCf (s : State) (f : Frag → Frag) : State := s.modCw fun w => w.modFrag s.cur.frag f
def State.modCg (s : State) (f : Gang → Gang) : State := s.modGang s.cw.gang f

/-- The wave runs its trap handler (R350). -/
def Wave.handling (w : Wave) : Bool := match w.mode with | .handler _ => true | _ => false

/-- The numbers of the wave's live fragments, those waiting at JOIN included (R23). -/
def Wave.liveFrags (w : Wave) : List Nat := (List.range 8).filter fun f => (w.frags.getD f {}).live

/-- Draw a number that names a free value (Config). -/
def State.draw (s : State) : Nat × State := (s.free, { s with free := s.free + 1 })

/-- Draw the next place in issue order. -/
def State.tick (s : State) : Nat × State := (s.seq, { s with seq := s.seq + 1 })

/-- The cores of the package in one numbering: die, cluster, core. -/
def coreNo (die cluster core : Nat) : Nat := (die * 20 + cluster) * 4 + core
def Wave.coreNo (w : Wave) : Nat := Machine.coreNo w.die w.cluster w.core
def Wave.clusterNo (w : Wave) : Nat := w.die * 20 + w.cluster
/-- The partitions of the package in one numbering. -/
def Wave.partNo (w : Wave) : Nat := w.coreNo * 4 + w.part

/-- Put an element in its place in a list sorted by `le`. -/
def insertBy {α : Type} (le : α → α → Bool) (x : α) : List α → List α
  | [] => [x]
  | y :: r => if le x y then x :: y :: r else y :: insertBy le x r

/-- A list sorted by `le`, equals in their order. -/
def sortBy {α : Type} (le : α → α → Bool) (l : List α) : List α := l.foldr (insertBy le) []

/-! ## Masks -/

def mask32 (p : Nat → Bool) : Word :=
  (List.range 32).foldr (fun l acc => if p l then acc ||| (1#32 <<< l) else acc) 0

/-- The lanes of a mask, rising. -/
def lanesOf (m : Word) : List Nat := (List.range 32).filter fun l => m.getLsbD l

/-- The lowest lane of a mask, or 32. -/
def lowest (m : Word) : Nat := ((lanesOf m).head?).getD 32

def popcount (m : Word) : Nat := (lanesOf m).length

/-- A predicate as the instruction reads it: k0 is all ones (R97). -/
def Wave.pred (w : Wave) (k : Nat) : Word := if k = 0 then 0xFFFFFFFF else w.k.getD k 0

/-- The lane set a unit may write: all lanes in a handler (R350), else the fragment's (R28). -/
def State.laneSet (s : State) : Word := if s.cw.handling then 0xFFFFFFFF else s.cf.lanes

/-- EXM as the unit sees it, narrowed to the elected lane (R135, R144, R350). -/
def State.exm (s : State) : Word :=
  let m := if s.cw.handling then 0xFFFFFFFF else s.cf.exm
  match s.cur.elect with
  | some e => m &&& e
  | none => m

/-- The predicate that the kp field or a PREDX prefix names (R52, R54). -/
def State.kpMask (s : State) (kp : BitVec 2) : Word :=
  match s.cur.pfx with
  | some (.predx neg k) => if neg = 1 then ~~~ s.cw.pred k.toNat else s.cw.pred k.toNat
  | _ => s.cw.pred kp.toNat

/-- The active lanes of an instruction with a kp field. -/
def State.active (s : State) (kp : BitVec 2) : Word := s.exm &&& s.kpMask kp

/-! ## Scalars -/

/-- Register numbers an instruction may name: y0-y15 in a handler, every scalar otherwise (R350). -/
def State.checkS (s : State) (r : Nat) : Act Unit := need (!s.cw.handling || r < 16) s cILL

/-- A scalar as it stands: register 0 reads as value 0, tag 0, FULL (R56, R96, R350). -/
def State.sreg (s : State) (r : Nat) : SReg :=
  if r = 0 then {} else if s.cw.handling then s.cw.y.getD r {} else s.cf.s.getD r {}

/-- Read a scalar source: wait while EMPTY, fault on POISON (R93). -/
def State.readS (s : State) (r : Nat) : Act SReg := do
  s.checkS r
  match (s.sreg r).st with
  | .full => .ok (s.sreg r)
  | .empty => .error .wait
  | .poison => fault s cPOISON (BitVec.ofNat 72 (64 + r))

/-- Read `n` consecutive scalars: the waits come before the POISON checks. -/
def State.readSs (s : State) (rs : List Nat) : Act (List SReg) := do
  rs.forM s.checkS
  waitFor (rs.all fun r => (s.sreg r).st != .empty)
  rs.mapM s.readS

/-- Change a scalar of the unit's fragment or trap bank; register 0 discards it (R56). -/
def State.modS (s : State) (r : Nat) (f : SReg → SReg) : State :=
  if r = 0 then s
  else if s.cw.handling then s.modCw fun w => { w with y := w.y.modify r f }
  else s.modCf fun g => { g with s := g.s.modify r f }

/-- An ordinary write: POISON becomes FULL, EMPTY stays EMPTY (R93). -/
def SReg.write (x : SReg) (v : DWord) (tag : Byte) : SReg :=
  { val := v, tag := tag, st := if x.st = .empty then .empty else .full }

def State.writeS (s : State) (r : Nat) (v : DWord) (tag : Byte := 0) : State :=
  s.modS r fun x => x.write v tag

/-! ## Committing -/

/-- A committing instruction has been executed (R43): the wave and its gang remember it. In a handler the open commit
is the handler's own, which RETT closes (R354, R369). -/
def State.commitMark (s : State) : State :=
  (s.modCw fun w => { w with commit := w.commit || !w.handling }).modCg fun g => { g with committed := true }

/-- The instruction is committing: it raises PRIV in recompute code (R364). -/
def State.commit (s : State) : Act State := do
  need (s.cw.mode != .recompute) s cPRIV
  .ok s.commitMark

/-! ## Operations the fragment waits for -/

def Op.isStore (o : Op) : Bool := match o.kind with | .store _ => true | _ => false
def Op.isLoad (o : Op) : Bool := match o.kind with | .load .. => true | _ => false
def Op.isAtomic (o : Op) : Bool := match o.kind with | .atomic .. => true | _ => false
/-- An access of a fragment: a load, a store or an atomic. -/
def Op.isAccess (o : Op) : Bool := o.isStore || o.isLoad || o.isAtomic
/-- An SLBACK still at its unit: a release and a FENCE wait for it as for an access (R299). -/
def Op.isBackup (o : Op) : Bool := match o.kind with | .slalom _ (.back ..) _ | .slalom _ (.rest ..) _ => true | _ => false
/-- CLEAN, INVAL or CLNINV. -/
def Op.isMaint (o : Op) : Bool := match o.kind with | .maint .. => true | _ => false

/-- Operations of the unit's fragment still to be performed. -/
def State.pending (s : State) (p : Op → Bool) : Bool :=
  s.flight.any fun o => o.wave == s.cur.wave && o.owners.contains s.cur.frag && p o

/-- Every earlier access of the fragment is performed, and its backups at Slalom units: what a release waits for (R189, R299). -/
def State.settled (s : State) : Bool := !s.pending fun o => o.isAccess || o.isBackup

/-! ## Vector registers and queue ports -/

/-- The wave holds an extended block (R98). -/
def Wave.held (w : Wave) : Bool := w.xbh.getLsbD 0

/-- Register numbers: w0-w7 in a handler; v40-v55 need a held block; a port access is committing, and raises PRIV in
recompute code (R30, R43, R56, R350, R364). -/
def State.checkV (s : State) (r : Nat) : Act Unit := do
  need (!s.cw.handling || r < 8) s cILL
  need (r < 40 || 56 ≤ r || s.cw.held) s cXBLK
  need (r < 56 || s.cw.mode != .recompute) s cPRIV

def State.vreg (s : State) (r : Nat) : VReg :=
  if s.cw.handling then s.cw.w.getD r {} else s.cw.v.getD r {}

def State.modV (s : State) (r : Nat) (f : VReg → VReg) : State :=
  if s.cw.handling then s.modCw fun w => { w with w := w.w.modify r f }
  else s.modCw fun w => { w with v := w.v.modify r f }

/-- The value of a lane. -/
def VReg.lane (v : VReg) (l : Nat) : Word := v.lanes.getD l 0

/-- Store values in the lanes of a mask and clear their poison bits (R93). -/
def VReg.write (v : VReg) (act : Word) (r : Nat → Word) : VReg :=
  { v with lanes := (List.range 32).map fun l => if act.getLsbD l then r l else v.lane l
           poison := v.poison &&& ~~~ act }

/-- The bank that a port of the wave is bound to: its number and what it holds (R233). -/
def State.portBank (s : State) (q : Nat) : Option (Nat × Bank) :=
  match s.cw.ports.getD (q - 56) none with
  | none => none
  | some b => some (b.bank, s.cg.banks.getD b.bank {})

def State.modBank (s : State) (b : Nat) (f : Bank → Bank) : State :=
  s.modCg fun g => { g with banks := g.banks.modify b f }

/-- An entry enters the bank, last. -/
def Bank.push (b : Bank) (e : VReg) : Bank := { b with entries := b.entries ++ [e] }

/-- The local address of a bank (R155). -/
def bankAddr (b : Nat) : Addr := BitVec.ofNat 72 (b * 2 ^ 17)

/-- Is there nothing to wait for at the source? A register must be FULL, an open port must hold more than `extra` entries;
an unbound port, and a closed one, are waited for no longer: their pop raises QCLOSED if it finds nothing (shut). T turns
a wait into FEMPTY, with the register number or the bank's local address in TRAPA (R56, R93, R231). -/
def State.srcReady (s : State) (r : Nat) (t : Bool) (extra : Nat := 0) : Act Unit :=
  if r < 56 then
    if (s.vreg r).empty then (if t then fault s cFEMPTY (BitVec.ofNat 72 r) else .error .wait) else .ok ()
  else match s.portBank r with
    | none => .ok ()
    | some (b, bk) =>
      if extra < bk.entries.length || bk.closed then .ok ()
      else if t then fault s cFEMPTY (bankAddr b) else .error .wait

/-- The pop of a port that is unbound, or closed with no more than `extra` entries, raises QCLOSED with this TRAPA
(R231). -/
def State.shut (s : State) (r : Nat) (extra : Nat := 0) : Option Addr :=
  if r < 56 then none
  else match s.portBank r with
    | none => some 0
    | some (b, bk) => if extra < bk.entries.length then none else some (bankAddr b)

/-- The value of a source; a port pops its oldest entry, whatever the active mask (R101, R230). -/
def State.takeSrc (s : State) (r : Nat) : VReg × State :=
  if r < 56 then (s.vreg r, s)
  else match s.portBank r with
    | none => ({}, s)
    | some (b, bk) =>
      (bk.entries.headD {}, (s.modBank b fun k => { k with entries := k.entries.tail }).commitMark)

/-- May the destination be written? A full port waits, an unbound one raises QCLOSED (R231); a push is a release of the
fragment's earlier accesses (R236). -/
def State.dstReady (s : State) (r : Nat) : Act Unit :=
  if r < 56 then .ok ()
  else match s.portBank r with
    | none => fault s cQCLOSED
    | some (_, bk) => waitFor ((bk.closed || bk.entries.length < 1024) && s.settled)

/-- Push an entry, 0 in inactive lanes; a closed bank drops it and sets STAT.QERR (R101, R231). -/
def State.push (s : State) (r : Nat) (act : Word) (v : Nat → Word) : State :=
  match s.portBank r with
  | none => s
  | some (b, bk) =>
    if bk.closed then s.commitMark.modCw fun w => { w with stat := w.stat ||| 4 }
    else (s.modBank b fun k =>
      k.push { lanes := (List.range 32).map fun l => if act.getLsbD l then v l else 0 }).commitMark

/-- Write a vector destination in the active lanes. -/
def State.writeV (s : State) (r : Nat) (act : Word) (v : Nat → Word) : State :=
  if r < 56 then s.modV r fun x => x.write act v else s.push r act v

/-- The place among the sources of the first that is poisoned in a lane the instruction reads (R93). -/
def poisonedAt (act : Word) (vs : List VReg) : Option Nat := vs.findIdx? fun v => (v.poison &&& act) != 0

/-! ## Predicates -/

/-- Write predicate bits in the lanes of a mask; k0 discards them; a handler may not write a predicate
(R97, R350). -/
def State.writeK (s : State) (k : Nat) (m v : Word) : Act State :=
  if s.cw.handling then fault s cILL
  else .ok (if k = 0 then s else s.modCw fun w => { w with k := w.k.modify k fun x => (x &&& ~~~ m) ||| (v &&& m) })

/-! ## Completing a unit -/

/-- Where the unit's fragment goes on. In a handler it is the handler's program counter (R353). -/
def State.setPc (s : State) (pc : DWord) : State :=
  if s.cw.handling then s.modCw fun w => { w with hpc := pc } else s.modCf fun f => { f with pc := pc }

/-- The latches after one more instruction of the wave (R95). -/
def latchStep (w : Nat) (l : List Latch) : List Latch :=
  (l.map fun e => if e.wave = w then { e with left := e.left - 1 } else e).filter fun e => e.left != 0

/-- H = 1 places va in its partition's latch for the wave's next two instructions; of three entries the oldest is
replaced (R95). -/
def State.latchVa (s : State) (h : BitVec 1) (va : BitVec 6) : State :=
  if h = 1 then
    let p := s.cw.partNo
    { s with latches := ⟨p, s.cur.wave, va.toNat, 3⟩ :: (s.latches.filter fun e => e.part == p).take 2
        ++ s.latches.filter fun e => e.part != p }
  else s

/-- The unit has issued: its fragment is the one that issued last, and the cursor is free (R269). -/
def State.issued (s : State) : State :=
  let n := s.seq
  let s := { s with seq := n + 1, latches := latchStep s.cur.wave s.latches
                    cur := { s.cur with opened := false, pfx := none, elect := none, undo := none } }
  s.modCw fun w => w.modFrag s.cur.frag fun f => { f with lastIssue := n, park := .none }

/-- The unit has issued and its fragment goes on at the next instruction. -/
def State.done (s : State) : State := (s.setPc s.cur.nxt).issued

/-- The island of a cluster: five to a die, of four clusters each (R14). -/
def islandOf (cluster : Nat) : Nat := cluster / 20 * 5 + cluster % 20 / 4

/-- The clock of a cluster's island in MHz (R14). -/
def State.mhz (s : State) (cluster : Nat) : Nat :=
  ((s.islands.find? fun i => i.1 == islandOf cluster).map (·.2)).getD 2250

end Sys2Proof.Machine
end

