-- ==== Sys2Proof/Machine/Mem.lean ====
section
/-! DEFINITION. Bytes: the one memory list and its spaces, the home of each line with its directory and LLC copy,
formatted pages, page tables and translation, and the fetch of instruction bytes (R47, R49, R147-R160, R379-R381,
R403). -/
namespace Sys2Proof.Machine

/-! ## The memory list -/

/-- What an unlisted address reads as. The spec gives HBM no contents at cold start but zeroed ECC (R409), and zeros to
SRAM banks and tiles at placement (R156, R208). DESIGN CHOICE: 0, log 3. -/
def unlisted : Byte := 0

/-- Read a byte of a canonical list. -/
def memGet : List Host.Cell → Nat → Byte
  | [], _ => unlisted
  | (a, b) :: r, k => if a = k then b else if k < a then unlisted else memGet r k

/-- Write a byte, keeping the list rising and free of unlisted values. -/
def memSet : List Host.Cell → Nat → Byte → List Host.Cell
  | [], k, v => if v = unlisted then [] else [(k, v)]
  | (a, b) :: r, k, v =>
    if a = k then (if v = unlisted then r else (k, v) :: r)
    else if k < a then (if v = unlisted then (a, b) :: r else (k, v) :: (a, b) :: r)
    else (a, b) :: memSet r k v

/-- The canonical form: addresses strictly rising from `lo` on, no entry equal to what an unlisted address reads as. -/
def memWfFrom (lo : Nat) : List Host.Cell → Bool
  | [] => true
  | (a, b) :: r => lo ≤ a && b != unlisted && memWfFrom (a + 1) r

def Memory.wf (m : List Host.Cell) : Bool := memWfFrom 0 m

/-- A strictly rising list of keys, as the marks of poisoned bytes are kept. -/
def keyPut : List Nat → Nat → Bool → List Nat
  | [], k, p => if p then [k] else []
  | a :: r, k, p =>
    if a = k then (if p then a :: r else r)
    else if k < a then (if p then k :: a :: r else a :: r)
    else a :: keyPut r k p

def spaceNo : Space → Nat
  | .phys => 0
  | .tier1 => 1
  | .host => 2
  | .fmt => 3
  | .sram => 4
  | .tile => 5
  | .llc => 6
  | .hostCopy => 7
  | .bridge => 8
  | .l1 c => 16 + 8 * c
  | .cc c => 17 + 8 * c
  | .ic c => 18 + 8 * c
  | .priv w => 19 + 8 * w
  | .privWb w => 20 + 8 * w
  | .cmd d => 21 + 8 * d
  | .iv w => 22 + 8 * w

/-- The key of a place in the memory list. -/
def Loc.key (l : Loc) : Nat := spaceNo l.sp * 2 ^ 128 + l.a

/-- The address under which copies of a place are kept: its space and address in one number. -/
def Loc.tagged (l : Loc) : Nat := spaceNo l.sp * 2 ^ 112 + l.a

def Loc.plus (l : Loc) (n : Nat) : Loc := ⟨l.sp, l.a + n⟩
def Loc.line (l : Loc) : Loc := ⟨l.sp, l.a / 128 * 128⟩

/-- The bytes as they stand in the memory list, with the mark of an uncorrectable error (R148). -/
def State.raw (s : State) (l : Loc) : Byte × Bool := (memGet s.mem l.key, s.bad.contains l.key)

def State.putRaw (s : State) (l : Loc) (b : Byte) (p : Bool := false) : State :=
  { s with mem := memSet s.mem l.key b, bad := keyPut s.bad l.key p }

def State.raws (s : State) (l : Loc) (n : Nat) : List (Byte × Bool) := (List.range n).map fun i => s.raw (l.plus i)

def State.putRaws (s : State) (l : Loc) (bs : List (Byte × Bool)) : State :=
  (bs.foldl (fun (p : State × Nat) b => (p.1.putRaw (l.plus p.2) b.1 b.2, p.2 + 1)) (s, 0)).1

/-- Forget every byte of [lo, lo + n) of a space. -/
def State.zero (s : State) (l : Loc) (n : Nat) : State :=
  { s with mem := s.mem.filter fun c => !(l.key ≤ c.1 && c.1 < l.key + n)
           bad := s.bad.filter fun k => !(l.key ≤ k && k < l.key + n) }

/-! ## HBM, moving pages and marked pages -/

/-- A moving page's copied chunks are served at the new location (R403). -/
def State.fwd (s : State) (l : Loc) : Loc :=
  match l.sp with
  | .phys =>
    match s.moves.find? fun m => m.src = l.a / 65536 with
    | some m => if m.copied.getLsbD (l.a % 65536 / 4096) then ⟨.phys, m.dst * 65536 + l.a % 65536⟩ else l
    | none => l
  | _ => l

/-- The chunk is BUSY: its accesses wait (R403). -/
def State.busy (s : State) (l : Loc) : Bool :=
  l.sp == .phys && s.moves.any fun m => m.src = l.a / 65536 && m.busy && m.chunk = l.a % 65536 / 4096

/-- The chunk drains: no lease, no fill (R403). -/
def State.draining (s : State) (l : Loc) : Bool :=
  l.sp == .phys && s.moves.any fun m => m.src = l.a / 65536 && !m.busy && m.chunk = l.a % 65536 / 4096
    && !m.copied.getLsbD m.chunk

/-- A byte in HBM; a marked page reads as 0 (R406). -/
def State.hbm (s : State) (l : Loc) : Byte × Bool :=
  if l.sp == .phys && s.marked.contains (l.a / 65536) then (0, false) else s.raw l

/-- Write HBM; the first write to a marked page zero-fills it and clears its mark (R406). -/
def State.putHbm (s : State) (l : Loc) (b : Byte) (p : Bool) : State :=
  let pg := l.a / 65536
  let s := if l.sp == .phys && s.marked.contains pg
    then { s.zero ⟨.phys, pg * 65536⟩ 65536 with marked := s.marked.filter (· != pg) } else s
  s.putRaw l b p

/-! ## Formatted pages (R158, R159) -/

/-- Element size in bits for the packed formats, or the block bytes of an sx format. -/
def efmtBytes (ef ne : Nat) : Nat :=
  match ef with
  | 0 | 1 => ne / 2
  | 4 | 5 => ne * 3 / 4
  | 6 => ne / 2
  | 7 => ne / 16 * 12
  | 8 => ne / 16 * 18
  | _ => ne

def dfmtBytes (df : Nat) : Nat := match df with | 2 => 1 | 3 => 4 | _ => 2

def dfmt (df : Nat) : Num.Fmt := match df with | 0 => Num.bf16 | 1 => Num.h16 | 2 => Num.e4m3 | _ => Num.f32

/-- The entry a page names: the tier-1 port's, or that of the stack's HBM controller (R159). -/
def State.rangeEnt (s : State) (ctrl : Option Nat) (i : Nat) : Option RangeEnt :=
  s.ranges.find? fun e => e.ctrl = ctrl && e.idx = i

/-- The entry is valid, with no reserved value (R158). -/
def RangeEnt.ok (e : RangeEnt) : Bool :=
  let c := e.ctl.toNat
  let ef := field c 1 4
  field c 0 1 = 1 && ef < 10 && field c 5 2 < 2 && field c 7 3 < 4 && field c 12 52 = 0
    && (!(6 ≤ ef && ef ≤ 8) || (field c 5 2 = 0 && field c 7 3 = 0))

/-- Nibbles that the first n codes of a scale stream take. -/
def polzenLen : Nat → List Nat → Nat
  | 0, _ => 0
  | n + 1, 8 :: _ :: _ :: r => 3 + polzenLen n r
  | n + 1, _ :: r => 1 + polzenLen n r
  | _, [] => 0

/-- The image of the page at `pa`, read from HBM, where it may be moving (R403), or from tier 1. -/
def State.image (s : State) (sp : Space) (pa off n : Nat) : List (Byte × Bool) :=
  (List.range n).map fun i => s.hbm (s.fwd ⟨sp, pa + off + i⟩)

/-- Decoded byte `off` of a formatted page, with poison where the image is uncorrectable, its scale stream included (R148,
R159), and in every line from that of the first block on whose scale decodes badly (R86). -/
def State.fmtByte (s : State) (l : Loc) : Byte × Bool :=
  let off := l.a % 65536
  let pa := l.a / 65536 % 2 ^ 54
  let fri := l.a / 2 ^ 70 % 16
  let tier := l.a / 2 ^ 74 = 1
  let sp := if tier then .tier1 else .phys
  match s.rangeEnt (if tier then none else some (pa / 2 ^ 37)) fri with
  | none => (0, true)
  | some e =>
    let c := e.ctl.toNat
    let ef := field c 1 4
    let df := field c 10 2
    let sz := dfmtBytes df
    let ne := 65536 / sz
    let j := off / sz
    let b := 16 * 2 ^ field c 7 3
    let rdn (o n : Nat) : Nat × Bool :=
      let bs := s.image sp pa o n
      (natOf (bs.map (·.1)), bs.any (·.2))
    let (x, p) : Num.Ex × Bool := match ef with
      | 0 => let r := rdn (j / 2) 1; let v := r.1 / 16 ^ (j % 2) % 16
             (Num.ofInt (if v < 8 then (v : Int) else (v : Int) - 16), r.2)
      | 1 => let r := rdn (j / 2) 1; (Num.val Num.e2m1 (r.1 / 16 ^ (j % 2) % 16), r.2)
      | 2 => let r := rdn j 1; (Num.val Num.e4m3 r.1, r.2)
      | 3 => let r := rdn j 1; (Num.val Num.e5m2 r.1, r.2)
      | 4 => let r := rdn (j / 4 * 3) 3; (Num.val Num.e3m2 (r.1 / 64 ^ (j % 4) % 64), r.2)
      | 5 => let r := rdn (j / 4 * 3) 3; (Num.val Num.e2m3 (r.1 / 64 ^ (j % 4) % 64), r.2)
      | 6 => let r := rdn (j / 16 * 8) 8; (Num.decSx 2 r.1 (j % 16), r.2)
      | 7 => let r := rdn (j / 16 * 12) 12; (Num.decSx 4 r.1 (j % 16), r.2)
      | 8 => let r := rdn (j / 16 * 18) 18; (Num.decSx 7 r.1 (j % 16), r.2)
      | _ => let r := rdn j 1; (Num.ofInt (BitVec.ofNat 8 r.1).toInt, r.2)
    let scaled : Option (Num.Ex × Bool) :=
      if field c 5 2 = 1 then
        let nb := j / b + 1
        let last := (off / 128 * 128 + 127) / sz / b + 1
        let im := s.image sp pa (efmtBytes ef ne) (3 * last)
        let st := Num.nibbles (im.map (·.1))
        let q := Num.polzen last true 0 st
        if (q.getD (last - 1) none).isNone then none
        else (q.getD (nb - 1) none).map fun q => (Num.polzenScale q x, (im.take ((polzenLen nb st + 1) / 2)).any (·.2))
      else some (x, false)
    match scaled with
    | none => (0, true)
    | some (y, bad) => (BitVec.ofNat 8 (Num.round (dfmt df) .rne y / 256 ^ (off % sz)), p || bad)

/-! ## Homes -/

def State.llcHas (s : State) (l : Loc) : Bool := s.llc.any fun e => e.line == l.line

/-- The half of a line: its address in units of 64 bytes. -/
def halfOf (a : Nat) : Nat := a / 64

def State.dirOf (s : State) (h : Nat) : Option HalfSt := (s.dir.find? fun p => p.1 == h).map (·.2)
def State.bridgeOf (s : State) (h : Nat) : Option HalfSt := (s.bridge.find? fun p => p.1 == h).map (·.2)

/-- A byte where the memory behind the LLC holds it. -/
def State.behind (s : State) (l : Loc) : Byte × Bool :=
  match l.sp with
  | .fmt => s.fmtByte l
  | _ => s.hbm l

/-- The byte that a read performed at the home returns now: the host's modified half, the LLC's copy, the bridge's
half, or the memory behind (R147, R379, R381). -/
def State.homeByte (s : State) (l0 : Loc) : Byte × Bool :=
  let l := s.fwd l0
  match l.sp with
  | .host => if (s.bridgeOf (halfOf l.a)).isSome then s.raw ⟨.bridge, l.a⟩ else s.raw l
  | .phys =>
    if s.dirOf (halfOf l.a) == some .m then s.raw ⟨.hostCopy, l.a⟩
    else if s.llcHas l then s.raw ⟨.llc, l.tagged⟩ else s.behind l
  | .fmt | .tier1 => if s.llcHas l then s.raw ⟨.llc, l.tagged⟩ else s.behind l
  | _ => s.raw l

def State.homeBytes (s : State) (l : Loc) (n : Nat) : List (Byte × Bool) :=
  (List.range n).map fun i => s.homeByte (l.plus i)

/-- Bytes of the line become dirty in the LLC. -/
def State.llcDirty (s : State) (l : Loc) (n : Nat) : State :=
  { s with llc := s.llc.map fun e => if e.line == l.line
      then { e with dirty := e.dirty ||| ((1#128 <<< n) - 1) <<< (l.a % 128) } else e }

/-- Write a line's dirty bytes to the memory behind (CLEAN, an eviction). -/
def State.llcClean (s : State) (l0 : Loc) : State :=
  let l := l0.line
  match s.llc.find? fun e => e.line == l with
  | none => s
  | some e =>
    let s := (List.range 128).foldl (fun s i =>
      if e.dirty.getLsbD i then
        let b := s.raw ⟨.llc, l.tagged + i⟩
        s.putHbm (l.plus i) b.1 b.2 else s) s
    { s with llc := s.llc.map fun e => if e.line == l then { e with dirty := 0, part := false } else e }

/-- Drop a line from the LLC without write-back. -/
def State.llcDrop (s : State) (l0 : Loc) : State :=
  let l := l0.line
  let s := s.zero ⟨.llc, l.tagged⟩ 128
  { s with llc := s.llc.filter fun e => e.line != l }

/-- The LLC slice that is a line's home: on the die of its HBM stack (R12, R152), a decoded line's image counting for it, 64 of
them on a die. Within the die a decoded line uses the same bits of its own address as R152 names, and a line of tier 1 takes
its die from them too: the spec names no slice for either. DESIGN CHOICE, log 87. -/
def llcSlice (l : Loc) : Nat :=
  let pa := match l.sp with | .fmt => l.a / 2 ^ 16 | _ => l.a
  field pa 38 3 * 64 + (field l.a 7 6 ^^^ field l.a 13 6 ^^^ field l.a 19 6 ^^^ field l.a 25 6 ^^^ field l.a 31 6)

/-- Draw which of n things goes. -/
def State.victim (s : State) (n : Nat) : Nat × State := ((Config.freeWord s.free).toNat % n, { s with free := s.free + 1 })

/-- The places in a list of the lines that go first (R168). -/
def goFirst (ks : List Keep) : List Nat :=
  let at_ (k : Keep) : List Nat := (List.range ks.length).filter fun i => ks[i]? == some k
  if ks.contains .first then at_ .first else if ks.contains .normal then at_ .normal else List.range ks.length

/-- Draw which line goes, among those that go first: its place in the list. -/
def State.evictee (s : State) (ks : List Keep) : Nat × State :=
  let c := goFirst ks
  let (n, t) := s.victim c.length
  (c.getD n 0, t)

/-- When the lines of an access are replaced in an L1 under its hint (R168). The spec does not say what an access without such
a hint does to a line already held: it leaves the line as it is. DESIGN CHOICE, log 109. -/
def l1Keep (hint : Nat) : Keep := match hint with | 2 => .first | 3 => .last | _ => .normal

/-- An access under a hint changes when its line is replaced in the LLC: `keep` does for loads and stores, `stream` for
stores (R168). -/
def State.llcKeep (s : State) (l0 : Loc) (hint : Nat) (store : Bool) : State :=
  if hint = 3 || (hint = 2 && store) then
    let l := s.fwd l0.line
    { s with llc := s.llc.map fun e => if e.line == l then { e with keep := l1Keep hint } else e }
  else s

/-- A slice holds 3 MiB, 24,576 lines (R13, R147). A full one evicts a line, which is written back; which of those that go
first the spec does not say: free. -/
def State.llcRoom (s : State) (l : Loc) : State :=
  let own := s.llc.filter fun e => llcSlice e.line == llcSlice l
  if own.length < 24576 then s
  else
    let (n, t) := s.evictee (own.map (·.keep))
    match own[n]? with
    | some e => (t.llcClean e.line).llcDrop e.line
    | none => t

/-- The line enters the LLC, clean (R147), and its contention counter is 0 (R186). -/
def State.llcFill (s0 : State) (l0 : Loc) : State :=
  let l := l0.line
  if s0.llcHas l then s0
  else
    let s := s0.llcRoom l
    let bs := (List.range 128).map fun i => s.behind (l.plus i)
    { s.putRaws ⟨.llc, l.tagged⟩ bs with
      llc := { line := l, dirty := 0 } :: s.llc
      homes := s.homes.map fun h => if s.fwd h.line == l then { h with count := 0 } else h }

/-- An engine's core number: no TLB serves it, and no lease is its own. -/
def engineCore : Nat := 2 ^ 40

def State.home (s : State) (line : Loc) : Home := (s.homes.find? fun h => h.line == line).getD { line := line }

def State.setHome (s : State) (h : Home) : State :=
  { s with homes := h :: s.homes.filter fun x => x.line != h.line }

/-- The home may perform a store or an atomic of this core on the line: 4 ticks past the latest read lease, if it ever
granted one, and no other core's own lease (R181, R184, R185). The home's own TIME is here the root's, for every home: its
island's copy may differ by 4 ticks (R14, R343). DESIGN CHOICE, log 110. -/
def State.leasesPast (s : State) (core : Nat) (line : Loc) : Bool :=
  let h := s.home line
  (h.latest = 0 || h.latest + 4 ≤ s.time) &&
    match h.own with | some (c, t) => c == core || t ≤ s.time | none => true

/-- States of a half as numbers: I 0, S 1, E 2, M or EM 3. -/
def halfNo : Option HalfSt → Nat
  | none => 0
  | some .s => 1
  | some .e => 2
  | some .m => 3

/-- The device line of a half. -/
def halfLoc (h : Nat) : Loc := ⟨.phys, h * 64⟩

/-- Record a coherence-bridge exchange of a traced line for dmt (R421): the state named by the request or the response, the data
that came with it (a half that the host holds EM answers with data, as M, log 124) and the change of the directory or the bridge. -/
def State.exchange (s : State) (act : BridgeAct) (half : Loc) (old new : Option HalfSt) (data : List Byte := []) : State :=
  if s.trace.any fun l => (s.fwd l).line == half.line then
    let host := act == .memRdS || act == .memRdA || act == .memWr || act == .hostSnoop
    { s with exchanges := s.exchanges ++ [{
        time := s.time, half := half, cause := if host then .host else .package, act := act
        said := (old, if act == .memRdA then some .e else new), data := data, old := old, new := new }] }
  else s

/-- The records after the first n that name no cause are of this one (R421). -/
def State.credit (s : State) (n : Nat) (c : BridgeBy) : State :=
  { s with exchanges := s.exchanges.take n
      ++ (s.exchanges.drop n).map fun e => if e.cause == .package then { e with cause := c } else e }

/-- The same of what operation `id` of `s` has done. -/
def State.creditOp (s : State) (id : Nat) (r : Option State) : Option State :=
  match s.flight.find? fun o => o.id == id with
  | some o => r.map fun t => t.credit s.exchanges.length (.wave o.wave o.code o.ord)
  | none => r

/-- The host's copy of a half that it holds EM. -/
def State.hostHalf (s : State) (h : Nat) : List Byte := (s.raws ⟨.hostCopy, h * 64⟩ 64).map fun (b : Byte × Bool) => b.1

/-- The host's modified half is merged at the home (R379). -/
def State.mergeHalf (s : State) (h : Nat) : State :=
  let l : Loc := ⟨.phys, h * 64⟩
  let s := s.llcFill l
  let s := s.putRaws ⟨.llc, l.tagged⟩ (s.raws ⟨.hostCopy, h * 64⟩ 64)
  (s.llcDirty l 64).zero ⟨.hostCopy, h * 64⟩ 64

def State.setDir (s : State) (h : Nat) (v : Option HalfSt) : State :=
  { s with dir := (match v with | some x => [(h, x)] | none => []) ++ s.dir.filter fun p => p.1 != h }
def State.setBridge (s : State) (h : Nat) (v : Option HalfSt) : State :=
  { s with bridge := (match v with | some x => [(h, x)] | none => []) ++ s.bridge.filter fun p => p.1 != h }

/-- A half leaves the bridge: modified bytes go back to the host (R381). -/
def State.bridgeDrop (s : State) (h : Nat) : State :=
  let s := if s.bridgeOf h == some .m then s.putRaws ⟨.host, h * 64⟩ (s.raws ⟨.bridge, h * 64⟩ 64) else s
  (s.zero ⟨.bridge, h * 64⟩ 64).setBridge h none

/-- The bridge may evict a half for another: the spec gives it no size, so whether it does and which one is free; one on
whose line a lease stands is kept, as R381 has a snoop wait for it. -/
def State.bridgeEvict (s : State) : State :=
  let hs := (s.bridge.map (·.1)).filter fun h => s.leasesPast engineCore ⟨.host, h / 2 * 128⟩
  let t := { s with free := s.free + 1 }
  if Config.freeBit s.free then
    let (n, u) := t.victim hs.length
    match hs[n]? with
    | some h => u.bridgeDrop h
    | none => u
  else t

/-- The bytes of a half of host memory as the bridge fetches it: those that stood there last, or what the host has written
since, which nothing here says (R384): free. -/
def State.hostBytes (s : State) (h : Nat) : List (Byte × Bool) :=
  if Config.freeBit s.free then s.raws ⟨.host, h * 64⟩ 64
  else (List.range 64).map fun i => (Config.freeByte (s.free + 1) i, false)

/-- The bridge fetches a host half it does not hold, in S, or in E where the host grants it, which is free (R381). -/
def State.bridgeFetch (s : State) (h : Nat) : State :=
  if (s.bridgeOf h).isSome then s
  else
    let s := s.bridgeEvict
    let x := if Config.freeBit (s.free + 2) then HalfSt.e else .s
    let bs := s.hostBytes h
    ((({ s with free := s.free + 3 }.putRaws ⟨.bridge, h * 64⟩ bs).putRaws ⟨.host, h * 64⟩ bs).setBridge h (some x)).exchange
      .fetch ⟨.host, h * 64⟩ none (some x) (bs.map fun (b : Byte × Bool) => b.1)

/-- What a device read of the byte does at its home before it proceeds: a half the host holds EM is snooped and goes
to S (R379); the line enters the LLC; a host half is fetched (R381). -/
def State.readTouch (s : State) (l0 : Loc) : State :=
  let l := s.fwd l0
  match l.sp with
  | .phys =>
    let h := halfOf l.a
    let s := if s.dirOf h == some .m then ((s.mergeHalf h).setDir h (some .s)).exchange .snpData (halfLoc h) (some .m) (some .s) (s.hostHalf h) else s
    s.llcFill l
  | .fmt | .tier1 => s.llcFill l
  | .host => s.bridgeFetch (halfOf l.a)
  | _ => s

/-- What a device write of the byte does at its home first: a half the host holds is invalidated, modified data merged
(R379); a host half is obtained for writing (R381). -/
def State.writeTouch (s : State) (l0 : Loc) : State :=
  let l := s.fwd l0
  match l.sp with
  | .phys =>
    let h := halfOf l.a
    let s := match s.dirOf h with
      | some .m => ((s.mergeHalf h).setDir h none).exchange .snpInv (halfLoc h) (some .m) none (s.hostHalf h)
      | some x => (s.setDir h none).exchange .snpInv (halfLoc h) (some x) none
      | none => s
    s.llcFill l
  | .fmt | .tier1 => s.llcFill l
  | .host => let h := halfOf l.a; (s.bridgeFetch h).setBridge h (some .m)
  | _ => s

/-- An engine reads n bytes of HBM from `a`: halves there that the host holds EM are snooped (R379). -/
def State.engTouch (s : State) (a n : Nat) : State :=
  (List.range ((a % 64 + n + 63) / 64)).foldl (fun s i =>
    let l : Loc := ⟨.phys, a / 64 * 64 + 64 * i⟩
    if s.dirOf (halfOf (s.fwd l).a) == some .m then s.readTouch l else s) s

/-- Host-held halves of a line go to I before a memory-side operation (R380). -/
def State.recall (s : State) (l0 : Loc) : State :=
  let l := (s.fwd l0).line
  (List.range 2).foldl (fun s i =>
    let h := halfOf l.a + i
    match s.dirOf h with
    | some .m => ((s.mergeHalf h).setDir h none).exchange .snpInv (halfLoc h) (some .m) none (s.hostHalf h)
    | some x => (s.setDir h none).exchange .snpInv (halfLoc h) (some x) none
    | none => s) s

/-- Perform a write of one byte at its home (R182). A store to a formatted page with W = 1 changes its decoded line in the LLC
and is lost once that line is evicted: the spec gives it no place in the stored image (R159). DESIGN CHOICE, log 111. -/
def State.homePut (s0 : State) (l0 : Loc) (b : Byte) (p : Bool := false) : State :=
  let s := s0.writeTouch l0
  let l := s.fwd l0
  match l.sp with
  | .phys | .fmt | .tier1 => (s.putRaw ⟨.llc, l.tagged⟩ b p).llcDirty l 1
  | .host => s.putRaw ⟨.bridge, l.a⟩ b p
  | _ => s.putRaw l b p

def State.homePuts (s : State) (l : Loc) (bs : List (Byte × Bool)) : State :=
  (bs.foldl (fun (p : State × Nat) b => (p.1.homePut (l.plus p.2) b.1 b.2, p.2 + 1)) (s, 0)).1

/-- Does a device access to the byte need a back-invalidation that a host request in flight meets? Then it is not
performed until the retry (R382). -/
def State.snoopBlocked (s : State) (l0 : Loc) (write : Bool) : Bool :=
  let l := s.fwd l0
  match l.sp with
  | .phys =>
    let h := halfOf l.a
    let d := s.dirOf h
    (d == some .m || (write && d.isSome)) && s.hostReqs.any fun r => r.1 == h
  | _ => false

/-- May a device write every byte of a 64 KiB page of HBM now: no request of the host for a half of it that the host holds is in
flight, here or where the page moves to (R382)? -/
def State.pageFree (s : State) (pg : Nat) : Bool :=
  let ns := pg / 65536 :: (s.moves.filter fun m => m.src == pg / 65536).map (·.dst)
  s.hostReqs.all fun r => !(ns.contains (r.1 / 1024) && (s.dirOf r.1).isSome)

/-! ## Page tables and translation -/

/-- The tag of an address (R149). -/
def tagOf (a : Addr) : Byte := (a >>> 64).setWidth 8

/-- What an access asks of a page (R151). -/
inductive Perm where
  | r
  | w
  | rw
  | x
  deriving DecidableEq, Repr, Inhabited

/-- n bytes from a physical HBM address: no bits above 40, offsets within the stack's 128 × 10^9 bytes (R152). -/
def hbmOk (pa n : Nat) : Bool := pa + n ≤ 2 ^ 41 && pa % 2 ^ 37 + n ≤ 128000000000

/-- The partition that owns an address: the owner of its 512 MiB slice where a move gave it one, else the partition of
the die (R399, R403). An access to a slice that was moved into a stack of another partition is served although every bridge
between may be closed (R12): the spec does not say how it gets there. DESIGN CHOICE, log 90. -/
def State.partOf (s : State) (pa : Nat) : Option Nat :=
  match s.owners.find? fun o => o.1 == pa / 2 ^ 29 with
  | some o => some o.2
  | none => s.partitions.findIdx? fun p => p.contains (pa / 2 ^ 38 % 8)

/-- The address belongs to the device's partition (R399). -/
def State.inPart (s : State) (d pa : Nat) : Bool := s.partOf pa == some (s.vd d).part

/-- The 8 bytes of a table entry, read at the home (R150). Their mark of an uncorrectable error is ignored: R148 speaks of loads
and engines only. DESIGN CHOICE, log 112. -/
def State.load64 (s : State) (pa : Nat) : Nat := natOf ((s.homeBytes ⟨.phys, pa⟩ 8).map (·.1))

/-- PA of an entry: bits 53:7 in place (R151). -/
def ptePa (e : Nat) : Nat := field e 7 47 * 128

/-- Bytes of a formatted page's image: its elements, then its own scale stream (R159). -/
def State.imageLen (s : State) (tier : Bool) (pa : Nat) (r : RangeEnt) : Nat :=
  let c := r.ctl.toNat
  let ne := 65536 / dfmtBytes (field c 10 2)
  let el := efmtBytes (field c 1 4) ne
  let nb := ne / (16 * 2 ^ field c 7 3)
  el + if field c 5 2 = 1 then
      (polzenLen nb (Num.nibbles ((s.image (if tier then .tier1 else .phys) pa el (nb * 3 / 2 + 2)).map (·.1))) + 1) / 2
    else 0

/-- The leaf checks of R150, R152 and R159: the walk raises XLATE where one fails. -/
def State.leafOk (s : State) (tag : Byte) (lvl e : Nat) : Bool :=
  let tier := field e 6 1 = 1
  let fe := field e 54 1 = 1
  let ms := field e 5 1 = 1
  let pa := ptePa e
  lvl < 2 && !(tier && tag != 0x01) && !(ms && (tier || fe))
    && !(lvl = 1 && (fe || pa % 2 ^ 29 ≠ 0)) && !(lvl = 0 && !fe && pa % 65536 ≠ 0)
    && (tier || tag == 0xF0 || hbmOk pa (if fe then 128 else if lvl = 1 then 2 ^ 29 else 65536))
    && (!fe || match s.rangeEnt (if tier then none else some (pa / 2 ^ 37)) (field e 55 4) with
      | none => false
      | some r =>
        let n := s.imageLen tier pa r
        r.ok && field r.base.toNat 7 47 * 128 ≤ pa && pa + n ≤ field r.limit.toNat 7 47 * 128 && (tier || hbmOk pa n))

/-- The walk of R150: the levels are indexed 3, 2, 1, 0; none is XLATE. -/
def State.walk (s : State) (d : Nat) (tag : Byte) (off : Nat) : List (Nat × Nat × Nat) → Nat → Option (Nat × Nat)
  | [], _ => none
  | (lvl, lo, n) :: rest, table =>
    let e := s.load64 (table + field off lo n * 8)
    if field e 0 1 = 0 ∨ field e 59 5 ≠ 0 then none
    else if field e 1 1 = 1 then (if s.leafOk tag lvl e then some (lvl, e) else none)
    else if lvl = 0 ∨ ptePa e % 65536 ≠ 0 ∨ field e 2 5 ≠ 0 ∨ field e 54 1 ≠ 0
      ∨ !(hbmOk (ptePa e) 65536 && s.inPart d (ptePa e)) then none
    else s.walk d tag off rest (ptePa e)

def levels : List (Nat × Nat × Nat) := [(3, 55, 9), (2, 42, 13), (1, 29, 13), (0, 16, 13)]

/-- The root of a tag's table and its generation (R150, R154). -/
def State.rootOf (s : State) (d : Nat) (tag : Byte) : Option Root := (s.vd d).roots.find? fun r => r.tag == tag

/-- The entry of a TLB for an offset, of the root's generation. -/
def State.tlbHit (s : State) (h : TlbOf) (d : Nat) (tag : Byte) (gen off : Nat) : Option TlbEnt :=
  s.tlb.find? fun t => t.tlb == h && t.vd == d && t.tag == tag && t.gen == gen
    && t.page == (if t.big then off / 2 ^ 29 else off / 2 ^ 16)

/-- The leaf for an offset: from the core's TLB or its cluster's when one holds it under the root's generation, else from a
walk, which no table of another partition serves (R152, R400). Before an invalidation of a changed entry an access may use
the old translation or the new one (R154); the model uses the old one as long as a TLB holds it. DESIGN CHOICE, log 88. -/
def State.leaf (s : State) (core d : Nat) (tag : Byte) (off : Nat) : Option (Nat × Nat) :=
  match s.rootOf d tag with
  | none => none
  | some rt =>
    match (s.tlbHit (.core core) d tag rt.gen off).or (s.tlbHit (.cluster (core / 4)) d tag rt.gen off) with
    | some t => some (if t.big then 1 else 0, t.pte.toNat)
    | none => if s.inPart d rt.root then s.walk d tag off levels rt.root else none

/-- The place a leaf gives, in the home's space; formatted pages have their decoded lines as home (R159). -/
def leafPlace (tag : Byte) (lvl e off : Nat) : Loc :=
  let o := if lvl = 1 then off % 2 ^ 29 else off % 2 ^ 16
  let tier := field e 6 1
  if field e 54 1 = 1 then ⟨.fmt, ((tier * 16 + field e 55 4) * 2 ^ 54 + ptePa e) * 2 ^ 16 + o⟩
  else if tag == 0xF0 then ⟨.host, ptePa e + o⟩
  else if tier = 1 then ⟨.tier1, ptePa e + o⟩
  else ⟨.phys, ptePa e + o⟩

/-- The host has granted a window that holds n bytes from an address (R152, R376). -/
def State.inWindow (s : State) (a n : Nat) : Bool := s.windows.any fun x => x.1 ≤ a && a + n ≤ x.2

/-- Step 6 of R153 for a leaf: permission, partition, host-access windows. Tier 1 is read in granted windows only (R376), and
a formatted page reads its whole image; that such an access raises PROT, as for tag 0xF0 (R152), is the model's choice: log
89. -/
def State.leafAllows (s : State) (d : Nat) (tag : Byte) (p : Perm) (lvl e off : Nat) : Bool :=
  let r := field e 2 1 = 1
  let w := field e 3 1 = 1
  let l := leafPlace tag lvl e off
  (match p with
    | .r => r
    | .w => w && tag != 0x01
    | .rw => r && w && tag != 0x01
    | .x => field e 4 1 = 1)
  && (match l.sp with
    | .phys => s.inPart d l.a
    | .fmt => if field e 6 1 = 1
      then s.inWindow (ptePa e) (match s.rangeEnt none (field e 55 4) with | some r => s.imageLen true (ptePa e) r | none => 1)
      else s.inPart d (ptePa e)
    | .host | .tier1 => s.inWindow l.a 1
    | _ => true)

/-- The die of another partition whose memory a walk reaches for: the root table, or one a pointer names (R152, R399). -/
def State.strayWalk (s : State) (d : Nat) (off : Nat) : List (Nat × Nat × Nat) → Nat → Option Nat
  | [], _ => none
  | (lvl, lo, n) :: rest, table =>
    if !s.inPart d table then (if hbmOk table (if lvl = 3 then 4096 else 65536) then some (table / 2 ^ 38) else none)
    else
      let e := s.load64 (table + field off lo n * 8)
      if field e 0 1 = 0 ∨ field e 59 5 ≠ 0 ∨ field e 1 1 = 1 ∨ lvl = 0 ∨ ptePa e % 65536 ≠ 0 ∨ field e 2 5 ≠ 0
          ∨ field e 54 1 ≠ 0
      then none
      else s.strayWalk d off rest (ptePa e)

/-- The die of another partition that an access of the device to this address would go to: for a table of its walk, or for its
page (R399). -/
def State.foreign? (s : State) (core d : Nat) (a : Addr) : Option Nat :=
  let tag := tagOf a
  let off := a.toNat % 2 ^ 64
  match s.leaf core d tag off with
  | some (lvl, e) =>
    let l := leafPlace tag lvl e off
    let pa := if l.sp == .fmt then ptePa e else l.a
    if (l.sp == .phys || (l.sp == .fmt && field e 6 1 = 0)) && !s.inPart d pa then some (pa / 2 ^ 38) else none
  | none => match s.rootOf d tag with
    | some rt => s.strayWalk d off levels rt.root
    | none => none

/-- Translate one address of a global access of a wave, steps 3, 5 and 6 of R153. The lane-private window is translated
after its interleave (R157); peer tags are not translated here (R163). -/
def State.translate (s : State) (core d : Nat) (win : Nat) (lane : Nat) (a : Addr) (p : Perm) : Except Byte Place :=
  let tag : Byte := (a >>> 64).setWidth 8
  let off := a.toNat % 2 ^ 64
  if tag == 0x00 || tag == 0x01 || tag == 0xF0 then
    match s.leaf core d tag off with
    | none => .error cXLATE
    | some (lvl, e) =>
      if s.leafAllows d tag p lvl e off
      then .ok (.homed (leafPlace tag lvl e off) (tag == 0x00 && field e 5 1 == 1)) else .error cPROT
  else if tag == 0x02 then
    if 2 ^ 18 ≤ off then .error cXLATE
    else
      let k := off / 4 * 128 + 4 * lane + off % 4
      match s.leaf core d tag (2 ^ 23 * win + k) with
      | none => .error cXLATE
      | some (lvl, e) =>
        if s.leafAllows d tag p lvl e (2 ^ 23 * win + k) then .ok (.lane k) else .error cPROT
  else if 0x10 ≤ tag.toNat ∧ tag.toNat ≤ 0x1F then
    if ((s.vd d).peers.getD (tag.toNat - 0x10) 0).getLsbD 0
    then .ok (.peer (tag.toNat - 0x10) (BitVec.ofNat 64 off)) else .error cTAG
  else .error cTAG

/-- A TLB takes an entry, first; with `cap` entries it loses its oldest one. The spec does not say which entry goes: the
model's choice, log 88. -/
def tlbPut (l : List TlbEnt) (t : TlbEnt) (cap : Nat) : List TlbEnt :=
  if l.contains t then l
  else t :: (l.filter fun x => x.tlb == t.tlb).take (cap - 1) ++ l.filter fun x => x.tlb != t.tlb

/-- The core's TLB and its cluster's keep the leaf an access used: 4,096 and 32,768 entries (R154). -/
def State.tlbFill (s : State) (core d : Nat) (tag : Byte) (off : Nat) : State :=
  match s.rootOf d tag, s.leaf core d tag off with
  | some rt, some (lvl, e) =>
    let t (h : TlbOf) : TlbEnt :=
      ⟨h, d, tag, if lvl = 1 then off / 2 ^ 29 else off / 2 ^ 16, lvl == 1, rt.gen, BitVec.ofNat 64 e⟩
    { s with tlb := tlbPut (tlbPut s.tlb (t (.cluster (core / 4))) 32768) (t (.core core)) 4096 }
  | _, _ => s

/-! ## Local memory -/

/-- The SRAM byte behind a local address of a gang: LOCAL where the address is out of range, the bank not held, or not
in SCRATCH mode (R155, R432). -/
def Gang.localLoc (g : Gang) (off : Nat) : Option Loc :=
  let b := off / 2 ^ 17
  let bk := g.banks.getD b {}
  if off < 2 ^ 22 && b < g.banks.length && bk.mode == .scratch
  then some ⟨.sram, ((g.die * 20 + g.cluster) * 32 + bk.phys) * 2 ^ 17 + off % 2 ^ 17⟩ else none

/-! ## Fetch -/

/-- The instruction cache of a core drops the sectors that `p` selects. -/
def State.dropSectors (s : State) (core : Nat) (p : Loc → Bool) : State :=
  let t := (s.sectors.filter fun x => x.1 == core && p x.2).foldl (fun s x => s.zero ⟨.ic core, x.2.tagged⟩ 32) s
  { t with sectors := t.sectors.filter fun x => !(x.1 == core && p x.2) }

/-- An instruction cache holds 128 KiB, 1,024 lines (R13, R147): a full one drops a line for a new one; which is free. -/
def State.icRoom (s : State) (core : Nat) (line : Loc) : State :=
  let ls := ((s.sectors.filter fun x => x.1 == core).map fun x => x.2.line).eraseDups
  if ls.length < 1024 || ls.contains line then s
  else
    let (n, t) := s.victim ls.length
    t.dropSectors core fun l => some l.line == ls[n]?

/-- The core's instruction cache keeps the sector it fetched from. -/
def State.fillSector (s0 : State) (core : Nat) (l0 : Loc) : State :=
  let l : Loc := ⟨l0.sp, l0.a / 32 * 32⟩
  if s0.sectors.contains (core, l) then s0
  else
    let s := s0.icRoom core l.line
    { s.putRaws ⟨.ic core, l.tagged⟩ (s.homeBytes l 32) with sectors := (core, l) :: s.sectors }

/-- The wave fetches a sector and executes its bytes as they then are until its own FENCEI, whole: the core's copy, or, where
that may be older than memory, the home's bytes of now, which is free (R49, R173). -/
def State.viewSector (s0 : State) (w core : Nat) (l0 : Loc) : State :=
  let l : Loc := ⟨l0.sp, l0.a / 32 * 32⟩
  if s0.views.contains (w, l) then s0
  else
    let s := if !s0.sectors.contains (core, l) then s0.fillSector core l
      else
        let s := { s0 with free := s0.free + 1 }
        if Config.freeBit s0.free then s else (s.dropSectors core (· == l)).fillSector core l
    { s.putRaws ⟨.iv w, l.tagged⟩ (s.raws ⟨.ic core, l.tagged⟩ 32) with views := (w, l) :: s.views }

/-- A wave forgets the sectors it has fetched (R173). -/
def State.dropViews (s : State) (w : Nat) : State :=
  { s.zero ⟨.iv w, 0⟩ (2 ^ 128) with views := s.views.filter fun x => x.1 != w }

/-- An instruction byte as the wave has fetched it. Its mark of an uncorrectable error is ignored: R148 speaks of loads and
engines only. DESIGN CHOICE, log 112. -/
def State.codeByte (s : State) (w : Nat) (l : Loc) : Byte := (s.raw ⟨.iv w, l.tagged⟩).1

/-- Where one instruction byte at `pc` stands. -/
def State.fetchByte (s : State) (w : Wave) (d : Nat) (pc : DWord) : Except Byte Loc :=
  match s.translate w.coreNo d w.win 0 (BitVec.ofNat 72 pc.toNat) .x with
  | .error c => .error c
  | .ok (.homed l _) => .ok l
  | .ok _ => .error cPROT

/-- Fetch the instruction at `pc` for wave number n: its bytes and the state with the sectors fetched, or the cause and the
first faulting address (R47). -/
def State.fetch (s : State) (n d : Nat) (pc : DWord) : Except (Byte × DWord) (List Byte × State) :=
  let w := s.wave n
  let one (s : State) (a : DWord) : Except (Byte × DWord) (Byte × State) :=
    match s.fetchByte w d a with
    | .error c => .error (c, a)
    | .ok l =>
      let t := s.viewSector n w.coreNo l
      .ok (t.codeByte n l, t.tlbFill w.coreNo d 0 a.toNat)
  do
    let (b0, s) ← one s pc
    let (b1, s) ← one s (pc + 1)
    if b0.toNat % 2 = 0 then .ok ([b0, b1], s)
    else
      let (b2, s) ← one s (pc + 2)
      let (b3, s) ← one s (pc + 3)
      .ok ([b0, b1, b2, b3], s)

end Sys2Proof.Machine
end

