-- ==== Sys2Proof/Machine/Units.lean ====
section
/-! DEFINITION. The units behind the instructions: event queues (R396, R397), the task tables (R261, R262), pins, the
search fabric and the reclaim actions (R315-R321), KV pages (R275) and node sets (R308). -/
namespace Sys2Proof.Machine

/-- One number over the package for a tile of a partition. The 16 physical tiles are numbered with room to spare, so
that a workgroup's run is always consecutive (R208). -/
def tileNoOf (part phys : Nat) : Nat := part * 128 + phys

/-! ## Event queues -/

/-- An event queue entry of 32 bytes (R396). -/
def eqEntry (kind code slot seq val1 val2 time : Nat) : List Byte :=
  bytesOf 1 kind ++ bytesOf 1 code ++ bytesOf 2 slot ++ bytesOf 4 seq ++ bytesOf 8 val1 ++ bytesOf 8 val2
    ++ bytesOf 8 time

/-- An entry as it is appended: TIME is that of the moment (R396). -/
def stamped (e : List Byte) (now : Nat) : List Byte := e.take 24 ++ bytesOf 8 now

/-- Entries between RD and WR, modulo 2,048 (R395). -/
def eqCount (wr rd : Nat) : Nat := (wr + 2048 - rd) % 2048

/-- Write an entry into VD d's queue and advance EQ.WR; the MSI-X message when the queue was empty (R378, R396). -/
def State.eqWrite (s : State) (d : Nat) (e : List Byte) : State :=
  let v := s.vd d
  let s := s.putRaws ⟨.cmd d, 0x20 * (v.eqwr % 1024)⟩ ((stamped e s.time).map fun b => (b, false))
  let s := if v.eqwr = v.eqrd then { s with msix := s.msix ++ [d] } else s
  s.modVd d fun v => { v with eqwr := (v.eqwr + 1) % 2048 }

/-- Append a completion or report; it is held in order while the queue is full (R227). -/
def State.eqAppend (s : State) (d : Nat) (e : List Byte) : State :=
  let v := s.vd d
  if eqCount v.eqwr v.eqrd < 1024 && v.eqHeld.isEmpty then s.eqWrite d e
  else s.modVd d fun v => { v with eqHeld := v.eqHeld ++ [e] }

/-- Entries held enter the queue as room allows. -/
def State.eqFlush (s : State) (d : Nat) : Nat → State
  | 0 => s
  | n + 1 =>
    match (s.vd d).eqHeld with
    | e :: r =>
      if eqCount (s.vd d).eqwr (s.vd d).eqrd < 1024
      then ((s.modVd d fun v => { v with eqHeld := r }).eqWrite d e).eqFlush d n else s
    | [] => s

/-- Append a supervisor report to the PF's queue; none in recovery (R396, R397). -/
def State.pfAppend (s : State) (e : List Byte) : State :=
  if s.recovery then s
  else if eqCount s.pfWr s.pfRd < 1024 && s.pfHeld.isEmpty then
    let s := s.putRaws ⟨.cmd 64, 0x20 * (s.pfWr % 1024)⟩ ((stamped e s.time).map fun b => (b, false))
    let s := if s.pfWr = s.pfRd then { s with msix := s.msix ++ [64] } else s
    { s with pfWr := (s.pfWr + 1) % 2048 }
  else { s with pfHeld := s.pfHeld ++ [e] }

/-! ## Peer slots -/

/-- The link that carries a peer slot is down (R389, R393). -/
def State.slotDown (s : State) (d slot : Nat) : Bool :=
  (s.links.getD (field ((s.vd d).peers.getD slot 0).toNat 22 5) {}).down

/-- An access on the slot fails: the link is down, or the peer does not translate it, which the part does not determine
(R163, R390, R393). -/
def State.slotFails (s : State) (d slot k : Nat) : Bool := s.slotDown d slot || Config.freeBit k

/-- WID (R98). -/
def Wave.wid (w : Wave) : Nat :=
  w.slot + w.part * 2 ^ 4 + w.core * 2 ^ 6 + w.cluster * 2 ^ 8 + w.die * 2 ^ 13 + w.wgslot * 2 ^ 16

/-- A fabric access error of a wave: link down, or a failure at the peer (R163, R390, R393, R396). `store`: it dropped a
store, which is another way to say it. -/
def State.faberr (s : State) (w slot : Nat) (store : Bool) (a : Addr) : State :=
  let d := (s.gang (s.wave w).gang).vd
  let code := if s.slotDown d slot then 2 else if store && Config.freeBit s.free then 0 else 1
  { s with free := s.free + 1 }.eqAppend d (eqEntry 5 code slot 0 (a.toNat % 2 ^ 64) (s.wave w).wid s.time)

/-! ## Task tables -/

def State.task (s : State) (die idx : Nat) : Task :=
  (s.tasks.find? fun t => t.die == die && t.idx == idx).getD { die := die, idx := idx }

def State.setTask (s : State) (t : Task) : State :=
  { s with tasks := t :: s.tasks.filter fun u => !(u.die == t.die && u.idx == t.idx) }

/-- A record becomes READY and joins its die's ready list, last (R262). -/
def State.readyTask (s : State) (t : Task) : State :=
  ({ s with seq := s.seq + 1 }).setTask { t with st := .ready, since := s.seq }

/-- DEP −= 1; READY when it reaches 0. -/
def State.decDep (s : State) (die idx : Nat) : State :=
  let t := s.task die idx
  let t' := { t with dep := t.dep - 1 }
  if t'.dep = 0 && t.st == .waiting then s.readyTask t' else s.setTask t'

/-- The record becomes FREE and its GEN advances (R262). -/
def State.freeTask (s : State) (t : Task) : State :=
  s.setTask { die := t.die, idx := t.idx, gen := t.gen + 1 }

/-- Complete a task as TASKDONE does: successors in SUCC order, then the record is freed (R266). -/
def State.finishTask (s : State) (t : Task) : State :=
  (t.succ.foldl (fun s i => s.decDep t.die i) s).freeTask t

/-- The lowest-indexed FREE record of a die, if there is one (R263). -/
def State.freeRecord (s : State) (die : Nat) : Option Nat :=
  let used := (s.tasks.filter fun t => t.die == die && t.st != .free).map (·.idx)
  (List.range (used.length + 1)).find? fun i => i < 65536 && !used.contains i

/-- The die's slot for a launch: the one its records there name, else the lowest that no other launch's name. Which is
free the spec does not say. DESIGN CHOICE, log 96. -/
def State.launchSlot (s : State) (die launch : Nat) : Byte :=
  let held := s.tasks.filter fun t => t.die == die && t.st != .free
  match held.find? fun t => t.launch == launch with
  | some t => t.lslot
  | none => BitVec.ofNat 8 (((List.range 256).find? fun i => !(held.any fun t => t.lslot.toNat == i)).getD 0)

/-- A new record for type `typ` (absolute) of a launch, with `n` predecessors (R263). -/
def State.newTask (s : State) (die idx typ launch n : Nat) (xyz : DWord) (role : Option Nat) : State :=
  let ty := ((s.vd (s.launch launch).vd).types.getD typ 0).toNat
  let t : Task := { s.task die idx with
    typ := typ, launch := launch, lslot := s.launchSlot die launch
    tx := BitVec.ofNat 16 (field xyz.toNat 0 16), ty := BitVec.ofNat 16 (field xyz.toNat 16 16)
    tz := BitVec.ofNat 16 (field xyz.toNat 32 16), dep := n, succ := [], rrole := role.isSome
    role := role.getD (field ty 64 2), holder := none }
  if n = 0 then s.readyTask t else s.setTask { t with st := .waiting }

/-- A task handle (R262). -/
def Task.handle (t : Task) : Nat := t.idx + t.gen.toNat * 2 ^ 16 + t.die * 2 ^ 28 + 2 ^ 31

/-- The record a live handle names (R262). -/
def State.liveTask (s : State) (h : DWord) : Option Task :=
  let x := h.toNat
  let t := s.task (field x 28 3) (field x 0 16)
  if x < 2 ^ 32 && field x 31 1 = 1 && field x 16 12 = t.gen.toNat && t.st != .free then some t else none

/-! ## Pins, searches and reclaim -/

/-- A gang whose workgroups are resident: its pins stand in the CAMs (R316). -/
def Gang.placed (g : Gang) : Bool := match g.st with | .imaged | .retired => false | _ => true

/-- Does some pin register or overflow entry of the device hold the name (R316)? Searches are one step here. -/
def State.pinned (s : State) (d : Nat) (n : DWord) : Bool :=
  s.gangs.any (fun g => g.vd == d && g.placed && g.wgs.any fun w => w.pins.contains n)
    || (s.vd d).ovf.any fun e => e.name == n

/-- The bucket of a name: the exclusive or of its bytes (R320). -/
def bucketOf (n : DWord) : Nat := ((List.range 8).foldl (fun a i => a ^^^ field n.toNat (8 * i) 8) 0)

/-- A name is released: its bucket is to be rechecked (R321). -/
def State.release (s : State) (d : Nat) (n : DWord) : State :=
  if n = 0 then s else s.modVd d fun v => { v with recheck := v.recheck ++ [n] }

/-- Where an engine of the device finds a byte of tag-0x00 memory, by a walk of its own. -/
def State.engLoc (s : State) (d : Nat) (off : Nat) (p : Perm) : Option Loc :=
  match s.translate engineCore d 0 0 (BitVec.ofNat 72 off) p with
  | .ok (.homed l _) => some l
  | _ => none

/-! ## Homes and leases; the RING action (R181, R319) -/

/-- A valid RING entry: the logarithm of its size and its base. RBASE is a multiple of 128; an entry with a reserved value
acts as NONE (R318). DEDUCED, log 83. -/
def ringEntry (e : BitVec 128) : Option (Nat × Nat) :=
  let x := e.toNat
  if field x 0 3 = 1 && field x 3 5 = 0 && field x 13 3 = 0 && field x 24 40 = 0 && field x 8 5 ≤ 24 && field x 64 7 = 0
  then some (field x 8 5, field x 64 64) else none

/-- Where the RING action of an entry would write now: the count's word, the slot's word, the count. -/
def State.ringAt (s : State) (d act : Nat) : Option (Loc × Loc × Nat) :=
  match ringEntry ((s.vd d).actions.getD act 0) with
  | none => none
  | some (n, base) => match s.engLoc d base .rw with
    | none => none
    | some l =>
      let t := natOf ((s.homeBytes l 8).map (·.1))
      (s.engLoc d (base + 16 + 8 * (t % 2 ^ n)) .rw).map fun m => (l, m, t)

/-- The homes may perform the action: the leases on both lines have passed (R181). -/
def State.ringFree (s : State) (r : Loc × Loc × Nat) : Bool :=
  [r.1, r.2.1].all fun l => s.leasesPast engineCore l.line && !s.busy l && !s.snoopBlocked l true

/-- The homes hold a RING action that waits for the line's leases: they grant no new one (R181). -/
def State.ringHolds (s : State) (line : Loc) : Bool :=
  (List.range 64).any fun d => (s.vd d).rings.any fun r => match s.ringAt d r.act with
    | some (l, m, _) => l.line == line || m.line == line
    | none => false

/-- Where the slot records of a die's continuous-batching table stand (R271). -/
def State.btSlot (s : State) (d die slot : Nat) : Option Nat :=
  ((s.vd d).btbase.find? fun b => b.1 == die).map fun b => b.2.toNat + 32 * slot

/-- The places of a slot's 32 bytes, for writing. -/
def State.btLocs (s : State) (d die slot : Nat) : Option (List Loc) :=
  match s.btSlot d die slot with
  | some a => (List.range 32).mapM fun i => s.engLoc d (a + i) .rw
  | none => none

/-- The homes may perform a steal engine's access to the slot: the leases on its lines have passed (R181, R182). -/
def State.btFree (s : State) (d die slot : Nat) : Bool :=
  match s.btLocs d die slot with
  | some ls => ls.all fun l => s.leasesPast engineCore l.line && !s.busy l && !s.snoopBlocked l true
  | none => true

/-- The homes hold a steal's access that waits for the line's leases: they grant no new one (R181). -/
def State.stealHolds (s : State) (line : Loc) : Bool :=
  s.steals.any fun t => [(t.from_, t.fromSlot), (t.die, t.slot)].any fun p =>
    ((s.btLocs t.vd p.1 p.2).getD []).any fun l => l.line == line

/-- A word written at its home. -/
def State.putHome64 (s : State) (l : Loc) (v : Nat) : State :=
  let t := s.homePuts l ((bytesOf 8 v).map fun b => (b, false))
  t.setHome { t.home l.line with lastStore := some s.time }

/-- The RING action in one step (R319). -/
def State.ringPut (s : State) (r : Loc × Loc × Nat) (arg : DWord) : State :=
  (s.putHome64 r.2.1 arg.toNat).putHome64 r.1 (r.2.2 + 1)

/-- A RING action that waited is performed once its leases have passed; one whose ring can no longer be reached is
dropped. -/
def State.ringTurn (s : State) (d : Nat) : State :=
  (s.vd d).rings.foldl (fun s r =>
    let gone (s : State) : State := s.modVd d fun v => { v with rings := v.rings.erase r }
    match s.ringAt d r.act with
    | none => gone s
    | some x => if s.ringFree x then gone (s.ringPut x r.arg) else s) s

/-- The action of an entry of the reclaim action table on its argument (R318, R319). A RING action is performed at once, or
waits for the leases on its lines; `op` is the operation whose delivery waits for it (R326). -/
def State.tableAction (s : State) (d act : Nat) (arg : DWord) (launch die : Nat) (op : Option Nat := none) : State :=
  let e := ((s.vd d).actions.getD act 0).toNat
  match field e 0 3 with
  | 1 => match s.ringAt d act with
    | none => s
    | some r => if s.ringFree r then s.ringPut r arg else s.modVd d fun v => { v with rings := v.rings ++ [⟨act, arg, op⟩] }
  | 2 =>
    if field e 3 5 = 0 && field e 13 3 = 0 && field e 24 40 = 0 && field e 8 5 ≤ 24 then
      match s.freeRecord die with
      | some i =>
        if (s.launch launch).done then s.modVd d fun v => { v with reclaimLoss := v.reclaimLoss + 1 }
        else s.newTask die i (field e 16 8) launch 0 arg none
      | none => s.modVd d fun v => { v with reclaimLoss := v.reclaimLoss + 1 }
    else s
  | _ => s

/-- Perform a reclaim action (R275, R308, R319). -/
def State.reclaim (s : State) (d : Nat) (a : Reclaim) (op : Option Nat := none) : State :=
  match a with
  | .table act arg launch die => s.tableAction d act arg launch die op
  | .pages ps => s.modVd d fun v => { v with pool := v.pool ++ ps }
  | .nodes t is => s.modVd d fun v =>
    { v with trees := v.trees.map fun p => if p.1 = t
        then (p.1, { p.2 with nodes := p.2.nodes.filter fun n => !is.contains n.1 }) else p }

/-- Outcome of a reclaim request (R326). -/
inductive Freed where
  | freed
  | deferred
  | full
  deriving DecidableEq, Repr, Inhabited

/-- A reclaim request: act at once when nothing pins the name, else queue it, else refuse it (R320, R326). -/
def State.request (s : State) (d : Nat) (n : DWord) (a : Reclaim) : Freed × State :=
  if !s.pinned d n then (.freed, s.reclaim d a (some s.seq))
  else if ((s.vd d).deferred.filter fun e => bucketOf e.name = bucketOf n).length < 16
    then (.deferred, s.modVd d fun v => { v with deferred := v.deferred ++ [⟨n, a⟩] })
  else (.full, s)

/-- Recheck entries, oldest first: one whose search returns NONE has its action performed and is removed (R321). -/
def State.recheck (s : State) (d : Nat) (b : Option Nat) : State :=
  (s.vd d).deferred.foldl (fun s e =>
    if (b.isNone || b == some (bucketOf e.name)) && !s.pinned d e.name
    then (s.modVd d fun v => { v with deferred := v.deferred.erase e }).reclaim d e.act else s) s

/-- The groomer works for a device that is not lodged (R321, R405). -/
def Vd.grooms (v : Vd) : Bool := v.live && v.lodge < 2

/-- The groomer answers the oldest release. -/
def State.groom (s : State) (d : Nat) : State :=
  match (s.vd d).recheck with
  | [] => s
  | n :: r =>
    if (s.vd d).grooms then (s.modVd d fun v => { v with recheck := r }).recheck d (some (bucketOf n)) else s

/-! ## Operations in flight -/

def State.op? (s : State) (id : Nat) : Option Op := s.flight.find? fun o => o.id == id

def State.dropOp (s : State) (id : Nat) : State := { s with flight := s.flight.filter fun o => o.id != id }

def State.setOp (s : State) (o : Op) : State :=
  { s with flight := s.flight.map fun p => if p.id == o.id then o else p }

/-- Where an operation's result goes. -/
def Op.dst (o : Op) : Dst :=
  match o.kind with
  | .load _ d .. => d
  | .atomic _ _ _ d .. => d
  | .value d .. => d
  | .svalue d _ => d
  | .sfu _ _ d .. => d
  | .rkacq _ _ _ _ d => d
  | .rksnap _ _ _ _ _ d => d
  | .slalom _ _ d => d
  | .deposit _ r _ _ _ => .vec .wave r 1
  | _ => .none

/-- A result bound for a queue port. -/
def Op.toPort (o : Op) : Bool := match o.dst with | .port _ => true | _ => false

/-- The outstanding-operation counter of a class (R340): what a rewind or a rollback leaves in flight counts on. -/
def State.counter (s : State) (w cls : Nat) : Nat :=
  (s.flight.filter fun o => o.wave == w && o.cls == some cls).length

/-- WAITC classes (R340). -/
def kST : Nat := 0
def kAT : Nat := 1
def kMX : Nat := 2
def kCP : Nat := 3
def kMS : Nat := 4
def kCM : Nat := 5
def kRK : Nat := 6
def kSL : Nat := 7

/-- An instruction that would raise a counter past 4,095 waits to issue (R340). -/
def State.room (s : State) (cls : Nat) : Act Unit := waitFor (s.counter s.cur.wave cls < 4095)

/-- The operations in flight that come before the unit in its fragment's program order (R190). -/
def State.prior (s : State) : List Nat :=
  (s.flight.filter fun o => o.wave == s.cur.wave && o.owners.contains s.cur.frag).map (·.id)

/-- The hint of the unit (R168). -/
def State.hint (s : State) : Nat :=
  match s.cur.pfx with
  | some (.hint h) => h.toNat
  | _ => 0

/-- Enter an operation of the unit in hand; its name is the next place in issue order. -/
def State.launchOp (s : State) (cls : Option Nat) (k : OpKind) (ord : Order := .weak) (mask : BitVec 5 := 0)
    (entry : Nat := 0) : State :=
  let f := if s.cw.handling then [] else [s.cur.frag]
  let o : Op := { id := s.seq, wave := s.cur.wave, gang := s.cw.gang, gen := s.cw.gen, owners := [s.cur.frag]
                  after := s.prior, sfr := f
                  core := s.cw.coreNo, cls := cls, ord := ord, mask := mask, hint := s.hint, entry := entry, code := s.cur.code
                  kind := k }
  { s with seq := s.seq + 1, flight := s.flight ++ [o] }

/-- Engine commands: those that a kill or an engine fault discards (R357, R358). Maintenance issued before a fault stands
(R411). -/
def OpKind.isEngine : OpKind → Bool
  | .copy .. => true
  | .mx .. => true
  | .msv _ => true
  | _ => false

end Sys2Proof.Machine
end

