-- ==== Sys2Proof/Machine/Ops.lean ====
section
/-! DEFINITION. The shared operations over the machine: the end of a wave, a gang and a launch (R18, R258), killing a
gang (R357), taking a precise fault (R353) and returning from it (R369), and how a meaning ends. -/
namespace Sys2Proof.Machine

/-! ## The end of waves, gangs and launches -/

/-- Lane-private lines of a wave are dropped without write-back (R157). -/
def State.dropPrivate (s : State) (w : Nat) : State :=
  { (s.zero ⟨.priv w, 0⟩ (2 ^ 40)).zero ⟨.privWb w, 0⟩ (2 ^ 40) with
    privHeld := s.privHeld.filter fun p => p.wave != w }

/-- Banks that close because the last wave of role `r` has ended: those to which a wave of the role has bound a port and for
which a binding has named the role (R232). Results still on their way from those waves to a port come first (R236). -/
def State.closeByRole (s : State) (g r : Nat) : State :=
  let ws := (s.gang g).wgs.flatMap fun w => if w.role = r then w.waves else []
  if ws.all (fun w => (s.wave w).mode == .ended) && !(s.flight.any fun o => ws.contains o.wave && o.toPort) then
    let shut (b : Bank) : Bank := if b.named.contains r && b.boundBy.contains r then { b with closed := true } else b
    s.modGang g fun x => { x with banks := x.banks.map shut }
  else s

/-- Every role that a binding of the gang has named may have ended (R232). -/
def State.closeRoles (s : State) (g : Nat) : State :=
  ((s.gang g).banks.flatMap (·.named)).eraseDups.foldl (fun s r => s.closeByRole g r) s

/-- The tasks that an ended wave still holds are completed as by TASKDONE, which is a release: once its accesses have been
performed (R266, R267). -/
def State.endTasks (s : State) (w : Nat) : State :=
  if s.flight.any fun o => o.wave == w && (o.isAccess || o.isBackup) then s
  else (s.tasks.filter fun t => t.st == .running && t.holder == some w).foldl (fun s t => s.finishTask (s.task t.die t.idx)) s

/-- A wave ends (R18): its extended block, lane-private lines and fetched sectors go, its pending SFU results are discarded (R124), the
tasks it holds are completed (R266), and a bank its role keeps open may close (R232). -/
def State.endWave (s : State) (w : Nat) : State :=
  let wv := s.wave w
  if wv.mode == .ended then s
  else
    let s := s.modWave w fun x => { x with mode := .ended, xbh := 0, frags := List.replicate 8 {}, fragArr := [] }
    let s := { s with flight := s.flight.filter fun o =>
      !(o.wave == w && match o.kind with | .sfu .. => true | .rkacq .. | .rksnap .. => true | _ => false)
                      latches := s.latches.filter fun e => e.wave != w }
    (((s.endTasks w).dropPrivate w).dropViews w).closeByRole wv.gang wv.role

/-- Write a launch's completion entry (R258, R396). -/
def State.completeLaunch (s : State) (l : Nat) (status : Nat) : State :=
  let x := s.launch l
  if x.done then s
  else
    let s := s.modLaunch l fun x => { x with done := true }
    let s := (s.tasks.filter fun t => t.launch == l && (t.st == .waiting || t.st == .ready)).foldl
      (fun s t => s.freeTask t) s
    s.eqAppend x.vd (eqEntry 1 status (x.stream + (if x.dev then 256 else 0)) x.seq.toNat x.block.event.toNat 0 s.time)

/-- The waves of a gang. -/
def Gang.waves (g : Gang) : List Nat := g.wgs.flatMap (·.waves)

/-- A matrix operation in flight, whichever gang issued it, reads a bank of the gang (R213). -/
def State.banksRead (s : State) (g : Nat) : Bool :=
  let gg := s.gang g
  let mine (l : Loc) : Bool := l.sp == .sram && gg.banks.any fun b =>
    l.a / 2 ^ 17 == (gg.die * 20 + gg.cluster) * 32 + b.phys
  let inRegion (r : Region) : Bool := (r.rows.flatten ++ r.scales).any fun p =>
    match p with | .direct l => mine l | _ => false
  s.flight.any fun o => match o.kind with
    | .mx k _ _ _ => match k with
      | .mma _ _ _ a b _ _ => inRegion a || inRegion b
      | .mldt _ _ r => inRegion r
      | .mstt _ _ r => inRegion r
      | .mscale _ _ r => inRegion r
      | _ => false
    | _ => false

/-- A wave of the gang that has ended still holds a task, whose completion waits for its accesses (R266). -/
def State.holdsTask (s : State) (g : Nat) : Bool :=
  s.tasks.any fun t => t.st == .running && t.holder.any (s.gang g).waves.contains

/-- Is engine work of the gang outstanding, a store or maintenance of it, or a matrix read of its banks (R142, R156, R213)? -/
def State.gangBusy (s : State) (g : Nat) : Bool :=
  (s.flight.any fun o => o.gang == g && (o.kind.isEngine || o.isStore || o.isMaint)) || s.banksRead g

/-- Zero the banks and tiles a gang holds. -/
def State.freePlace (s : State) (g : Nat) : State :=
  let gg := s.gang g
  let s := gg.banks.foldl (fun s b => s.zero ⟨.sram, ((gg.die * 20 + gg.cluster) * 32 + b.phys) * 2 ^ 17⟩ (2 ^ 17)) s
  gg.wgs.foldl (fun s w => (List.range 4).foldl (fun s p =>
    s.zero ⟨.tile, tileNoOf (coreNo gg.die gg.cluster w.core * 4 + p) w.tileBase * 16384⟩ (w.tiles * 16384)) s) s

/-- The gang ends with its overrun: the device's next slice is the shorter by it (R367, R402). -/
def State.shorten (s : State) (g : Nat) : State :=
  let gg := s.gang g
  match gg.warned, gg.preempt with
  | true, some t => s.modVd gg.vd fun v => { v with short := max v.short (s.time - t) }
  | _, _ => s

/-- A gang whose waves have all ended retires once its engine work is done and the tasks of its waves are completed: its
banks and tiles are zeroed, its pins released (R156, R266, R315), and its launch may complete (R258). Its workgroups keep
their slots and tiles until then, though one of them has ended: the spec gives the retirement of a gang alone (R33, R208).
DESIGN CHOICE, log 115. -/
def State.retireGang (s : State) (g : Nat) : State :=
  let gg := s.gang g
  if gg.st == .retired || gg.st == .imaged || !(gg.waves.all fun w => (s.wave w).mode == .ended) || s.gangBusy g
      || s.holdsTask g then s
  else
    let s := (s.shorten g).freePlace g
    let s := (gg.wgs.flatMap (·.pins)).foldl (fun s n => s.release gg.vd n)
      (s.modGang g fun x => { x with st := .retired, wgs := x.wgs.map fun w => { w with pins := List.replicate 8 0 } })
    let s := s.modLaunch gg.launch fun l => { l with retired := l.retired + 1 }
    let l := s.launch gg.launch
    if l.retired = l.block.ngangs then s.completeLaunch gg.launch (if l.killed then 3 else 0) else s

/-- A pre-emption request reaches a gang (R44, R365). A VXACQ or a TASKGET that waits is withdrawn: if its wave runs forward,
it asks again when it comes to it (R132, R228, R265). -/
def State.askPreempt (s : State) (g : Nat) : State :=
  let s := s.modGang g fun x => { x with ovf := false, preempt := some s.time, warned := false }
  (s.gang g).waves.foldl (fun s w => s.modWave w fun x =>
    let asked := x.frags.any fun f => match f.park with | .vx _ => true | _ => false
    { x with
      xbh := if asked then x.xbh &&& 15 else x.xbh
      frags := x.frags.map fun f => match f.park with | .vx _ | .task => { f with park := .none } | _ => f }) s

/-- The gang's entries leave the overflow store, their names released or not; a pre-emption that found no room there is
requested again (R317). -/
def State.ovfFree (s : State) (g : Nat) (drop : Bool) : State :=
  let d := (s.gang g).vd
  let mine := (s.vd d).ovf.filter fun e => e.gang == g
  if mine.isEmpty then s
  else
    let s := s.modVd d fun v => { v with ovf := v.ovf.filter fun e => e.gang != g }
    let s := if drop then mine.foldl (fun s e => s.release d e.name) s else s
    ((List.range s.gangs.length).filter fun i => (s.gang i).vd == d && (s.gang i).ovf).foldl (fun s i => s.askPreempt i) s

/-- Kill a gang (R357): every wave ends, its engine commands are discarded, and the KILL entry is written. -/
def State.killGang (s : State) (g : Nat) (cause : Byte) (addr : Addr) (epc : DWord) : State :=
  let gg := s.gang g
  if gg.st == .retired then s
  else
    let s := gg.waves.foldl (fun s w => s.endWave w) s
    let s := { s with flight := s.flight.filter fun o => !(o.gang == g && o.kind.isEngine)
                      colls := s.colls.filter fun c => s.flight.any fun o => o.id == c.op && o.gang != g }
    let l := s.launch gg.launch
    let s := s.modLaunch gg.launch fun l => { l with killed := true }
    let s := if gg.st == .imaged then (s.ovfFree g true).modGang g fun x => { x with
        st := .resident, banks := [], wgs := x.wgs.map fun w => { w with tiles := 0 } } else s
    let s := (s.shorten g).modGang g fun x => { x with preempt := none, halted := none, ovf := false }
    s.eqAppend gg.vd (eqEntry 4 cause.toNat (l.stream + addr.toNat / 2 ^ 64 * 256) gg.index (addr.toNat % 2 ^ 64)
      epc.toNat s.time)

/-- A supervisor report of kind 4, with VDID in VAL2 bits 29:24 (R396). -/
def State.report (s : State) (g w : Nat) (cause : Byte) (addr : Addr) : State :=
  let gg := s.gang g
  s.pfAppend (eqEntry 4 cause.toNat ((s.launch gg.launch).stream + addr.toNat / 2 ^ 64 * 256) gg.index
    (addr.toNat % 2 ^ 64) (gg.vd * 2 ^ 24 + (s.wave w).wid) s.time)

/-- A gang-level fault (R358): every wave stops, its engine commands are discarded, the supervisor is told. -/
def State.engineFault (s : State) (g w : Nat) : State :=
  let gg := s.gang g
  if gg.st == .retired then s
  else
    let s := gg.waves.foldl (fun s w => s.modWave w fun x =>
      { x with trapc := BitVec.ofNat 17 (cENGINE.toNat + 2 ^ 16) }) s
    let s := { s with flight := s.flight.filter fun o => !(o.gang == g && o.kind.isEngine)
                      colls := s.colls.filter fun c => s.flight.any fun o => o.id == c.op && o.gang != g }
    (s.modGang g fun x => { x with st := .engine }).report g w cENGINE 0

/-! ## Taking and leaving a trap -/

/-- How a fault is routed. -/
inductive Route where
  | kill
  | handler (pc : DWord)
  | super
  deriving DecidableEq, Repr, Inhabited

/-- The route of a cause: fixed for KVDRY, and for BKPT and WATCH while dmt is attached; else the vector entry's
(R351, R352). -/
def Vd.route (v : Vd) (c : Byte) : Route :=
  if c = cKVDRY || (v.dmt && (c = cBKPT || c = cWATCH)) then .super
  else
    let e := (v.vectors.getD c.toNat 0).toNat
    match field e 64 2 with
    | 1 => .handler (BitVec.ofNat 64 (field e 0 64))
    | 2 => .super
    | _ => .kill

/-- TRAPC of a precise fault (R98). -/
def trapcOf (c : Byte) (lanes : Word) (frag : Nat) : BitVec 17 :=
  BitVec.ofNat 17 (c.toNat + (if lanes = 0 then 0 else lowest lanes) * 2 ^ 8 + frag * 2 ^ 13)

/-- The scalar an election wrote is as it was: the unit has not issued (R9, R144). -/
def State.unelect (s : State) : State :=
  match s.cur.undo with
  | some (r, x) => s.modS r fun _ => x
  | none => s

/-- The bridges of the route between two C-dies: first along the row, then across the column (R12), as the firewall registers
number them: 0-2 and 3-5 the rows', 6-9 the columns'. -/
def route (a b : Nat) : List Nat :=
  let ca := a % 4
  let cb := b % 4
  let row := if ca ≤ cb then (List.range (cb - ca)).map fun i => a / 4 * 3 + ca + i
    else (List.range (ca - cb)).map fun i => a / 4 * 3 + ca - 1 - i
  row ++ if a / 4 = b / 4 then [] else [6 + cb]

/-- No bridge of the route between two dies is closed (R12). -/
def State.reaches (s : State) (a b : Nat) : Bool :=
  (route a b).all fun i => (s.firewall.getD i ⟨true, false, 0, 0⟩).opened

/-- A request of a die for another partition's die is refused at the first closed bridge of its route, which counts it,
saturating (R400). -/
def State.drops (s : State) (a b : Nat) : State :=
  match (route a b).find? fun i => !(s.firewall.getD i ⟨true, false, 0, 0⟩).opened with
  | some i => { s with firewall := s.firewall.modify i fun f => { f with drops := if f.drops = 255 then 255 else f.drops + 1 } }
  | none => s

/-- An access of the unit that faults with XLATE or PROT because a table or a page of it lies in another partition was
refused at the bridge that closes its route (R399, R400). DEDUCED, log 98. -/
def State.refused (s : State) (t : Trap) : State :=
  if t.cause != cXLATE && t.cause != cPROT then s
  else
    let off := t.addr.toNat % 2 ^ 64
    let a : Addr := if tagOf t.addr == 0x02
      then BitVec.ofNat 72 (2 * 2 ^ 64 + 2 ^ 23 * s.cw.win + off / 4 * 128 + 4 * lowest t.lanes + off % 4) else t.addr
    match s.foreign? s.cw.coreNo s.cg.vd a with
    | some die => s.drops s.cw.die die
    | none => s

/-- Take a precise fault of the unit in hand (R353): the election of the unit is undone (R9), the trap registers are
written, EPC is the address of the unit, or the one after it for TRAP, and the route decides. -/
def State.takeTrap (s0 : State) (t : Trap) : State :=
  let s := s0.unelect
  let epc := if t.after then s.cur.nxt else s.cur.start
  let f := s.cur.frag
  let w := s.cw
  let s := s.issued.refused t
  if w.handling || w.mode == .recompute then s.killGang w.gang t.cause t.addr epc
  else
    let s := s.modCw fun x => { (x.modFrag f fun g => { g with epc := epc }) with
      trapc := trapcOf t.cause t.lanes f, trapa := t.addr, trapl := t.lanes }
    match s.cv.route t.cause with
    | .kill => s.killGang w.gang t.cause t.addr epc
    | .handler pc => s.modCw fun x => { x with mode := .handler f, hpc := pc }
    | .super => (s.modCw fun x => { x with mode := .suspended f s.time }).report w.gang s.cur.wave t.cause t.addr

/-- Leave a handler, a suspension or recompute code: fragment F, or the fragment `cur` that executes the RETT of the recompute
code, goes on at EPC, and every fragment issues again (R356, R369). -/
def Wave.resume (w : Wave) (cur : Nat) : Wave :=
  match w.mode with
  | .handler f | .suspended f _ => { w.modFrag f fun g => { g with pc := g.epc } with mode := .run }
  | .recompute => { w.modFrag cur fun g => { g with pc := g.epc } with mode := .run }
  | _ => w

/-! ## How a meaning ends -/

/-- An instruction whose meaning is done, waits, or faults: always a next state. -/
def finish (s : State) (r : Act State) : Host.Outcome State Fault Refusal :=
  match r with
  | .ok s' => .next s'
  | .error .wait => .next { s with cur := { s.cur with stalled := true, opened := false } }
  | .error (.keep s') => .next { s'.unelect with cur := { s'.cur with opened := false } }
  | .error (.trap s' t) => .next (s'.takeTrap t)

/-- A meaning that ends at the next instruction. -/
def finishDone (s : State) (r : Act State) : Host.Outcome State Fault Refusal :=
  finish s (r.map State.done)

end Sys2Proof.Machine
end

