-- ==== Sys2Proof/Machine/Operands.lean ====
section
/-! DEFINITION. Operand forms: immediates and their extension (R57), the shared execution of vector instructions with
their waits, faults, ports and REP (R54, R100-R102), and the order and observers of an access (R54, R189). -/
namespace Sys2Proof.Machine

/-! ## Immediates (R57) -/

/-- The IMMX payload of the unit, if any. -/
def State.payload (s : State) : Option (BitVec 21) :=
  match s.cur.pfx with
  | some (.immx p) => some p
  | _ => none

/-- imm7 of VI, 28 bits with IMMX, sign-extended. -/
def State.immVI (s : State) (i : BitVec 7) : Word :=
  match s.payload with
  | some p => (p ++ i).signExtend 32
  | none => i.signExtend 32

/-- imm7 of VI, zero-extended. -/
def State.immVIz (s : State) (i : BitVec 7) : Word :=
  match s.payload with
  | some p => (p ++ i).setWidth 32
  | none => i.setWidth 32

/-- imm10 of SI, 31 bits with IMMX, sign-extended. -/
def State.immSI (s : State) (i : BitVec 10) : DWord :=
  match s.payload with
  | some p => (p ++ i).signExtend 64
  | none => i.signExtend 64

def State.immSIz (s : State) (i : BitVec 10) : DWord :=
  match s.payload with
  | some p => (p ++ i).setWidth 64
  | none => i.setWidth 64

/-- imm16 of SL, 37 bits with IMMX. -/
def State.immSL (s : State) (i : BitVec 16) : DWord :=
  match s.payload with
  | some p => (p ++ i).signExtend 64
  | none => i.signExtend 64

def State.immSLz (s : State) (i : BitVec 16) : DWord :=
  match s.payload with
  | some p => (p ++ i).setWidth 64
  | none => i.setWidth 64

/-- imm16 of VL: 32 bits {payload[15:0], imm16} with IMMX, else `d` (R109). -/
def State.immVL (s : State) (i : BitVec 16) (d : Word) : Word :=
  match s.payload with
  | some p => (p.setWidth 16 ++ i : BitVec 32)
  | none => d

/-- imm7 of Y, 28 bits with IMMX, zero-extended (R54, R57). -/
def State.immY (s : State) (i : BitVec 7) : Nat :=
  match s.payload with
  | some p => (p ++ i).toNat
  | none => i.toNat

/-! ## Vector execution (R100) -/

/-- The registers a vector instruction reads and writes: a source is a register number with its T bit. -/
structure VSpec where
  vd : Nat
  va : Option (Nat × Bool) := none
  vb : Option (Nat × Bool) := none
  /-- vd is a source as well -/
  d : Bool := false
  deriving Repr

/-- The sources in the order in which they are read: va, vb, then vd (R100). -/
def VSpec.srcs (p : VSpec) : List (Nat × Bool) := p.va.toList ++ p.vb.toList ++ (if p.d then [(p.vd, false)] else [])

def VSpec.regs (p : VSpec) : List Nat := p.vd :: (p.va.toList ++ p.vb.toList).map (·.1)

/-- The waits of the sources whose T bit (as given) is `t`; `seen`: the sources before, whose ports pop first. Two sources
that name one port need two entries before either pops: R231 leaves it open whether va's pop might come first. DESIGN
CHOICE, log 85. -/
def State.srcsReady (s : State) (t : Bool) : List (Nat × Bool) → List Nat → Act Unit
  | [], _ => .ok ()
  | (r, b) :: rest, seen => do
    if b = t then s.srcReady r b (seen.countP (· == r)) else .ok ()
    s.srcsReady t rest (r :: seen)

/-- Read the sources; ports pop now, in order. -/
def State.takeSrcs (s : State) : List Nat → List VReg × State
  | [] => ([], s)
  | r :: rest =>
    let (v, s) := s.takeSrc r
    let (vs, s) := s.takeSrcs rest
    (v :: vs, s)

/-- The first source whose pop raises QCLOSED, by its place among the sources, and TRAPA (R231). -/
def State.firstShut (s : State) : List Nat → List Nat → Option (Nat × Addr)
  | [], _ => none
  | r :: rest, seen => match s.shut r (seen.countP (· == r)) with
    | some a => some (seen.length, a)
    | none => s.firstShut rest (r :: seen)

/-- The state that a fault of source i finds: when it is vb (`two`: the second source is vb), va's pop stands; otherwise
nothing has changed (R9, R231, R355). -/
def State.stands (s : State) (srcs : List Nat) (two : Bool) (i : Nat) : State :=
  if two && i == 1 then (s.takeSrc (srcs.headD 0)).2 else s

/-- Take the sources that are ready: QCLOSED where a pop finds nothing, then POISON in the lanes of `act` (R100). -/
def State.popSrcs (s : State) (act : Word) (srcs : List Nat) (two : Bool) : Act (List VReg × State) :=
  match s.firstShut srcs [] with
  | some (i, a) => fault (s.stands srcs two i) cQCLOSED a
  | none =>
    let (vs, s') := s.takeSrcs srcs
    match poisonedAt act vs with
    | some i => fault (s.stands srcs two i) cPOISON (BitVec.ofNat 72 (srcs.getD i 0))
    | none => .ok (vs, s')

/-- Wait for and read the sources of a vector instruction, and check the lanes in `act` for poison (R100). -/
def State.readSrcs (s : State) (act : Word) (srcs : List (Nat × Bool)) (two : Bool) : Act (List VReg × State) := do
  s.srcsReady false srcs []
  s.srcsReady true srcs []
  s.popSrcs act (srcs.map (·.1)) two

/-- Claim the sources of a memory instruction: as readSrcs without T bits, but no fault pops anything (R231). -/
def State.claim (s : State) (act : Word) (srcs : List Nat) : Act (List VReg × State) := s.popSrcs act srcs false

/-- The values of A, B and D among the sources read. -/
def VSpec.pick (p : VSpec) (vs : List VReg) : VReg × VReg × VReg :=
  let a := if p.va.isSome then vs.headD {} else {}
  let r := if p.va.isSome then vs.tail else vs
  let b := if p.vb.isSome then r.headD {} else {}
  let r := if p.vb.isSome then r.tail else r
  (a, b, r.headD {})

/-- The second source is vb. -/
def VSpec.two (p : VSpec) : Bool := p.va.isSome && p.vb.isSome

/-- One repetition: read, compute in the active lanes, write (R100). A full destination port waits, and an unbound one
raises QCLOSED, before the sources are looked at: the spec gives no order between the two. DESIGN CHOICE, log 86. -/
def State.vround (s : State) (p : VSpec) (act : Word) (op : Word → Word → Word → Word) : Act State := do
  s.dstReady p.vd
  let (vs, s) ← s.readSrcs act p.srcs p.two
  let (a, b, d) := p.pick vs
  .ok (s.writeV p.vd act fun l => op (a.lane l) (b.lane l) (d.lane l))

/-- The registers of repetition i under REP (R54). -/
def VSpec.step (p : VSpec) (sa sb : Bool) (stride i : Nat) : VSpec :=
  { p with vd := p.vd + i * stride
           va := if sa then p.va.map fun x => (x.1 + i * stride, x.2) else p.va
           vb := if sb then p.vb.map fun x => (x.1 + i * stride, x.2) else p.vb }

/-- The repetitions of a unit in turn; a fault leaves the earlier ones in place (R100). -/
def State.vreps (s : State) (act : Word) (op : Word → Word → Word → Word) : List VSpec → Act State
  | [] => .ok s
  | p :: ps => do
    let s ← s.vround p act op
    s.vreps act op ps

/-- A vector instruction: the register checks, then one repetition, or those of its REP prefix (R54, R100). -/
def State.vexec (s : State) (p : VSpec) (act : Word) (op : Word → Word → Word → Word) : Act State :=
  match s.cur.pfx with
  | some (.rep stepB stepA stride cnt) => do
    let ps := (List.range (cnt.toNat + 1)).map (p.step (stepA == 1) (stepB == 1) (stride.toNat + 1))
    need ((ps.flatMap VSpec.regs).all (· < 56)) s cILL
    (ps.flatMap VSpec.regs).forM s.checkV
    (ps.flatMap VSpec.srcs).forM fun x => if x.2 then .ok () else s.srcReady x.1 false
    s.vreps act op ps
  | _ => do
    p.regs.forM s.checkV
    s.vround p act op

/-- A vector instruction whose result goes to a predicate: the result bit in active lanes, 0 in the other lanes of the
lane set (R97, R105). -/
def State.kexec (s : State) (kd : Nat) (srcs : List (Nat × Bool)) (act : Word) (op : Word → Word → Bool) :
    Act State := do
  need (!s.cw.handling) s cILL
  (srcs.map (·.1)).forM s.checkV
  let (vs, s) ← s.readSrcs act srcs true
  let a := vs.headD {}
  let b := vs.tail.headD {}
  s.writeK kd s.laneSet (mask32 fun l => act.getLsbD l && op (a.lane l) (b.lane l))

/-! The operand forms of formats V and VI. -/

def specVF (f : VF) (d : Bool := false) : VSpec :=
  ⟨f.vd.toNat, some (f.va.toNat, f.ta == 1), some (f.vb.toNat, f.tb == 1), d⟩
def specVDot (f : VDot) : VSpec :=
  ⟨f.vd.toNat, some (f.va.toNat, f.ta == 1), some (f.vb.toNat, f.tb == 1), true⟩
def specVU (f : VU) : VSpec := ⟨f.vd.toNat, some (f.va.toNat, f.ta == 1), none, false⟩
def specVI (f : VI) : VSpec := ⟨f.vd.toNat, some (f.va.toNat, f.ta == 1), none, false⟩
def cregVF (f : CReg) : VF := ⟨0, 0, 0, 0, f.vs.setWidth 6, f.vd, f.vd⟩

/-- Two sources, each lane apart (R104, R110, R112). -/
def State.vbin (s : State) (f : VF) (op : Word → Word → Word) : Act State :=
  (s.vexec (specVF f) (s.active f.kp) fun a b _ => op a b).map (·.latchVa f.h f.va)

/-- Two sources and vd as the third (VMAD and the fused forms). -/
def State.vtri (s : State) (f : VF) (op : Word → Word → Word → Word) : Act State :=
  (s.vexec (specVF f true) (s.active f.kp) op).map (·.latchVa f.h f.va)

/-- One source. -/
def State.vuna (s : State) (f : VU) (op : Word → Word) : Act State :=
  (s.vexec (specVU f) (s.active f.kp) fun a _ _ => op a).map (·.latchVa f.h f.va)

/-- One source and an immediate (R107). -/
def State.vimm (s : State) (f : VI) (op : Word → Word) : Act State :=
  (s.vexec (specVI f) (s.active f.kp) fun a _ _ => op a).map (·.latchVa f.h f.va)

/-- A compare of two sources (R105, R111). -/
def State.vcmp (s : State) (f : VF) (op : Word → Word → Bool) : Act State :=
  (s.kexec f.vd.toNat [(f.va.toNat, f.ta == 1), (f.vb.toNat, f.tb == 1)] (s.active f.kp) op).map (·.latchVa f.h f.va)

/-- A compare with an immediate (R108). -/
def State.vcmpi (s : State) (f : VI) (op : Word → Bool) : Act State :=
  (s.kexec f.vd.toNat [(f.va.toNat, f.ta == 1)] (s.active f.kp) fun a _ => op a).map (·.latchVa f.h f.va)

/-- Results of the fragment go to its own registers, or to the trap bank in a handler (R124). -/
def State.rbank (s : State) : RBank := if s.cw.handling then .trap else .wave

/-! ## Long-latency results -/

/-- Where a vector result of the unit goes: its registers, or a port. -/
def State.vdst (s : State) (r n : Nat) : Dst := if 56 ≤ r then .port r else .vec s.rbank r n

/-- Mark the destination registers EMPTY (R93). -/
def State.emptyV (s : State) (r n : Nat) : State :=
  if 56 ≤ r then s.commitMark
  else (List.range n).foldl (fun s i => s.modV (r + i) fun x => { x with empty := true }) s

/-- Mark a scalar destination EMPTY; register 0 stays 0 (R93). -/
def State.emptyS (s : State) (r : Nat) : State := s.modS r fun x => { x with st := .empty }

/-- Where a scalar result goes; nowhere for register 0. -/
def State.sdst (s : State) (r n : Nat) : Dst := if r = 0 ∧ n = 1 then .none else .scl s.rbank r n

/-! ## Orders and observers -/

/-- An OBS order code (R54). -/
def orderOf (o : BitVec 3) : Order :=
  match o.toNat with
  | 0 => .weak
  | 1 => .x
  | 2 => .acq
  | 3 => .rel
  | 4 => .ar
  | _ => .sc

def Order.acquires : Order → Bool
  | .acq | .ar | .sc => true
  | _ => false
def Order.releases : Order → Bool
  | .rel | .ar | .sc => true
  | _ => false

/-- Default observers and order (R98). -/
def Wave.obsMask (w : Wave) : BitVec 5 := w.obsd.setWidth 5
def Wave.obsOrd (w : Wave) : Order := orderOf ((w.obsd >>> 5).setWidth 3)

/-- Order and mask of a load or store: from OBS, or from the M ord field with OBSD's mask (R52, R54, R189). -/
def State.orderM (s : State) (ord : BitVec 2) : Order × BitVec 5 :=
  match s.cur.pfx with
  | some (.obs o m) => (orderOf o, m)
  | _ => match ord.toNat with
    | 0 => (.weak, 0)
    | 1 => (.x, s.cw.obsMask)
    | 2 => (.acq, s.cw.obsMask)
    | _ => (.rel, s.cw.obsMask)

/-- An MS instruction is weak without OBS (R167). -/
def State.orderMS (s : State) : Order × BitVec 5 := s.orderM 0

/-- Order and mask of an A instruction (R196). -/
def State.orderA (s : State) (ord : BitVec 2) : Order × BitVec 5 :=
  match s.cur.pfx with
  | some (.obs o m) => (orderOf o, m)
  | _ => match ord.toNat with
    | 0 => (.x, s.cw.obsMask)
    | 1 => (.acq, s.cw.obsMask)
    | 2 => (.rel, s.cw.obsMask)
    | _ => (.ar, s.cw.obsMask)

/-- Order and mask of SATOM: from OBS, else both from OBSD (R200). -/
def State.orderS (s : State) : Order × BitVec 5 :=
  match s.cur.pfx with
  | some (.obs o m) => (orderOf o, m)
  | _ => (s.cw.obsOrd, s.cw.obsMask)

/-- The role of a ROLE prefix. -/
def State.rolePfx (s : State) : Option Nat :=
  match s.cur.pfx with
  | some (.role r) => some r.toNat
  | _ => none

end Sys2Proof.Machine
end

