-- ==== Sys2Proof/Machine/Flags.lean ====
section
/-! DEFINITION. Result bits: the tests of compares and branches (R105, R108, R111, R120, R136), votes (R129), and the
flags of STAT (R98). -/
namespace Sys2Proof.Machine

def ltS {w : Nat} (a b : BitVec w) : Bool := a.slt b
def leS {w : Nat} (a b : BitVec w) : Bool := a.sle b
def ltZ {w : Nat} (a b : BitVec w) : Bool := a.ult b
def leZ {w : Nat} (a b : BitVec w) : Bool := a.ule b

/-- f32 tests: the first three are false when an operand is NaN; -0 equals +0 (R111). -/
def fEq (a b : Word) : Bool := (Num.vf a).eq (Num.vf b)
def fLt (a b : Word) : Bool := (Num.vf a).lt (Num.vf b)
def fLe (a b : Word) : Bool := fLt a b || fEq a b
def fUn (a b : Word) : Bool := Num.isNan Num.f32 a.toNat || Num.isNan Num.f32 b.toNat

/-- STAT bits (R98): 0 DRY, 1 RNGSAT, 2 QERR. -/
def statDRY : BitVec 3 := 1
def statRNGSAT : BitVec 3 := 2
def statQERR : BitVec 3 := 4

def State.setStat (s : State) (b : BitVec 3) : State := s.modCw fun w => { w with stat := w.stat ||| b }

/-- When a branch of major 0x1E is taken, on a scalar (R136). -/
def takenZ (v : DWord) : Bool := v == 0
def takenNZ (v : DWord) : Bool := v != 0
def takenLZ (v : DWord) : Bool := v.msb
def takenGEZ (v : DWord) : Bool := !v.msb

/-- When a branch of major 0x1E is taken, on a predicate k and the fragment's EXM m (R136). -/
def takenKAny (k m : Word) : Bool := (k &&& m) != 0
def takenKAll (k m : Word) : Bool := m != 0 && (m &&& ~~~ k) == 0
def takenKNone (k m : Word) : Bool := (k &&& m) == 0

end Sys2Proof.Machine
end

