-- ==== Sys2Proof/Machine/Frags.lean ====
section
/-! DEFINITION. Fragments and what follows from their coming and going: carving (R22), merging (R26), ending (R27),
named-barrier arrivals (R29, R330-R332) and the checkpoint a completed generation makes (R359, R360). -/
namespace Sys2Proof.Machine

/-! ## Branching -/

/-- The fragment goes on at `t`. -/
def State.goto (s : State) (t : DWord) : State := (s.setPc t).issued

/-- PC-relative target of a branch or jump: a signed count of halfwords (R136, R138). -/
def State.target {n : Nat} (s : State) (disp : BitVec n) : DWord := s.cur.pc + disp.signExtend 64 * 2

/-! ## Carving -/

/-- The next carve epoch: neither 0 nor the epoch of an open group (R21). -/
def Wave.nextEpoch (w : Wave) : Nat :=
  let used := 0 :: w.frags.flatMap fun f => if f.live then f.joins.map (·.epoch) else []
  ((List.range 200).map fun i => (w.epoch + 1 + i) % 65536).find? (fun e => !used.contains e) |>.getD 0

/-- The lowest free fragment number (R21). -/
def Wave.freeFrag (w : Wave) : Nat := ((List.range 8).find? fun f => !(w.frags.getD f {}).live).getD 8

/-- Detach the lanes `det` of fragment f as a new fragment (R21, R22, R137): the keeper goes on at `pcKeep` with EXM
`keep`, the new one at `pcDet`. The new fragment's number is freeFrag. Where f has arrived on a barrier for which the wave's
arrival does not count yet, so has the new one: the spec does not say. DESIGN CHOICE, log 93. -/
def Wave.carve (w : Wave) (f : Nat) (det keep : Word) (pcDet pcKeep : DWord) : Wave :=
  let k := w.frags.getD f {}
  let e := w.nextEpoch
  let n := w.freeFrag
  let k' := { k with lanes := k.lanes &&& ~~~ det, exm := keep, pc := pcKeep, depth := k.depth + 1
                     joins := ⟨k.depth + 1, e, true⟩ :: k.joins }
  let d := { k with lanes := det, exm := det, pc := pcDet, depth := k.depth + 1
                    joins := ⟨k.depth + 1, e, false⟩ :: k.joins.map fun j => { j with keeper := false } }
  { w with epoch := e, frags := (w.frags.set f k').set n d
           fragArr := w.fragArr.map fun p => if p.2.getLsbD f then (p.1, p.2 ||| (1#8 <<< n)) else p }

/-- Operations of the keeper before a carve belong to both fragments' program order, and their scalar results go to
both (R20, R190). -/
def State.carveOps (s : State) (w f n : Nat) : State :=
  { s with flight := s.flight.map fun o => if o.wave == w then
      { o with owners := if o.owners.contains f then n :: o.owners else o.owners
               sfr := if o.sfr.contains f then n :: o.sfr else o.sfr } else o }

def State.carve (s : State) (w f : Nat) (det keep : Word) (pcDet pcKeep : DWord) : State :=
  (s.carveOps w f (s.wave w).freeFrag).modWave w fun x => x.carve f det keep pcDet pcKeep

/-! ## Named barriers -/

def Wg.barOf (g : Wg) (b : Nat) : Option Nat := (List.range 3).find? fun i =>
  let n := g.bars.getD i {}
  n.bound && n.num == b

def State.modWg (s : State) (g i : Nat) (f : Wg → Wg) : State :=
  s.modGang g fun x => { x with wgs := x.wgs.modify i f }

def State.modBar (s : State) (g i p : Nat) (f : Nbar → Nbar) : State :=
  s.modWg g i fun x => { x with bars := x.bars.modify p f }

/-- The waves of a workgroup forget their arrivals on b. -/
def State.clearArr (s : State) (g i b : Nat) : State :=
  ((s.gang g).wgs.getD i {}).waves.foldl (fun s v => s.modWave v fun y =>
    { y with arrs := y.arrs.filter fun a => a.num != b }) s

/-- Bind b to the lowest free physical barrier (R331). -/
def State.bindBar (s : State) (g i b count : Nat) : Option State :=
  let w := (s.gang g).wgs.getD i {}
  match (List.range 3).find? fun p => !(w.bars.getD p {}).bound with
  | none => none
  | some p => some ((s.modBar g i p fun n => { n with count := 0, expect := count, num := b, bound := true }).clearArr g i b)

/-- ARRGEN and ARR of a wave on b. -/
def Wave.arrOf (w : Wave) (b : Nat) : Option Arrival := w.arrs.find? fun a => a.num == b

def Wave.setArr (w : Wave) (a : Arrival) : Wave := { w with arrs := a :: w.arrs.filter fun x => x.num != a.num }

/-- Every live fragment of every wave of the gang is parked in NBARSYNC or NBARWAIT, a handler's or recompute code's too, and no
engine work of the gang is outstanding (R359). -/
def State.quiet (s : State) (g : Nat) : Bool :=
  (s.gang g).waves.all (fun w => match (s.wave w).mode with
    | .ended => true
    | .stopped _ => false
    | _ => (s.wave w).frags.all fun f => !f.live || match f.park with | .nbar _ => true | _ => false)
  && !(s.flight.any fun o => o.gang == g && (o.cls == some kMX || o.cls == some kMS || o.cls == some kCM
    || o.cls == some kCP))

/-- The wave's arrival on b is registered; a full count completes the generation, which makes a checkpoint when the
gang is quiet (R332, R359). -/
def State.register (s : State) (w b : Nat) : State :=
  let x := s.wave w
  match ((s.gang x.gang).wgs.getD x.wg {}).barOf b with
  | none => s
  | some p =>
    let bar := (((s.gang x.gang).wgs.getD x.wg {}).bars.getD p {})
    let s := s.modWave w fun y => { y.setArr ⟨b, bar.gen, true⟩ with fragArr := y.fragArr.filter fun q => q.1 != b }
    if bar.count + 1 = bar.expect then
      let s := s.modBar x.gang x.wg p fun n => { n with count := 0, gen := (n.gen + 1) % 65536 }
      let ws := ((s.gang x.gang).wgs.getD x.wg {}).waves
      let s := ws.foldl (fun s v => s.modWave v fun y =>
        { y with arrs := y.arrs.map fun a => if a.num = b then { a with opened := false } else a }) s
      if s.quiet x.gang then s.modGang x.gang fun g => { g with ckptDue := true, committed := false } else s
    else s.modBar x.gang x.wg p fun n => { n with count := n.count + 1 }

/-- Register the arrivals on which every live fragment of the wave has now arrived (R29). -/
def State.registerAll (s : State) (w : Nat) : State :=
  (s.wave w).fragArr.foldl (fun s q =>
    if (s.wave w).liveFrags.all fun f => q.2.getLsbD f then s.register w q.1 else s) s

/-- A fragment number is freed: its arrival mark goes, and arrivals that waited for it may count. -/
def State.unmark (s : State) (w : Nat) (fs : List Nat) : State :=
  (s.modWave w fun x => { x with fragArr := x.fragArr.map fun q =>
    (q.1, fs.foldl (fun m f => m &&& ~~~ (1#8 <<< f)) q.2) }).registerAll w

/-! ## Merging and ending -/

/-- The group at the top of a parked fragment's join stack, if every live member of it is parked there (R26). -/
def Wave.readyGroup (w : Wave) : Option (Nat × Nat) :=
  let tops := w.frags.filterMap fun f => if f.live && f.park == .join then f.joins.head?.map (fun j => (j.depth, j.epoch))
    else none
  tops.find? fun g => w.frags.all fun f => !f.live || !(f.joins.any fun j => (j.depth, j.epoch) == g)
    || (f.park == .join && f.joins.head?.map (fun j => (j.depth, j.epoch)) == some g)

/-- Its members, and the fragment that takes the keeper's place. -/
def Wave.members (w : Wave) (g : Nat × Nat) : List Nat := w.liveFrags.filter fun f =>
  (w.frags.getD f {}).joins.head?.map (fun j => (j.depth, j.epoch)) == some g

def Wave.groupKeeper (w : Wave) (ms : List Nat) : Nat :=
  match ms.find? fun f => ((w.frags.getD f {}).joins.head?.map (·.keeper)) == some true with
  | some f => f
  | none => ms.foldl (fun k f => if k = 8 || lowest (w.frags.getD f {}).lanes < lowest (w.frags.getD k {}).lanes
      then f else k) 8

/-- Merge a complete group (R26, R141). -/
def State.merge (s : State) (w : Nat) : State :=
  let x := s.wave w
  match x.readyGroup with
  | none => s
  | some g =>
    let ms := x.members g
    let k := x.groupKeeper ms
    let others := ms.filter (· != k)
    let kf := x.frags.getD k {}
    let union (sel : Frag → Word) : Word := ms.foldl (fun m f => m ||| sel (x.frags.getD f {})) 0
    let kf' := { kf with pc := kf.pc + 4, lanes := union (·.lanes), exm := union (·.exm), depth := kf.depth - 1
                         joins := kf.joins.tail, park := .none }
    let s := s.modWave w fun x => { x with frags := (others.foldl (fun l f => l.set f ({} : Frag)) x.frags).set k kf' }
    let s := { s with flight := s.flight.map fun (o : Op) => if o.wave == w then
      { o with owners := if o.owners.any ms.contains then (k :: o.owners.filter fun f => !ms.contains f) else o.owners
               sfr := o.sfr.filter fun f => !others.contains f } else o }
    s.unmark w others

/-- A fragment exits with its whole lane set (R27, R142): results for its scalars are discarded, groups and barriers
that waited for it go on, and the wave ends with its last fragment (R18). -/
def State.exitFrag (s : State) (w f : Nat) : State :=
  let s := s.modWave w fun x => { x with frags := x.frags.set f {} }
  let s := { s with flight := s.flight.map fun (o : Op) => if o.wave == w then
    { o with owners := o.owners.filter (· != f), sfr := o.sfr.filter (· != f) } else o }
  let s := (s.unmark w [f]).merge w
  if (s.wave w).liveFrags.isEmpty then s.endWave w else s

/-! ## Checkpoints -/

/-- A tile of a gang in accumulator memory (R208). -/
def tileLoc (g : Gang) (core part phys : Nat) : Loc := ⟨.tile, tileNoOf (coreNo g.die g.cluster core * 4 + part) phys * 16384⟩

/-- The bytes of the gang's held tiles that `p` selects by workgroup, partition and tile. Marks of uncorrectable errors are not
saved with them, and a tile restored holds none: the spec does not say. DESIGN CHOICE, log 116. -/
def State.saveTiles (s : State) (g : Nat) (p : Nat → Nat → Nat → Bool) : List SavedTile :=
  let gg := s.gang g
  (List.range gg.wgs.length).flatMap fun i =>
    let w := gg.wgs.getD i {}
    (List.range 4).flatMap fun part => (List.range w.tiles).filterMap fun t =>
      if p i part t then
        some ⟨i, part, t, (s.raws (tileLoc gg w.core part (w.tileBase + t)) 16384).map (·.1)⟩ else none

/-- Write saved tiles back. -/
def State.loadTiles (s : State) (g : Nat) (ts : List SavedTile) : State :=
  ts.foldl (fun s t =>
    let gg := s.gang g
    let w := gg.wgs.getD t.wg {}
    s.putRaws (tileLoc gg w.core t.part (w.tileBase + t.tile)) (t.bytes.map fun b => (b, false))) s

/-- Take the gang's checkpoint (R359, R360). -/
def State.checkpoint (s : State) (g : Nat) (resume : Bool) : State :=
  let ck : Ckpt := ⟨resume, (s.gang g).waves.map s.wave, s.saveTiles g fun _ _ _ => true, (s.gang g).halted⟩
  s.modGang g fun x => { x with ckpt := ck, ckptDue := false, committed := false, replays := 0, ckDeps := [] }

/-- An operation whose result some register of the gang still awaits. -/
def Op.produces (o : Op) : Bool :=
  match o.kind with
  | .load _ d .. => d != .none
  | .atomic _ _ _ d .. => d != .none
  | .value .. => true
  | .svalue .. => true
  | .sfu .. => true
  | .rkacq .. | .rksnap .. | .slalom .. => true
  | .deposit .. => true
  | _ => false

/-- A checkpoint that is due is taken once no wave of the gang has an outstanding register producer (R359). -/
def State.dueCkpt (s : State) (g : Nat) : State :=
  if (s.gang g).ckptDue && !(s.flight.any fun o => o.gang == g && o.produces)
  then s.checkpoint g false else s

end Sys2Proof.Machine
end

