-- ==== Sys2Proof/Machine/Coh.lean ====
section
/-! DEFINITION. Leases and read copies (R178-R187), and the performing of one access: what may stand before another, the
bytes a load returns, and a store at its place (R148, R157, R164, R182, R189, R190). -/
namespace Sys2Proof.Machine

/-! ## Time and leases -/

def clusterOf (core : Nat) : Nat := core / 4

/-- The offset of an island's copy of TIME from the root (R343). -/
def State.offset (s : State) (island : Nat) : Int := ((s.skew.find? fun i => i.1 == island).map (·.2)).getD 0

/-- A cluster's reading of its island's copy of TIME (R343). -/
def State.islandTime (s : State) (cluster : Nat) : Nat := ((s.time : Int) + s.offset (islandOf cluster)).toNat

/-- TIME as the unit's wave reads it: its island's copy, but never below an earlier reading (R343, R344). -/
def State.readTime (s : State) : Nat := max (s.islandTime s.cw.clusterNo) s.cw.seenTime

def State.sawTime (s : State) (t : Nat) : State := s.modCw fun w => { w with seenTime := t }

/-- The guard of R179. -/
def guard (mhz : Nat) : Nat := 4 + (2000 + mhz - 1) / mhz

def spaceCluster : Space → Nat
  | .l1 c => clusterOf c
  | .cc c => c
  | _ => 0

/-- The copy a holder keeps of a line, if a load hits it now: now + guard < expiry, compared modulo 2^20 (R178, R179). -/
def State.hit (s : State) (holder : Space) (line : Loc) : Option Copy :=
  s.copies.find? fun c => c.holder == holder && c.line == line &&
    (let cl := spaceCluster holder
     ((guard (s.mhz cl) : Nat) : Int) < (c.expiry - BitVec.ofNat 20 (s.islandTime cl)).toInt)

/-- The lease length the home grants now (R180). -/
def State.leaseLen (s : State) (line : Loc) (hint : Nat) : Nat :=
  let recent := match (s.home line).lastStore with | some t => decide (s.time < t + 4096) | none => false
  let n := if recent then 64 else if hint = 1 then 4096 else 512
  if line.sp == .host then min n 512 else n

/-- The bytes an access touches at its place, in order. -/
def placeBytes (p : Place) (n : Nat) : List Place :=
  (List.range n).map fun i => match p with
    | .direct l => .direct (l.plus i)
    | .homed l m => .homed (l.plus i) m
    | .lane k => .lane (k + i / 4 * 128 + i % 4)
    | .peer sl o => .peer sl (o + BitVec.ofNat 64 i)

/-- Two accesses have a byte in common. A lane's window line is its own. -/
def overlap (p : Place) (n : Nat) (q : Place) (m : Nat) : Bool :=
  match p, q with
  | .direct a, .direct b => a.sp == b.sp && a.a < b.a + m && b.a < a.a + n
  | .homed a _, .homed b _ => a.sp == b.sp && a.a < b.a + m && b.a < a.a + n
  | .lane a, .lane b => a == b
  | .peer s a, .peer t b => s == t && a.toNat < b.toNat + m && b.toNat < a.toNat + n
  | _, _ => false

/-- The line of a homed place. -/
def Place.line? : Place → Option Loc
  | .homed l _ => some l.line
  | _ => none

/-- The accesses an operation has still to perform at memory. -/
def Op.accs (o : Op) : List Acc :=
  match o.kind with
  | .load a .. => a
  | .store a => a
  | .atomic _ _ a .. => a
  | _ => []

/-- Either half of the line is EM at the host, or a host request or snoop waits for the line's leases (R380, R381). -/
def State.hostHolds (s : State) (line : Loc) : Bool :=
  let l := s.fwd line
  let h := halfOf l.a
  match l.sp with
  | .phys => s.dirOf h == some .m || s.dirOf (h + 1) == some .m || s.hostReqs.any fun r => r.1 == h || r.1 == h + 1
  | .host => s.snoops.any fun r => r.1 == h || r.1 == h + 1
  | _ => false

/-- The destination of a copy command. -/
def CopyKind.dst : CopyKind → List Place
  | .linear d _ _ => d
  | .gather d _ _ _ _ => d
  | .rink _ _ _ _ _ _ d => d
  | .coll _ _ _ _ buf status => buf ++ status
  | .marker _ => []

def placeAddr : Place → Nat
  | .direct l => l.a
  | .homed l _ => l.a
  | .lane k => k
  | .peer _ o => o.toNat

/-- Words of the next part: at most 4 KiB, and not across a 4 KiB boundary of the destination (R241). -/
def partWords (dst : List Place) : Nat := min dst.length ((4096 - placeAddr (dst.headD (.lane 0)) % 4096) / 4)

/-- The places an engine's operation that has started is about to write. -/
def Op.landing (o : Op) : List Place :=
  match o.kind with
  | .copy _ (.coll _ _ _ _ buf status) _ true _ _ => buf ++ status
  | .copy _ k _ true _ landed => let rest := k.dst.drop (landed / 4); rest.take (partWords rest)
  | .mx (.msave _ d) _ true _ => d
  | _ => []

/-- May the home grant a lease on the line? Not while it holds a store, an atomic, an engine's write or a RING action,
while a core has an own lease, while the line's chunk drains, or while the host has a part in it (R181, R184, R185, R319,
R380, R403). -/
def State.grants (s : State) (line : Loc) : Bool :=
  !(s.flight.any fun o => ((o.isStore || o.isAtomic) && o.accs.any fun a => a.place.line? == some line)
      || o.landing.any fun p => p.line? == some line)
    && !s.ringHolds line && !s.stealHolds line
    && (match (s.home line).own with | some (_, t) => t ≤ s.time | none => true)
    && !s.draining line && !s.busy line && !s.hostHolds line

/-! ## Where copies stand, and what must go for a new one (R13, R147) -/

def State.dropCopy (s : State) (holder : Space) (line : Loc) : State :=
  let s := s.zero ⟨holder, line.tagged⟩ 128
  { s with copies := s.copies.filter fun c => !(c.holder == holder && c.line == line) }

/-- A lane-private line goes back to its backing (R157). -/
def State.privClean (s : State) (w k : Nat) : State := s.putRaws ⟨.privWb w, k⟩ (s.raws ⟨.priv w, k⟩ 128)

/-- A lane-private line leaves the L1: what was written back of it remains (R157). -/
def State.privDrop (s : State) (w k : Nat) : State :=
  { s with privHeld := s.privHeld.filter fun p => !(p.wave == w && p.off == k) }.putRaws ⟨.priv w, k⟩ (s.raws ⟨.privWb w, k⟩ 128)

/-- What a set of an L1 holds: the read copies and lane-private lines of core `core` in set `n`. An L1 has 12 ways of 256
sets; the spec does not say which set a line falls in: line number modulo 256, the model's choice, log 87. -/
def State.l1Set (s : State) (core n : Nat) : List (Copy ⊕ PrivLine) :=
  ((s.copies.filter fun c => c.holder == .l1 core && c.line.a / 128 % 256 == n).map .inl)
    ++ (s.privHeld.filter fun p => (s.wave p.wave).coreNo == core && p.off / 128 % 256 == n).map .inr

/-- When a line of an L1 is replaced (R168). -/
def keepOf : Copy ⊕ PrivLine → Keep
  | .inl c => c.keep
  | .inr p => p.keep

/-- Make room in a set of an L1: with 12 lines in it one of those that go first goes, a lane-private one with its write-back
(R157). Which is free. -/
def State.l1Room (s : State) (core n : Nat) : State :=
  let ls := s.l1Set core n
  if ls.length < 12 then s
  else
    let (i, t) := s.evictee (ls.map keepOf)
    match ls[i]? with
    | some (.inl c) => t.dropCopy (.l1 core) c.line
    | some (.inr p) => (t.privClean p.wave p.off).privDrop p.wave p.off
    | none => t

/-- The L1 of the wave's core holds the lane-private line of an offset (R157), to be replaced as a hint says (R168). -/
def State.privFill (s0 : State) (w k0 hint : Nat) : State :=
  let k := k0 / 128 * 128
  if s0.privHeld.any fun p => p.wave == w && p.off == k then
    if l1Keep hint = .normal then s0
    else { s0 with privHeld := s0.privHeld.map fun p => if p.wave == w && p.off == k then { p with keep := l1Keep hint } else p }
  else
    let s := s0.l1Room (s0.wave w).coreNo (k / 128 % 256)
    { s with privHeld := ⟨w, k, l1Keep hint⟩ :: s.privHeld }

/-- The banks of a cluster in CACHE mode, by physical number: those that no gang holds in another mode (R156). -/
def State.cacheBanks (s : State) (cluster : Nat) : List Nat :=
  (List.range 32).filter fun b => !(s.gangs.any fun g => g.placed && g.die * 20 + g.cluster == cluster &&
    g.banks.any fun k => k.phys == b && k.mode != .cache)

/-- The read copies in a bank of a cluster go. -/
def State.dropBank (s : State) (cluster b : Nat) : State :=
  (s.copies.filter fun c => c.holder == .cc cluster && c.bank == b).foldl (fun s c => s.dropCopy c.holder c.line) s

/-- Banks that a gang takes leave the CACHE of their cluster, with what they hold (R156). -/
def State.takeBanks (s : State) (die cluster : Nat) (bs : List Nat) : State :=
  bs.foldl (fun s b => s.dropBank (die * 20 + cluster) b) s

/-- Make room in a CACHE bank, which holds 1,024 lines: a full one drops one; which is free. -/
def State.bankRoom (s : State) (cluster b : Nat) : State :=
  let cs := s.copies.filter fun c => c.holder == .cc cluster && c.bank == b
  if cs.length < 1024 then s
  else
    let (i, t) := s.victim cs.length
    match cs[i]? with
    | some c => t.dropCopy c.holder c.line
    | none => t

/-- A holder takes a copy of a line. A cluster keeps it in one of its CACHE banks, if it has one: line number modulo their
count, the model's choice, log 87. -/
def State.putCopy (s0 : State) (holder : Space) (line : Loc) (expiry : BitVec 20) (keep : Keep) (bs : List (Byte × Bool)) :
    State :=
  let put (s : State) (b : Nat) : State :=
    { s.putRaws ⟨holder, line.tagged⟩ bs with
      copies := ⟨holder, line, expiry, b, keep⟩ :: s.copies.filter fun c => !(c.holder == holder && c.line == line) }
  let t := s0.dropCopy holder line
  match holder with
  | .cc cl =>
    let bs := s0.cacheBanks cl
    match bs[line.a / 128 % bs.length]? with
    | some b => put (t.bankRoom cl b) b
    | none => t
  | .l1 core => put (t.l1Room core (line.a / 128 % 256)) 0
  | _ => s0

/-- An access under a hint changes when an L1 copy that serves it is replaced (R168). -/
def State.l1Touch (s : State) (core : Nat) (line : Loc) (hint : Nat) : State :=
  if l1Keep hint = .normal then s
  else { s with copies := s.copies.map fun c =>
    if c.holder == .l1 core && c.line == line then { c with keep := l1Keep hint } else c }

/-- The core fetches a line: from a cluster CACHE copy that hits, else from the home, which grants a lease if it may
(R147, R179, R180). `hint` 4 keeps it out of the L1 (R168). `halves`: those the access touches; the others are neither
snooped (R379) nor fetched from the host (R381), and a host line of which the bridge holds one half alone is not copied. -/
def State.fetchLine (s : State) (core : Nat) (line : Loc) (halves : List Nat) (hint : Nat) : State :=
  let cc : Space := .cc (clusterOf core)
  let now := BitVec.ofNat 20 s.time
  match s.hit cc line with
  | some c =>
    if hint = 4 then s
    else
      let len := BitVec.ofNat 20 (s.leaseLen line hint)
      let e := if (c.expiry - (now + len)).toInt < 0 then c.expiry else now + len
      s.putCopy (.l1 core) line e (l1Keep hint) (s.raws ⟨cc, line.tagged⟩ 128)
  | none =>
    let s := (halves.foldl (fun s i => s.readTouch (line.plus (64 * i))) s).llcKeep line hint false
    let whole := line.sp != .host || (List.range 2).all fun i => (s.bridgeOf (halfOf line.a + i)).isSome
    if s.grants line && whole then
      let len := s.leaseLen line hint
      let e := now + BitVec.ofNat 20 len
      let bs := s.homeBytes line 128
      let s := s.setHome { s.home line with latest := max (s.home line).latest (s.time + len) }
      let s := s.putCopy cc line e .normal bs
      if hint = 4 then s else s.putCopy (.l1 core) line e (l1Keep hint) bs
    else s

/-- A byte as a load of the core reads it after the fetch: from a copy that hits, else from the home. Under `nol1` the core's L1
does not serve it (R168). -/
def State.seen (s : State) (core hint : Nat) (l : Loc) : Byte × Bool :=
  if hint ≠ 4 && (s.hit (.l1 core) l.line).isSome then s.raw ⟨.l1 core, l.tagged⟩
  else if (s.hit (.cc (clusterOf core)) l.line).isSome then s.raw ⟨.cc (clusterOf core), l.tagged⟩
  else s.homeByte l

/-- A store updates its own core's L1 copy in place; the copy keeps its lease (R181). -/
def State.updateL1 (s : State) (core : Nat) (l : Loc) (bs : List Byte) : State :=
  if s.copies.any fun c => c.holder == .l1 core && c.line == l.line
  then s.putRaws ⟨.l1 core, l.tagged⟩ (bs.map fun b => (b, false)) else s

/-! ## What stands before an operation -/

/-- p comes before o in the program order of o's fragment (R190). -/
def Op.precedes (p o : Op) : Bool := p.wave == o.wave && o.after.contains p.id

/-- An earlier acquire of the operation's fragment is still to be performed or answered (R189, R284). -/
def State.acquiring (s : State) (o : Op) : Bool := s.flight.any fun p => p.precedes o && p.ord.acquires

/-- An earlier release of the fragment that names an observer class (bit `c`) is still to be performed: a command of an engine
of the class waits for it, and so for the accesses before it (R195). -/
def State.releasing (s : State) (o : Op) (c : Nat) : Bool :=
  s.flight.any fun p => p.precedes o && p.ord.releases && p.mask.getLsbD c

/-- The register bank and numbers a result goes to. -/
def Dst.same (d e : Dst) (o p : Op) : Bool :=
  match d, e with
  | .vec b r n, .vec c q m => b == c && r < q + m && q < r + n
  | .vec _ r n, .quiet q m => r < q + m && q < r + n
  | .quiet r n, .vec _ q m => r < q + m && q < r + n
  | .quiet r n, .quiet q m => r < q + m && q < r + n
  | .scl b r n, .scl c q m => b == c && r < q + m && q < r + n && (b == .trap || o.sfr.any p.sfr.contains)
  | .port q, .port r => q == r
  | _, _ => false

/-- An RDEP in flight. -/
def Op.isDeposit (o : Op) : Bool := match o.kind with | .deposit .. => true | _ => false

/-- The wave whose registers or ports an operation's result goes to. -/
def Op.target (o : Op) : Nat := match o.kind with | .deposit t .. => t | _ => o.wave

/-- Both are results for one destination that is still waited for: of one context generation, or deposits, which no
generation ends (R124, R251). -/
def Op.rivals (o p : Op) : Bool :=
  p.target == o.target && (p.gen == o.gen || p.isDeposit || o.isDeposit) && o.dst.same p.dst o p

/-- Results of one register come in the order in which their producers issued (R94); deposits among themselves in that in
which they reach the target (R250). -/
def State.dstTurn (s : State) (o : Op) : Bool :=
  !(s.flight.any fun p => p.id < o.id && o.rivals p && !(o.isDeposit && p.isDeposit))

def Place.isLocal : Place → Bool
  | .direct l => l.sp == .sram
  | _ => false

/-- An earlier acquire holds the later accesses of its fragment (R189). An RKACQ that waits, or an RKSNAP behind it, does not
hold RKST lanes: in R293's worked case B publishes, past its own RKACQ, the positions that its RKACQ waits for. DEDUCED, log 80. -/
def Op.holds (p o : Op) : Bool :=
  p.ord.acquires && !(match p.kind with | .rkacq .. | .rksnap .. => o.isStore && o.cls == some kRK | _ => false)

/-- May access a of operation o be performed now, as the order of accesses goes? An earlier acquire of the fragment
must be done; a release waits for the fragment's earlier accesses; the wave's earlier operations on the same bytes
come first, but for a load, which takes its bytes from the wave's own earlier store; local accesses of a fragment keep
program order (R164, R166, R182, R189, R199). -/
def State.inOrder (s : State) (o : Op) (a : Acc) : Bool :=
  s.flight.all fun p => !(p.id < o.id && p.wave == o.wave) ||
    (!(p.precedes o && (p.holds o || (p.isAccess && o.ord.releases)))
      && !(p.accs.any fun b => overlap a.place a.size b.place b.size
            && !(o.isLoad && p.isStore && o.answer.isNone) && !(o.isLoad && p.isLoad && (o.ord == .weak || p.ord == .weak)))
      && !(a.place.isLocal && p.precedes o && p.accs.any fun b => b.place.isLocal))

/-- The place can serve the access now: no conflict at the bridge, the chunk not BUSY (R382, R403). -/
def State.served (s : State) (p : Place) (write : Bool) : Bool :=
  match p with
  | .homed l _ | .direct l => !s.snoopBlocked l write && !s.busy l
  | _ => true

/-! ## Performing -/

/-- The byte that the wave's latest earlier store still in flight gives, if any (R164); local accesses keep order
instead (R166), and a peer's accesses are performed at the home (R390). -/
def State.forwarded (s : State) (o : Op) (p : Place) : Option Byte :=
  if p.isLocal || o.answer.isSome then none else s.flight.foldl (fun r q =>
    if q.id < o.id && q.wave == o.wave && q.isStore then
      q.accs.foldl (fun r b =>
        match (placeBytes b.place b.size).findIdx? (· == p) with
        | some i => some (b.data.getD i 0)
        | none => r) r
    else r) none

/-- One byte of a load (R148, R157, R163). -/
def State.loadByte (s : State) (o : Op) (hint : Nat) (p : Place) : Byte × Bool :=
  match s.forwarded o p with
  | some b => (b, false)
  | none => match p with
    | .direct l => s.homeByte l
    | .homed l _ => s.seen o.core hint l
    | .lane k => s.raw ⟨.priv o.wave, k⟩
    | .peer sl off => (Config.freeByte (s.free + sl) off.toNat, s.slotFails (s.gang o.gang).vd sl (s.free + sl))

/-- The lines an access of the core brings in (R168); a peer's is performed at the home (R390). -/
def State.fetchFor (s : State) (o : Op) (hint : Nat) (accs : List Acc) : State :=
  if o.core = engineCore then
    accs.foldl (fun s a => match a.place with | .homed l _ => s.readTouch l | _ => s) s
  else (accs.filterMap fun a => a.place.line?).eraseDups.foldl (fun s l =>
    let halves := (List.range 2).filter fun i => accs.any fun a =>
      overlap a.place a.size (.homed (l.plus (64 * i)) false) 64
    if hint ≠ 4 && (s.hit (.l1 o.core) l).isSome then s.l1Touch o.core l hint else s.fetchLine o.core l halves hint) s

/-- Widen the bytes of one access to registers (R161). -/
def extendBytes (e : Ext) (bs : List Byte) : List Word :=
  let n := 8 * bs.length
  match e with
  | .zext => [BitVec.ofNat 32 (natOf bs)]
  | .sext => [(BitVec.ofNat n (natOf bs)).signExtend 32]
  | _ => (List.range (bs.length / 4)).map fun i => BitVec.ofNat 32 (natOf ((bs.drop (4 * i)).take 4))

/-- Widen the bytes of a scalar load (R167). -/
def extendScalar (e : Ext) (bs : List Byte) : SReg :=
  match e with
  | .sext => { val := (BitVec.ofNat (8 * bs.length) (natOf bs)).signExtend 64 }
  | .tagged => { val := BitVec.ofNat 64 (natOf (bs.take 8)), tag := bs.getD 8 0 }
  | _ => { val := BitVec.ofNat 64 (natOf bs) }

/-- Registers of a vector load's result: n registers of 32 lanes, and the poisoned lanes. -/
def loadLanes (e : Ext) (n : Nat) (got : List (Nat × List (Byte × Bool))) : List (List Word) × Word :=
  ((List.range n).map fun i => (List.range 32).map fun l =>
    match got.find? fun g => g.1 == l with
    | some g => (extendBytes e (g.2.map (·.1))).getD i 0
    | none => 0,
   mask32 fun l => got.any fun g => g.1 == l && g.2.any (·.2))

/-! ## Delivering results -/

/-- The register has no other producer outstanding. -/
def State.lastFor (s : State) (o : Op) (d : Dst) : Bool :=
  !(s.flight.any fun p => p.id != o.id && p.target == o.target && (p.gen == o.gen || p.isDeposit || o.isDeposit) &&
    match p.dst with
    | .quiet .. => false
    | e => d.same e o p)

/-- Write a vector result into the target wave's registers or trap bank (R93, R94, R124). -/
def State.deliverV (s : State) (o : Op) (b : RBank) (r : Nat) (lanes : Word) (vals : List (List Word)) (poison : Word)
    (full : Bool) : State :=
  (List.range vals.length).foldl (fun s i =>
    let f (x : VReg) : VReg := { (x.write lanes fun l => (vals.getD i []).getD l 0) with
      empty := if full && s.lastFor o (.vec b (r + i) 1) then false else x.empty
      poison := (x.poison &&& ~~~ lanes) ||| (poison &&& lanes) }
    s.modWave o.target fun w => match b with
      | .wave => { w with v := w.v.modify (r + i) f }
      | .trap => { w with w := w.w.modify (r + i) f }) s

/-- A scalar takes its result; it is as the result says once no other producer is outstanding. -/
def SReg.take (z x : SReg) (last : Bool) : SReg := if last then x else { x with st := z.st }

/-- Write scalar results into every fragment that receives them (R20, R141). -/
def State.deliverS (s : State) (o : Op) (b : RBank) (r : Nat) (vals : List SReg) : State :=
  (List.range vals.length).foldl (fun s i =>
    let x := vals.getD i {}
    let last (f : Nat) : Bool := s.lastFor { o with sfr := [f] } (.scl b (r + i) 1)
    if r + i = 0 then s
    else match b with
      | .trap => s.modWave o.wave fun w => { w with y := w.y.modify (r + i) fun z => z.take x (last 0) }
      | .wave => o.sfr.foldl (fun s f => s.modWave o.wave fun w => w.modFrag f fun g =>
          { g with s := g.s.modify (r + i) fun z => z.take x (last f) }) s) s

/-- May a result bound for a port be pushed now? -/
def State.portRoom (s : State) (o : Op) : Bool :=
  match o.dst with
  | .port q => match (s.wave o.wave).ports.getD (q - 56) none with
    | some b => let k := (s.gang o.gang).banks.getD b.bank {}; k.closed || k.entries.length < 1024
    | none => true
  | _ => true

/-- Deliver vector values and retire the operation. A result bound for a port goes to the bank that the port is bound to at its
delivery, and one for a port that has been unbound since is lost: the spec does not say (R231, R233). DESIGN CHOICE, log 118. -/
def State.deliverVec (s : State) (o : Op) (lanes : Word) (vals : List (List Word)) (poison : Word) : State :=
  let t := match o.dst with
    | .vec b r _ => s.deliverV o b r lanes vals poison true
    | .quiet r _ => s.deliverV o .wave r lanes vals poison false
    | .port q => match (s.wave o.wave).ports.getD (q - 56) none with
      | none => s
      | some pb =>
        if ((s.gang o.gang).banks.getD pb.bank {}).closed then s.modWave o.wave fun w => { w with stat := w.stat ||| 4 }
        else
          let e : VReg := { lanes := (List.range 32).map fun l => if lanes.getLsbD l then (vals.headD []).getD l 0 else 0
                            poison := poison &&& lanes }
          s.modGang o.gang fun g => { g with banks := g.banks.modify pb.bank fun k => k.push e }
    | _ => s
  t.dropOp o.id

def State.deliverScl (s : State) (o : Op) (vals : List SReg) : State :=
  let t := match o.dst with
    | .scl b r _ => s.deliverS o b r vals
    | _ => s
  t.dropOp o.id

end Sys2Proof.Machine
end

