-- ==== Sys2Proof/Machine/Memory.lean ====
section
/-! DEFINITION. Loads, stores, cache maintenance, bank modes and memory-side operations (majors 0x21 to 0x29, FENCEI;
R149-R177). An access issues here; the events of Deliver perform it. -/
namespace Sys2Proof.Machine

/-! ## Addresses and checks (R153) -/

/-- Effective addresses of a vector access: the lanes' offsets scaled by the size (R162). -/
def eaV (base : SReg) (off : VReg) (size : Nat) (act : Word) : List (Nat × Addr) :=
  (lanesOf act).map fun l => (l, base.tag ++ (base.val + (off.lane l).signExtend 64 * BitVec.ofNat 64 size))

def mask32L (ls : List Nat) : Word := mask32 fun l => ls.contains l

/-- The lanes of a fault, lowest first: TRAPA is that lane's address. A scalar access (`vec` false) reports none. -/
def faultLanes {α : Type} (s : State) (vec : Bool) (c : Byte) (bad : List (Nat × Addr)) : Act α :=
  .error (.trap s ⟨c, (bad.map (·.2)).headD 0, if vec then mask32L (bad.map (·.1)) else 0, false⟩)

/-- The first cause found among the lanes' translations. -/
def firstBad (tr : List ((Nat × Addr) × Except Byte Place)) (c : Byte) : List (Nat × Addr) :=
  tr.filterMap fun t => match t.2 with | .error d => if d = c then some t.1 else none | .ok _ => none

/-- An access overlaps a watchpoint of dmt (R413). -/
def State.watched (s : State) (a : Addr) (size : Nat) : Bool :=
  s.cv.watches.any fun w => w.1.toNat < a.toNat + size && a.toNat < w.1.toNat + w.2

def State.translateCur (s : State) (l : Nat) (a : Addr) (p : Perm) : Except Byte Place :=
  s.translate s.cw.coreNo s.cg.vd s.cw.win l a p

/-- The checks of a global access over its lanes, in the order of R153; `al`: the alignment. -/
def State.checkG (s : State) (vec : Bool) (p : Perm) (size al : Nat) (eas : List (Nat × Addr)) : Act (List Acc) :=
  let mis := eas.filter fun e => e.2.toNat % 2 ^ 64 % al != 0
  if !mis.isEmpty then faultLanes s vec cALIGN mis
  else
    let tr := eas.map fun e => (e, s.translateCur e.1 e.2 p)
    match [cTAG, cXLATE, cPROT].find? fun c => !(firstBad tr c).isEmpty with
    | some c => faultLanes s vec c (firstBad tr c)
    | none =>
      let w := eas.filter fun e => s.watched e.2 size
      if !w.isEmpty then faultLanes s vec cWATCH w
      else .ok (tr.filterMap fun t => match t.2 with
        | .ok pl => some { lane := t.1.1, place := pl, size := size, va := t.1.2 }
        | .error _ => none)

/-- The checks of a local access: ALIGN, then LOCAL (R155). The tag of the base is ignored, and TRAPA of both is the local
address with tag 0, which R153 would give the lane's address with its tag. DESIGN CHOICE, log 113. -/
def State.checkL (s : State) (vec : Bool) (size : Nat) (eas : List (Nat × Addr)) : Act (List Acc) :=
  let offs := eas.map fun e => (e.1, e.2.toNat % 2 ^ 64)
  let asAddr (l : List (Nat × Nat)) : List (Nat × Addr) := l.map fun e => (e.1, BitVec.ofNat 72 e.2)
  let mis := offs.filter fun e => e.2 % size != 0
  let bad := offs.filter fun e => (s.cg.localLoc e.2).isNone
  if !mis.isEmpty then faultLanes s vec cALIGN (asAddr mis)
  else if !bad.isEmpty then faultLanes s vec cLOCAL (asAddr bad)
  else .ok (offs.filterMap fun e => (s.cg.localLoc e.2).map fun l =>
    { lane := e.1, place := .direct l, size := size, va := BitVec.ofNat 72 e.2 })

/-- TAG, XLATE and PROT over translations of pieces of n bytes, in the order of R153: each check runs over all of them before
the next; then dmt's watchpoints (R413). -/
def State.checkTr (s : State) (n : Nat) (tr : List ((Nat × Addr) × Except Byte Place)) : Act Unit :=
  match [cTAG, cXLATE, cPROT].find? fun c => !(firstBad tr c).isEmpty with
  | some c => faultLanes s false c (firstBad tr c)
  | none =>
    let w := if n = 0 then [] else (tr.map (·.1)).filter fun e => s.watched e.2 n
    if w.isEmpty then .ok () else faultLanes s false cWATCH w

/-- The TLB keeps what the access used (R154). -/
def State.tlbUse (s : State) (accs : List Acc) : State :=
  accs.foldl (fun s a =>
    let off := match a.place with | .lane k => 2 ^ 23 * s.cw.win + k | _ => a.va.toNat % 2 ^ 64
    s.tlbFill s.cw.coreNo s.cg.vd (tagOf a.va) off) s

def isPrivate (accs : List Acc) : Bool := accs.any fun a => match a.place with | .lane _ => true | _ => false
def isLocal (accs : List Acc) : Bool := accs.any fun a => a.place.isLocal

/-! ## Lane-private bytes (R157): performed as the instruction issues -/

/-- The L1 of the wave's core holds the lane-private lines that the accesses touch. -/
def State.privTouch (s : State) (w : Nat) (accs : List Acc) : State :=
  (accs.flatMap fun a => placeBytes a.place a.size).foldl (fun s p => match p with
    | .lane k => s.privFill w k s.hint
    | _ => s) s

def State.privBytes (s : State) (w : Nat) (a : Acc) : List (Byte × Bool) :=
  (placeBytes a.place a.size).map fun p => match p with | .lane k => s.raw ⟨.priv w, k⟩ | _ => (0, false)

def State.privPut (s : State) (w : Nat) (a : Acc) : State :=
  ((placeBytes a.place a.size).zip a.data).foldl (fun s p => match p.1 with
    | .lane k => s.putRaw ⟨.priv w, k⟩ p.2
    | _ => s) s

/-! ## Loads -/

/-- Enter a load of n registers: lane-private data is taken now, anything else at its delivery. -/
def State.enterLoad (s : State) (accs : List Acc) (d : Dst) (n : Nat) (ext : Ext) (act : Word) (om : Order × BitVec 5) :
    State :=
  if isPrivate accs then
    let s := s.privTouch s.cur.wave accs
    let r := loadLanes ext n (accs.map fun a => (a.lane, s.privBytes s.cur.wave a))
    s.launchOp none (.value d act r.1 r.2)
  else s.launchOp none (.load accs d ext s.hint) om.1 om.2

/-- A lane whose line the L1 holds, for a load that it may serve (R24, R168). -/
def State.l1Hit (s : State) (core : Nat) (a : Acc) : Bool :=
  match a.place with
  | .homed l _ => s.hint ≠ 4 && (s.hit (.l1 core) l.line).isSome
  | _ => true

/-- A split load carves when some active lane hits and some misses, within the limits of R23; never in a handler or
for a port (R24, R350). -/
def State.splitMiss (s : State) (f : ML) (accs : List Acc) : Word :=
  let miss := mask32L ((accs.filter fun a => !s.l1Hit s.cw.coreNo a).map (·.lane))
  if f.split = 1 ∧ miss ≠ 0 ∧ (accs.any fun a => s.l1Hit s.cw.coreNo a) ∧ !s.cw.handling ∧ f.vd.toNat < 56
    ∧ s.cw.liveFrags.length < 8 ∧ s.cf.depth < 16
  then miss else 0

/-- A vector load (R161, R162). `loc`: local memory. Both parts of a split load belong to the program order of both fragments,
whose ancestor issued it, for a FENCE as for later accesses (R190, R203). DEDUCED, log 125. -/
def State.vload (s : State) (f : ML) (loc : Bool) (n size : Nat) (ext : Ext) : Act State := do
  let act := s.active f.kp
  let vd := f.vd.toNat
  s.checkS f.sa.toNat
  (f.va.toNat :: (List.range n).map (vd + ·)).forM s.checkV
  waitFor ((s.sreg f.sa.toNat).st != .empty)
  s.srcsReady false [(f.va.toNat, false)] []
  s.dstReady vd
  let base ← s.readS f.sa.toNat
  let (vs, s') ← s.claim act [f.va.toNat]
  let eas := eaV base (vs.headD {}) size act
  let accs ← if loc then s.checkL true size eas else s.checkG true .r size size eas
  let om := if loc then (.weak, 0) else s.orderM f.ord
  let s := if loc then s' else s'.tlbUse accs
  let miss := s.splitMiss f accs
  if miss = 0 then .ok (((s.emptyV vd n).enterLoad accs (s.vdst vd n) n ext act om).done)
  else
    let hits := accs.filter fun a => !miss.getLsbD a.lane
    let late := accs.filter fun a => miss.getLsbD a.lane
    let w := s.cur.wave
    let fr := s.cur.frag
    let nf := s.cw.freeFrag
    let pc := s.cur.nxt
    let keep := s.cf.exm &&& ~~~ miss
    let t := (s.emptyV vd n).enterLoad hits (s.vdst vd n) n ext act om
    let id := t.seq
    let t := t.launchOp none (.load late (.quiet vd n) ext s.hint) om.1 om.2
    let t := (t.issued.carve w fr miss keep pc pc)
    .ok ({ t with flight := t.flight.map fun (o : Op) =>
        if o.id == id then { o with after := o.after.filter (· + 1 != id) } else o }.modWave w
      fun x => x.modFrag nf fun g => { g with park := .data id })

/-- VLD.b32 (R161). -/
def execVldB32 (f : ML) (s : State) : Host.Outcome State Fault Refusal := finish s (s.vload f false 1 4 .word)
/-- VLD.b64 (R161). -/
def execVldB64 (f : ML) (s : State) : Host.Outcome State Fault Refusal := finish s (s.vload f false 2 8 .word)
/-- VLD.b128 (R161). -/
def execVldB128 (f : ML) (s : State) : Host.Outcome State Fault Refusal := finish s (s.vload f false 4 16 .word)
/-- VLD.b16z (R161). -/
def execVldB16z (f : ML) (s : State) : Host.Outcome State Fault Refusal := finish s (s.vload f false 1 2 .zext)
/-- VLD.b8z (R161). -/
def execVldB8z (f : ML) (s : State) : Host.Outcome State Fault Refusal := finish s (s.vload f false 1 1 .zext)
/-- VLD.b8s (R161). -/
def execVldB8s (f : ML) (s : State) : Host.Outcome State Fault Refusal := finish s (s.vload f false 1 1 .sext)
/-- VLD.b16s (R161). -/
def execVldB16s (f : ML) (s : State) : Host.Outcome State Fault Refusal := finish s (s.vload f false 1 2 .sext)
/-- VLDL.b32 (R165). -/
def execVldlB32 (f : ME) (s : State) : Host.Outcome State Fault Refusal :=
  finish s (s.vload ⟨0, 0, f.kp, f.va, f.sa, f.vd⟩ true 1 4 .word)
/-- VLDL.b128 (R165). -/
def execVldlB128 (f : ME) (s : State) : Host.Outcome State Fault Refusal :=
  finish s (s.vload ⟨0, 0, f.kp, f.va, f.sa, f.vd⟩ true 4 16 .word)

/-! ## Stores -/

/-- The bytes lane l stores, from n data registers. -/
def storeBytes (rs : List VReg) (size l : Nat) : List Byte :=
  (rs.flatMap fun r => bytesOf 4 (r.lane l).toNat).take size

/-- Enter a store: lane-private bytes are written now, lower lanes first; anything else is performed by an event. A weak store
updates the core's own L1 copies as it issues, a strong one as it is performed, so that no other wave of the core meets it
before (R181, R191, R192). DEDUCED, log 28. -/
def State.enterStore (s : State) (cls : Option Nat) (accs : List Acc) (om : Order × BitVec 5) : State :=
  if isPrivate accs then accs.foldl (fun s a => s.privPut s.cur.wave a) (s.privTouch s.cur.wave accs)
  else if accs.isEmpty then s
  else
    let s := accs.foldl (fun s a => match a.place with
      | .homed l _ => if om.1 = .weak then s.updateL1 s.cw.coreNo l a.data else s
      | _ => s) s
    s.launchOp cls (.store accs) om.1 om.2

/-- A vector store (R161, R162): the data is a source. -/
def State.vstore (s : State) (f : MS) (loc : Bool) (n size : Nat) : Act State := do
  let act := s.active f.kp
  let vd := f.vd.toNat
  s.checkS f.sa.toNat
  (f.va.toNat :: (List.range n).map (vd + ·)).forM s.checkV
  waitFor ((s.sreg f.sa.toNat).st != .empty)
  let srcs := f.va.toNat :: (List.range n).map (vd + ·)
  s.srcsReady false (srcs.map (·, false)) []
  let base ← s.readS f.sa.toNat
  let (vs, s') ← s.claim act srcs
  let eas := eaV base (vs.headD {}) size act
  let accs ← if loc then s.checkL true size eas else s.checkG true .w size size eas
  let accs := accs.map fun a => { a with data := storeBytes vs.tail size a.lane }
  let s := if loc then s' else s'.tlbUse accs
  if loc then .ok (s.enterStore none accs (.weak, 0))
  else do
    s.room kST
    .ok (s.enterStore (some kST) accs (s.orderM f.ord))

/-- VST.b32 (R161). -/
def execVstB32 (f : MS) (s : State) : Host.Outcome State Fault Refusal := finishDone s (s.vstore f false 1 4)
/-- VST.b64 (R161). -/
def execVstB64 (f : MS) (s : State) : Host.Outcome State Fault Refusal := finishDone s (s.vstore f false 2 8)
/-- VST.b128 (R161). -/
def execVstB128 (f : MS) (s : State) : Host.Outcome State Fault Refusal := finishDone s (s.vstore f false 4 16)
/-- VST.b16 (R161). -/
def execVstB16 (f : MS) (s : State) : Host.Outcome State Fault Refusal := finishDone s (s.vstore f false 1 2)
/-- VST.b8 (R161). -/
def execVstB8 (f : MS) (s : State) : Host.Outcome State Fault Refusal := finishDone s (s.vstore f false 1 1)
/-- VSTL.b32 (R165). -/
def execVstlB32 (f : ME) (s : State) : Host.Outcome State Fault Refusal :=
  finishDone s (s.vstore ⟨0, f.kp, f.va, f.sa, f.vd⟩ true 1 4)
/-- VSTL.b128 (R165). -/
def execVstlB128 (f : ME) (s : State) : Host.Outcome State Fault Refusal :=
  finishDone s (s.vstore ⟨0, f.kp, f.va, f.sa, f.vd⟩ true 4 16)

/-! ## Scalar loads and stores (R167) -/

/-- s[sa] + sext(imm10) × size, with the tag of the base. -/
def eaS (base : SReg) (imm : BitVec 10) (size : Nat) : Addr :=
  base.tag ++ (base.val + imm.signExtend 64 * BitVec.ofNat 64 size)

/-- Enter a scalar load. -/
def State.enterSload (s : State) (accs : List Acc) (d : Dst) (ext : Ext) (om : Order × BitVec 5) : State :=
  if isPrivate accs then
    let s := s.privTouch s.cur.wave accs
    let bs := (accs.map fun a => s.privBytes s.cur.wave a).headD []
    s.launchOp none (.svalue d [{ extendScalar ext (bs.map (·.1)) with
      st := if bs.any (·.2) then .poison else .full }])
  else s.launchOp none (.load accs d ext s.hint) om.1 om.2

def State.sload (s : State) (f : SI) (loc : Bool) (size : Nat) (ext : Ext) : Act State := do
  [f.sd.toNat, f.sa.toNat].forM s.checkS
  let base ← s.readS f.sa.toNat
  let eas := [(0, eaS base f.imm size)]
  let accs ← if loc then s.checkL false size eas else s.checkG false .r size size eas
  let s := if loc then s else s.tlbUse accs
  .ok ((s.emptyS f.sd.toNat).enterSload accs (s.sdst f.sd.toNat 1) ext (if loc then (.weak, 0) else s.orderMS))

/-- The data of a scalar store: the low bytes of the value, or value, tag and zeros (SSTA). -/
def sstBytes (x : SReg) (size : Nat) : List Byte :=
  if size = 16 then bytesOf 8 x.val.toNat ++ x.tag :: List.replicate 7 0 else bytesOf size x.val.toNat

def State.sstore (s : State) (f : SI) (loc : Bool) (size : Nat) : Act State := do
  [f.sd.toNat, f.sa.toNat].forM s.checkS
  let xs ← s.readSs [f.sa.toNat, f.sd.toNat]
  let eas := [(0, eaS (xs.getD 0 {}) f.imm size)]
  let accs ← if loc then s.checkL false size eas else s.checkG false .w size size eas
  let accs := accs.map fun a => { a with data := sstBytes (xs.getD 1 {}) size }
  if loc then .ok (s.enterStore none accs (.weak, 0))
  else do
    s.room kST
    .ok ((s.tlbUse accs).enterStore (some kST) accs s.orderMS)

/-- SLD.b64 (R167). -/
def execSldB64 (f : SI) (s : State) : Host.Outcome State Fault Refusal := finishDone s (s.sload f false 8 .word)
/-- SLD.b32z (R167). -/
def execSldB32z (f : SI) (s : State) : Host.Outcome State Fault Refusal := finishDone s (s.sload f false 4 .zext)
/-- SLD.b32s (R167). -/
def execSldB32s (f : SI) (s : State) : Host.Outcome State Fault Refusal := finishDone s (s.sload f false 4 .sext)
/-- SLD.b8z (R167). -/
def execSldB8z (f : SI) (s : State) : Host.Outcome State Fault Refusal := finishDone s (s.sload f false 1 .zext)
/-- SLDA: value and tag (R167). -/
def execSlda (f : SI) (s : State) : Host.Outcome State Fault Refusal := finishDone s (s.sload f false 16 .tagged)
/-- SLDL (R167). -/
def execSldl (f : SI) (s : State) : Host.Outcome State Fault Refusal := finishDone s (s.sload f true 8 .word)
/-- SST.b64 (R167). -/
def execSstB64 (f : SI) (s : State) : Host.Outcome State Fault Refusal := finishDone s (s.sstore f false 8)
/-- SST.b32 (R167). -/
def execSstB32 (f : SI) (s : State) : Host.Outcome State Fault Refusal := finishDone s (s.sstore f false 4)
/-- SST.b8 (R167). -/
def execSstB8 (f : SI) (s : State) : Host.Outcome State Fault Refusal := finishDone s (s.sstore f false 1)
/-- SSTA: value, tag, zeros (R167). -/
def execSsta (f : SI) (s : State) : Host.Outcome State Fault Refusal := finishDone s (s.sstore f false 16)
/-- SSTL (R167). -/
def execSstl (f : SI) (s : State) : Host.Outcome State Fault Refusal := finishDone s (s.sstore f true 8)

/-! ## Cache maintenance (R169-R173) -/

/-- First bytes of the 128-byte lines that overlap n bytes from an offset. -/
def linesOf (off n : Nat) : List Nat :=
  if n = 0 then [] else (List.range ((off + n - 1) / 128 - off / 128 + 1)).map fun i => (off / 128 + i) * 128

/-- Probes of a range: one address in each line of a global range, or in each 4-byte group of the lane-private window,
each of which is a line of its own (R157, R169). The first is the range's own start. -/
def probes (a : Addr) (n : Nat) : List Addr :=
  let off := a.toNat % 2 ^ 64
  let tag := tagOf a
  let step := if tag == 0x02 then 4 else 128
  if n = 0 then [] else
    a :: (List.range ((off + n - 1) / step - off / step)).map fun i =>
      tag ++ BitVec.ofNat 64 ((off / step + i + 1) * step)

/-- Host and peer tags pass the checks of a maintenance instruction (R169). -/
def passesMaint (a : Addr) : Bool :=
  let t := (a.toNat / 2 ^ 64)
  t == 0xF0 || (0x10 ≤ t && t ≤ 0x1F)

/-- INVAL on tag 0x01 needs R; the others need W, and CLEAN needs R (R169). -/
def State.maintPlace (s : State) (sub : Nat) (a : Addr) : Except Byte Place :=
  let p : Perm := if sub = 0 ∨ (sub = 1 ∧ a.toNat / 2 ^ 64 = 1) then .r else .w
  s.translateCur 0 a p

/-- CLEAN, INVAL and CLNINV: the whole range is checked, then one operation touches its lines. -/
def State.maint (s : State) (f : X3) (sub : Nat) : Act State := do
  [f.d.toNat, f.sa.toNat, f.sb.toNat].forM s.checkS
  let xs ← s.readSs [f.sa.toNat, f.sb.toNat]
  let start := xs.getD 0 {}
  let count := (xs.getD 1 {}).val.toNat
  let n := min count (2 ^ 20)
  let rest := BitVec.ofNat 64 (count - n)
  let ps := probes (start.tag ++ start.val) n
  if passesMaint (start.tag ++ start.val) then .ok (s.writeS f.d.toNat rest)
  else do
    let tr := ps.map fun a => ((0, a), s.maintPlace sub a)
    s.checkTr 0 tr
    need (n = 0 || !s.watched (start.tag ++ start.val) n) s cWATCH (start.tag ++ start.val)
    let ls := tr.filterMap fun t => match t.2 with
      | .ok (.homed l m) => some (.homed l.line m)
      | .ok (.lane k) => some (.lane (k / 128 * 128))
      | _ => none
    if ls.isEmpty then .ok (s.writeS f.d.toNat rest)
    else do
      s.room kCM
      .ok ((s.writeS f.d.toNat rest).launchOp (some kCM) (.maint sub ls))

/-- CLEAN sd, sa, sb (R169). -/
def execClean (f : X3) (s : State) : Host.Outcome State Fault Refusal := finishDone s (s.maint f 0)
/-- INVAL sd, sa, sb (R169). -/
def execInval (f : X3) (s : State) : Host.Outcome State Fault Refusal := finishDone s (s.maint f 1)
/-- CLNINV sd, sa, sb (R169). -/
def execClninv (f : X3) (s : State) : Host.Outcome State Fault Refusal := finishDone s (s.maint f 2)

/-- PREF sa, sb: whole lines are fetched where their pages allow it, lane-private ones into the L1; nothing else (R157, R168,
R171). -/
def execPref (sb sa : BitVec 6) (s : State) : Host.Outcome State Fault Refusal :=
  finishDone s do
    [sa.toNat, sb.toNat].forM s.checkS
    let xs ← s.readSs [sa.toNat, sb.toNat]
    let start := xs.getD 0 {}
    let n := min (xs.getD 1 {}).val.toNat (2 ^ 20)
    let ps := probes (start.tag ++ start.val) n
    let h := s.hint
    .ok (ps.foldl (fun s a => match s.translateCur 0 a .r with
      | .ok (.homed l _) =>
        if h = 2 then (s.readTouch l.line).readTouch (l.line.plus 64) else s.fetchLine s.cw.coreNo l.line [0, 1] h
      | .ok (.lane k) => if h = 2 ∨ h = 4 then s else s.privFill s.cur.wave k h
      | _ => s) s)

/-- Zero a bank: its FIFO is empty and open, its read copies go. -/
def State.clearBank (s : State) (g b : Nat) : State :=
  let gg := s.gang g
  let k := gg.banks.getD b {}
  let c := gg.die * 20 + gg.cluster
  ((s.dropBank c k.phys).zero ⟨.sram, (c * 32 + k.phys) * 2 ^ 17⟩ (2 ^ 17)).modGang g fun x =>
    { x with banks := x.banks.modify b fun k => { k with entries := [], closed := false, boundBy := [], named := [] } }

/-- Is the SRAM byte in bank b of gang g? -/
def State.inBank (s : State) (g b : Nat) (p : Place) : Bool :=
  let gg := s.gang g
  match p with
  | .direct l => l.sp == .sram && l.a / 2 ^ 17 == (gg.die * 20 + gg.cluster) * 32 + (gg.banks.getD b {}).phys
  | _ => false

/-- The places a copy or collective command touches. -/
def CopyKind.places : CopyKind → List Place
  | .linear d s _ => d ++ s
  | .gather d _ _ _ i => d ++ i
  | .rink _ _ _ _ _ _ d => d
  | .coll _ _ _ _ b st => b ++ st
  | .marker _ => []

/-- The places a matrix operation touches outside the tiles. -/
def MxKind.places : MxKind → List Place
  | .mma _ _ _ a b _ _ => a.rows.flatten ++ a.scales ++ b.rows.flatten ++ b.scales
  | .mzero _ => []
  | .mldt _ _ r => r.rows.flatten ++ r.scales
  | .mstt _ _ r => r.rows.flatten ++ r.scales
  | .msave _ d => d
  | .mrest _ d => d
  | .mscale _ _ r => r.rows.flatten ++ r.scales

/-- An outstanding matrix read of the bank by any gang, a copy or collective of the gang with a range or its sync word in
it, or an access of the wave's own to it, which is not another wave's to come before or after the switch (R174). -/
def State.bankBusy (s : State) (g b : Nat) : Bool :=
  s.flight.any fun o => match o.kind with
    | .mx k _ _ _ => k.places.any (s.inBank g b)
    | .copy _ k w _ _ _ => o.gang == g && (k.places ++ w.toList).any (s.inBank g b)
    | _ => o.wave == s.cur.wave && o.accs.any fun a => s.inBank g b a.place

def bankModeCode : BankMode → Nat
  | .cache => 0
  | .scratch => 1
  | .fifo => 2

/-- BANKMODE sd, sa, mode (R174). -/
def State.bankmode (s : State) (mode : Nat) (d a : Nat) : Act State := do
  [d, a].forM s.checkS
  let x ← s.readS a
  let v := x.val.toNat
  let b := v / 2 ^ 17
  let g := s.cw.gang
  let bk := s.cg.banks.getD b {}
  let bound := s.cg.waves.any fun w => (s.wave w).mode != .ended &&
    (s.wave w).ports.any fun p => p.any fun q => q.bank == b
  need (v < 2 ^ 22 && b < s.cg.banks.length && !(bk.mode == .fifo && bound)) s cLOCAL (BitVec.ofNat 72 v)
  waitFor (!s.bankBusy g b)
  let s ← s.commit
  let m : BankMode := match mode with | 0 => .cache | 1 => .scratch | _ => .fifo
  let s := (s.clearBank g b).modGang g fun x => { x with banks := x.banks.modify b fun k => { k with mode := m } }
  .ok (s.writeS d (BitVec.ofNat 64 (bankModeCode bk.mode)))

def execBankmode (mode : BitVec 3) (sa d : BitVec 6) (s : State) : Host.Outcome State Fault Refusal :=
  finishDone s (s.bankmode mode.toNat d.toNat sa.toNat)

/-- L1DROP: the core's L1 copies go (R172). -/
def execL1drop (s : State) : Host.Outcome State Fault Refusal :=
  let h : Space := .l1 s.cw.coreNo
  finishDone s (.ok ((s.copies.filter fun c => c.holder == h).foldl (fun s c => s.dropCopy h c.line) s))

/-- FENCEI: after the wave's earlier stores are performed, the core's instruction lines go, and what the wave has fetched (R49,
R173). -/
def execFencei (s : State) : Host.Outcome State Fault Refusal :=
  let c := s.cw.coreNo
  finishDone s do
    waitFor (!(s.flight.any fun o => o.wave == s.cur.wave && (o.isStore || o.isAtomic)))
    .ok ((s.dropSectors c fun _ => true).dropViews s.cur.wave)

/-! ## Memory-side operations (R175) -/

/-- The translations of one operand's lines: TAG for a reserved tag, PROT for any other tag but 0x00 and for a page without
MS. An operand of no bytes has its tag looked at all the same. -/
def State.msvTr (s : State) (x : SReg) (p : Perm) (n : Nat) : List ((Nat × Addr) × Except Byte Place) :=
  let t := x.tag.toNat
  ((List.range (max 1 (n / 128))).map fun i => x.tag ++ (x.val + BitVec.ofNat 64 (128 * i))).map fun a => ((0, a),
    if t = 0 then
      if n = 0 then .ok (.lane 0)
      else match s.translateCur 0 a p with
        | .ok (.homed l true) => .ok (.homed l true)
        | .ok _ => .error cPROT
        | .error c => .error c
    else .error (if t = 1 || t = 2 || t = 0xF0 || (0x10 ≤ t && t ≤ 0x1F) then cPROT else cTAG))

/-- The physical addresses of an operand's lines. -/
def msvLines (tr : List ((Nat × Addr) × Except Byte Place)) : List Nat :=
  tr.filterMap fun t => match t.2 with | .ok (.homed l _) => some l.a | _ => none

/-- An MSV operation: `unit` bytes an element, sources among s[sb], s[sb+1], the count in s[sb+k]. -/
def State.msv (s : State) (f : X3) (sub unit nsrc k : Nat) : Act State := do
  let sb := f.sb.toNat
  let srcs := (List.range (k + 1)).map (sb + ·)
  (f.d.toNat :: f.sa.toNat :: srcs).forM s.checkS
  let xs ← s.readSs (f.sa.toNat :: srcs)
  let c := xs.getD 0 {}
  let ops := (xs.drop 1).take nsrc
  let cnt := (xs.getD (k + 1) {}).val
  let bytes := cnt.toNat * unit
  (c :: ops).forM fun x => need (x.val.toNat % 128 == 0) s cALIGN (x.tag ++ x.val)
  need (bytes % 128 == 0) s cALIGN (cnt.setWidth 72)
  let n := min bytes (2 ^ 20)
  let tc := s.msvTr c .w n
  let ts := ops.map fun x => s.msvTr x .r n
  s.checkTr (if n = 0 then 0 else 128) (tc ++ ts.flatten)
  let ls := ts.map msvLines
  let s := s.writeS f.d.toNat (BitVec.ofNat 64 ((bytes - n) / unit))
  if n = 0 then .ok s
  else do
    s.room kMS
    .ok (s.launchOp (some kMS) (.msv ⟨sub, msvLines tc, ls.headD [], ls.tail.headD [], ((xs.getD 1 {}).val).setWidth 32⟩))

/-- MSVADD.bf16 (R175). -/
def execMsvaddBf16 (f : X3) (s : State) : Host.Outcome State Fault Refusal := finishDone s (s.msv f 0 2 2 2)
/-- MSVADD.f32 (R175). -/
def execMsvaddF32 (f : X3) (s : State) : Host.Outcome State Fault Refusal := finishDone s (s.msv f 1 4 2 2)
/-- MSVMUL.bf16 (R175). -/
def execMsvmulBf16 (f : X3) (s : State) : Host.Outcome State Fault Refusal := finishDone s (s.msv f 2 2 2 2)
/-- MSVFILL (R175). -/
def execMsvfill (f : X3) (s : State) : Host.Outcome State Fault Refusal := finishDone s (s.msv f 3 4 0 1)
/-- MSVCOPY (R175). -/
def execMsvcopy (f : X3) (s : State) : Host.Outcome State Fault Refusal := finishDone s (s.msv f 4 1 1 1)

end Sys2Proof.Machine
end

