-- ==== Sys2Proof/Machine/Atomics.lean ====
section
/-! DEFINITION. Atomics, fences and the default observers (majors 0x2A to 0x2E, SETOBS; R196-R206). -/
namespace Sys2Proof.Machine

/-! ## The operations (R197) -/

/-- The new value of an n-byte atomic; 16 and 17 are PKMAX and PKMIN. -/
def atomNew (n aop old b c : Nat) : Nat :=
  let m := 256 ^ n
  let sg (x : Nat) : Int := if m / 2 ≤ x then (x : Int) - m else x
  match aop with
  | 0 => (old + b) % m
  | 1 => old &&& b
  | 2 => old ||| b
  | 3 => old ^^^ b
  | 4 => if sg b < sg old then b else old
  | 5 => if sg old < sg b then b else old
  | 6 => min old b
  | 7 => max old b
  | 8 => b
  | 9 => if old = c then b else old
  | 10 => (Num.rneF32 ((Num.val Num.f32 old).add (Num.val Num.f32 b))).toNat
  | 11 => Num.maxnum Num.f32 old b
  | 12 => Num.minnum Num.f32 old b
  | 13 => if b ≤ old then 0 else old + 1
  | 14 => if old = 0 ∨ b < old then b else old - 1
  | 16 => max old b
  | _ => min old b

/-- The bytes a lane writes, from what it read: b and, for CAS, c stand in the access's data. -/
def Acc.atomNew (a : Acc) (aop : Nat) (old : List Byte) : List Byte :=
  bytesOf a.size (Machine.atomNew a.size aop (natOf old) (natOf (a.data.take a.size)) (natOf (a.data.drop a.size)))

/-! ## ATOM, ATOM64, ATOMPK, SATOM -/

/-- Registers of the result of returning lanes. -/
def atomLanes (n : Nat) (got : List (Nat × List Byte × Bool)) : List (List Word) × Word :=
  loadLanes .word n (got.map fun g => (g.1, g.2.1.map fun b => (b, g.2.2)))

/-- Lane-private atomics are performed as the instruction issues (R157, R183). -/
def State.privAtomic (s : State) (aop : Nat) (accs : List Acc) : State × List (Nat × List Byte × Bool) :=
  accs.foldl (fun p a =>
    let old := p.1.privBytes p.1.cur.wave a
    if old.any (·.2) then (p.1, p.2 ++ [(a.lane, old.map (·.1), true)])
    else (p.1.privPut p.1.cur.wave { a with data := a.atomNew aop (old.map (·.1)) },
      p.2 ++ [(a.lane, old.map (·.1), false)])) (s.privTouch s.cur.wave accs, [])

/-- A vector atomic of `size` bytes over n registers an operand (R196, R198). -/
def State.atomV (s : State) (f : AF) (size n aop : Nat) : Act State := do
  let act := s.exm
  let vd := f.vd.toNat
  let regs := (List.range (if aop = 9 then 2 * n else n)).map (vd + ·)
  s.checkS f.sa.toNat
  (f.va.toNat :: regs).forM s.checkV
  waitFor ((s.sreg f.sa.toNat).st != .empty)
  let srcs := f.va.toNat :: regs
  s.srcsReady false (srcs.map (·, false)) []
  let base ← s.readS f.sa.toNat
  let (vs, s') ← s.claim act srcs
  let accs ← s.checkG true .rw size size (eaV base (vs.headD {}) size act)
  s.room kAT
  let accs := accs.map fun a => { a with data := storeBytes vs.tail (4 * regs.length) a.lane }
  let s ← (s'.tlbUse accs).commit
  let om := s.orderA f.ord
  let d : Dst := if f.ret = 1 then s.vdst vd n else .none
  if isPrivate accs then
    let r := s.privAtomic aop accs
    if f.ret = 1 then
      let v := atomLanes n r.2
      .ok ((r.1.emptyV vd n).launchOp (some kAT) (.value d act v.1 v.2))
    else .ok r.1
  else if accs.isEmpty && f.ret = 0 then .ok s
  else
    let s := if f.ret = 1 then s.emptyV vd n else s
    .ok (s.launchOp (some kAT) (.atomic aop size accs d [] false) om.1 om.2)

/-- ATOM.aop vd, [sa + va] (R196). -/
def execAtom (f : AF) (s : State) : Host.Outcome State Fault Refusal := finishDone s (s.atomV f 4 1 f.aop.toNat)
/-- ATOM64.aop (R196). -/
def execAtom64 (f : AF) (s : State) : Host.Outcome State Fault Refusal := finishDone s (s.atomV f 8 2 f.aop.toNat)
/-- ATOMPK: PKMAX, PKMIN (R196). -/
def execAtompk (f : AF) (s : State) : Host.Outcome State Fault Refusal :=
  finishDone s (s.atomV f 8 2 (16 + f.aop.toNat))

/-- SATOM.aop sd, [sa], sb: the scalar thread performs it once (R200). -/
def State.satom (s : State) (f : SA) : Act State := do
  let sb := f.sb.toNat
  let aop := f.aop.toNat
  let size := if f.w = 1 then 4 else 8
  let ops := if aop = 9 then [sb, sb + 1] else [sb]
  (f.sd.toNat :: f.sa.toNat :: ops).forM s.checkS
  let xs ← s.readSs (f.sa.toNat :: ops)
  let base := xs.getD 0 {}
  let accs ← s.checkG false .rw size size [(0, base.tag ++ base.val)]
  s.room kAT
  let accs := accs.map fun a => { a with data := xs.tail.flatMap fun x => bytesOf size x.val.toNat }
  let s ← (s.tlbUse accs).commit
  let om := s.orderS
  let d := s.sdst f.sd.toNat 1
  if isPrivate accs then
    let r := s.privAtomic aop accs
    let g := (r.2.map (·.2)).headD ([], false)
    let x : SReg := { val := BitVec.ofNat 64 (natOf g.1), st := if g.2 then .poison else .full }
    .ok ((r.1.emptyS f.sd.toNat).launchOp (some kAT) (.svalue d [x]))
  else .ok ((s.emptyS f.sd.toNat).launchOp (some kAT) (.atomic aop size accs d [] false) om.1 om.2)

/-- SATOM (R200). -/
def execSatom (f : SA) (s : State) : Host.Outcome State Fault Refusal := finishDone s (s.satom f)

/-! ## FENCE, SETOBS -/

/-- FENCE (R202, R203). Of whatever order, one naming E returns only once the wave's maintenance is done (R170, R177). -/
def State.fence (s : State) (ord : Nat) (mask : BitVec 5) : Act State := do
  if ord != 1 then waitFor s.settled
  waitFor (!mask.getLsbD 1 || !(s.flight.any fun o => o.wave == s.cur.wave && match o.kind with
    | .maint .. => true
    | _ => false))
  if ord != 2 then waitFor (!s.pending fun o => o.isLoad || (o.isAtomic && o.dst != .none))
  .ok (if ord = 0 then { s with scOrder := s.scOrder ++ [(s.cur.wave, s.cur.frag, mask)] } else s)

/-- FENCE.ord.oXX (R202). -/
def execFence (ord : BitVec 2) (mask : BitVec 5) (s : State) : Host.Outcome State Fault Refusal :=
  finishDone s (s.fence ord.toNat mask)

/-- SETOBS.ord.oXX (R205). -/
def execSetobs (ord : BitVec 2) (mask : BitVec 5) (s : State) : Host.Outcome State Fault Refusal :=
  finishDone s (.ok (s.modCw fun w => { w with obsd := BitVec.ofNat 8 ((ord.toNat + 1) * 32 + mask.toNat) }))

end Sys2Proof.Machine
end

