-- ==== Sys2Proof/Machine/Control.lean ====
section
/-! DEFINITION. Prefixes, branches, jumps, carving, merging and ending, ELECT, piste width, the extended block and EXM
(majors 0x1E to 0x20, 0x3F, and part of 0x37; R54, R131-R146). -/
namespace Sys2Proof.Machine

/-! ## Prefixes (R48, R54, R55) -/

/-- The prefix of the unit: the unit goes on with the next instruction. A second prefix raises ILL. -/
def State.prefix (s : State) (p : Pfx) : Act State := do
  need s.cur.pfx.isNone s cILL
  .ok { s with cur := { s.cur with pfx := some p, pc := s.cur.nxt, opened := true } }

/-- IMMX: the high bits of the next instruction's immediate (R54). -/
def execImmx (payload : BitVec 21) (s : State) : Host.Outcome State Fault Refusal := finish s (s.prefix (.immx payload))
/-- OBS: order and observers of the next instruction (R54). -/
def execObs (ord : BitVec 3) (mask : BitVec 5) (s : State) : Host.Outcome State Fault Refusal :=
  finish s (s.prefix (.obs ord mask))
/-- HINT: placement and timing only (R54). -/
def execHint (h : BitVec 3) (s : State) : Host.Outcome State Fault Refusal := finish s (s.prefix (.hint h))
/-- REP: the next instruction runs count times (R54). -/
def execRep (stepB stepA : BitVec 1) (stride : BitVec 2) (cnt : BitVec 6) (s : State) :
    Host.Outcome State Fault Refusal := finish s (s.prefix (.rep stepB stepA stride cnt))
/-- ROLE: a role operand (R54). -/
def execRole (r : BitVec 6) (s : State) : Host.Outcome State Fault Refusal := finish s (s.prefix (.role r))
/-- PREDX: the predicate of the next instruction (R54). -/
def execPredx (neg : BitVec 1) (k : BitVec 3) (s : State) : Host.Outcome State Fault Refusal :=
  finish s (s.prefix (.predx neg k))

/-! ## Branches and jumps (R136-R140) -/

/-- A branch whose condition is known. -/
def State.branch (s : State) (taken : Bool) (disp : BitVec 16) : State :=
  s.goto (if taken then s.target disp else s.cur.nxt)

/-- A branch on a scalar. -/
def State.branchS (s : State) (f : BR) (c : DWord → Bool) : Act State := do
  let x ← s.readS f.sa.toNat
  .ok (s.branch (c x.val) f.disp)

/-- A branch on a predicate and the fragment's EXM. -/
def State.branchK (s : State) (f : BR) (c : Word → Word → Bool) : Act State :=
  .ok (s.branch (c (s.cw.pred f.sa.toNat) s.exm) f.disp)

/-- BZ sa, label (R136). -/
def execBz (f : BR) (s : State) : Host.Outcome State Fault Refusal := finish s (s.branchS f takenZ)
/-- BNZ sa, label (R136). -/
def execBnz (f : BR) (s : State) : Host.Outcome State Fault Refusal := finish s (s.branchS f takenNZ)
/-- BLZ sa, label (R136). -/
def execBlz (f : BR) (s : State) : Host.Outcome State Fault Refusal := finish s (s.branchS f takenLZ)
/-- BGEZ sa, label (R136). -/
def execBgez (f : BR) (s : State) : Host.Outcome State Fault Refusal := finish s (s.branchS f takenGEZ)
/-- BKANY ka, label (R136). -/
def execBkany (f : BR) (s : State) : Host.Outcome State Fault Refusal := finish s (s.branchK f takenKAny)
/-- BKALL ka, label (R136). -/
def execBkall (f : BR) (s : State) : Host.Outcome State Fault Refusal := finish s (s.branchK f takenKAll)
/-- BKNONE ka, label (R136). -/
def execBknone (f : BR) (s : State) : Host.Outcome State Fault Refusal := finish s (s.branchK f takenKNone)

/-- BRV (R22, R23, R137): the fragment branches or falls through whole, or the smaller side is detached. -/
def State.brv (s : State) (f : BR) : Act State := do
  need (!s.cw.handling) s cILL
  let m := s.cf.exm
  let k := s.cw.pred f.sa.toNat
  let T := m &&& k
  let N := m &&& ~~~ k
  let tgt := s.target f.disp
  if T = 0 then .ok (s.goto s.cur.nxt)
  else if N = 0 then .ok (s.goto tgt)
  else do
    need (s.cw.liveFrags.length < 8) s cFRAGOVF
    need (s.cf.depth < 16) s cDEPTH
    let w := s.cur.wave
    let s := s.issued
    .ok (if popcount T ≤ popcount N then s.carve w s.cur.frag T N tgt s.cur.nxt
      else s.carve w s.cur.frag N T s.cur.nxt tgt)

/-- BRV ka, label (R137). -/
def execBrv (f : BR) (s : State) : Host.Outcome State Fault Refusal := finish s (s.brv f)

/-- JMP label (R138). -/
def execJmp (disp : BitVec 24) (s : State) : Host.Outcome State Fault Refusal := finish s (.ok (s.goto (s.target disp)))

/-- CALL label: s63 := PC + 4, tag 0 (R138). A handler has no register 63. -/
def execCall (disp : BitVec 24) (s : State) : Host.Outcome State Fault Refusal :=
  finish s do
    s.checkS 63
    .ok ((s.writeS 63 s.cur.nxt).goto (s.target disp))

/-- The target of a register jump: tag 0x00, else TAG; bit 0 clear, else ALIGN (R139). With both, TAG: the spec does not say
which. DESIGN CHOICE, log 91. -/
def State.jumpTo (s : State) (r : Nat) : Act DWord := do
  let x ← s.readS r
  need (x.tag == 0) s cTAG (x.tag ++ x.val)
  need (!x.val.getLsbD 0) s cALIGN (x.tag ++ x.val)
  .ok x.val

/-- JR sa (R139). -/
def execJr (sa : BitVec 6) (s : State) : Host.Outcome State Fault Refusal :=
  finish s ((s.jumpTo sa.toNat).map s.goto)

/-- CALLR sa: the target is read before s63 is written (R139). -/
def execCallr (sa : BitVec 6) (s : State) : Host.Outcome State Fault Refusal :=
  finish s do
    s.checkS 63
    let t ← s.jumpTo sa.toNat
    .ok ((s.writeS 63 s.cur.nxt).goto t)

/-- RET (R139). -/
def execRet (s : State) : Host.Outcome State Fault Refusal := finish s ((s.jumpTo 63).map s.goto)

/-! ## Merging and ending -/

/-- JOIN (R26, R141): NOP32 at depth 0, else the fragment parks, and a complete group merges. -/
def State.join (s : State) : Act State := do
  need (!s.cw.handling) s cILL
  if s.cf.depth = 0 then .ok s.done
  else
    let n := s.seq
    let w := s.cur.wave
    .ok ((s.issued.modCf fun f => { f with park := .join, parkSeq := n }).merge w)

def execJoin (s : State) : Host.Outcome State Fault Refusal := finish s s.join

/-- EXIT (R27, R142): the lanes of EXM leave; with the whole lane set active the fragment exits. -/
def State.exit (s : State) : Act State := do
  need (!s.cw.handling) s cILL
  let m := s.cf.exm
  let l := s.cf.lanes
  if m = l then .ok (s.issued.exitFrag s.cur.wave s.cur.frag)
  else .ok ((s.modCf fun f => { f with lanes := l &&& ~~~ m, exm := if m = 0 then 0 else l &&& ~~~ m }).done)

def execExit (s : State) : Host.Outcome State Fault Refusal := finish s s.exit

/-- YIELD: only the order of issue (R143), which step keeps for every unit by taking the fragment that issued longest
ago. -/
def execYield (s : State) : Host.Outcome State Fault Refusal := finish s (.ok s.done)

/-- NOP32 (R143). -/
def execNop32 (s : State) : Host.Outcome State Fault Refusal := finish s (.ok s.done)

/-- BKPT code: cause 0x12 with TRAPA = code (R143). -/
def execBkpt (code : BitVec 7) (s : State) : Host.Outcome State Fault Refusal :=
  finish s (fault s cBKPT (code.setWidth 72))

/-- ELECT sd: the lowest lane of EXM, or 32; the next instruction of the unit runs in that lane only (R144). -/
def State.election (s : State) (sd : Nat) : Act State := do
  s.checkS sd
  need (s.cur.pfx.isNone && s.cur.elect.isNone) s cILL
  let l := lowest s.exm
  let old := s.sreg sd
  let e : Word := if l < 32 then 1#32 <<< l else 0
  let t := s.writeS sd (BitVec.ofNat 64 l)
  .ok { t with cur := { s.cur with elect := some e, undo := some (sd, old), pc := s.cur.nxt, opened := true } }

def execElect (sd : BitVec 6) (s : State) : Host.Outcome State Fault Refusal := finish s (s.election sd.toNat)

/-! ## Piste width, the extended block, EXM -/

/-- VPART n (R131). -/
def execVpart (n : BitVec 7) (s : State) : Host.Outcome State Fault Refusal :=
  finishDone s (.ok (s.modCw fun w => { w with piste := n.setWidth 6 }))

/-- Extended blocks held on a partition (R30). -/
def State.heldBlocks (s : State) (part : Nat) : List Nat :=
  s.waves.filterMap fun w => if w.held && w.partNo == part && w.mode != .ended then some (field w.xbh.toNat 1 3) else none

/-- A free block of the partition. -/
def State.freeBlock (s : State) (part : Nat) : Option Nat :=
  (List.range 8).find? fun b => !(s.heldBlocks part).contains b

/-- The places in issue order of the wave's VXACQs that wait for a block. -/
def Wave.vxSeqs (w : Wave) : List Nat :=
  if w.held then [] else w.frags.filterMap fun f => match f.live, f.park with | true, .vx _ => some f.parkSeq | _, _ => none

/-- The place in issue order of the oldest request for a block of the partition: a VXACQ, or a wave resumed with one. -/
def State.oldestVx (s : State) (part : Nat) : Option Nat :=
  (s.waves.flatMap fun w => if w.partNo == part && (s.gang w.gang).placed && w.mode != .ended then
    w.blk.toList ++ w.vxSeqs else []).min?

/-- Grant block b to a wave: v40-v55 are 0, FULL, not poisoned (R132). -/
def Wave.grant (w : Wave) (b : Nat) : Wave :=
  { w with xbh := BitVec.ofNat 5 (1 + 2 * b), v := w.v.take 40 ++ List.replicate 16 {} }

/-- The oldest request of a partition gets a free block: a resumed wave takes the contents its saved state holds, a VXACQ
completes with zeros (R30, R45, R132). -/
def State.grantBlock (s : State) (part : Nat) : State :=
  match s.freeBlock part, s.oldestVx part with
  | some b, some q =>
    { s with waves := s.waves.map fun w =>
      if w.partNo = part && w.blk == some q then { w with xbh := BitVec.ofNat 5 (1 + 2 * b), blk := none }
      else if w.partNo = part && w.vxSeqs.contains q then w.grant b else w }
  | _, _ => s

/-- Waves that wait for a block get one when it is free and their turn has come (R30). -/
def State.grantBlocks (s : State) : State :=
  (s.waves.filter fun w => w.blk.isSome || !w.vxSeqs.isEmpty).foldl (fun s w => s.grantBlock w.partNo) s

/-- Core cycles that have passed since a TIME, at the island's clock (R14). -/
def State.cycles (s : State) (w : Wave) (since : Nat) : Nat :=
  let f := s.mhz w.clusterNo
  (s.time - since) * f / 1000

/-- VXACQ (R30, R132). -/
def State.vxacq (s : State) : Act State := do
  need (s.cw.liveFrags.length ≤ 1 && s.cf.depth == 0 && s.crole.xb) s cXBLK
  if s.cw.held then .ok s.done
  else
    let part := s.cw.partNo
    let old := s.oldestVx part
    let grant (s : State) : State := (s.modCw fun w =>
      match s.freeBlock part with | some b => w.grant b | none => w).done
    match s.cf.park with
    | .vx since =>
      if (s.freeBlock part).isSome && old == some s.cf.parkSeq then .ok (grant s)
      else if 2 ^ 20 < s.cycles s.cw since then fault (s.modCw fun w => { w with xbh := 0 }) cXWAIT
      else .error .wait
    | _ =>
      if (s.freeBlock part).isSome && old.isNone then .ok (grant s)
      else
        let n := s.seq
        .error (.keep ({ s with seq := n + 1 }.modCw fun w => { (w.modFrag s.cur.frag fun f =>
          { f with park := .vx s.time, parkSeq := n }) with xbh := 16 }))

def execVxacq (s : State) : Host.Outcome State Fault Refusal := finish s s.vxacq

/-- VXREL (R133): it waits for producers into v40-v55, and hands the block to the oldest request that waits. -/
def State.vxrel (s : State) : Act State := do
  need (s.cw.liveFrags.length ≤ 1 && s.cf.depth == 0) s cXBLK
  if s.cw.held then do
    waitFor ((s.cw.v.drop 40).all fun r => !r.empty)
    .ok ((s.modCw fun w => { w with xbh := 0, v := w.v.take 40 ++ List.replicate 16 {} }).grantBlock s.cw.partNo)
  else .ok s

def execVxrel (s : State) : Host.Outcome State Fault Refusal := finishDone s s.vxrel

/-- EXMASK ka, mode (R135). After an ELECT of its unit it works on the fragment's own EXM, not the narrowed one, and what it
writes stays: R144 and R135 leave that open. DESIGN CHOICE, log 92. -/
def State.exmask (s : State) (a mode : Nat) : Act State := do
  need (!s.cw.handling) s cILL
  let k := s.cw.pred a
  .ok (s.modCf fun f => { f with exm := if mode = 0 then f.exm &&& k else if mode = 1 then f.lanes &&& k else f.lanes })

def execExmask (mode : BitVec 7) (a : BitVec 6) (s : State) : Host.Outcome State Fault Refusal :=
  finishDone s (s.exmask a.toNat mode.toNat)

/-- XWAIT (R30, R132): a VXACQ that has waited more than 2^20 core cycles, and is not next for a free block, raises XWAIT,
and the wave holds no block. -/
def State.xwait? (s : State) (w : Nat) : Option State :=
  let x := s.wave w
  let next (f : Frag) : Bool := x.held || ((s.freeBlock x.partNo).isSome && s.oldestVx x.partNo == some f.parkSeq)
  (x.liveFrags.find? fun f => match (x.frags.getD f {}).park with
    | .vx t => decide (2 ^ 20 < s.cycles x t) && !next (x.frags.getD f {})
    | _ => false).map fun f =>
      let pc := if x.handling then x.hpc else (x.frags.getD f {}).pc
      let s := { s with cur := { wave := w, frag := f, start := pc, pc := pc, nxt := pc + 4 } }
      (s.modCw fun x => { x with xbh := 0 }).takeTrap ⟨cXWAIT, 0, 0, false⟩

def execXwait (w : Nat) (s : State) : Host.Outcome State Fault Refusal := .next ((s.xwait? w).getD s)

end Sys2Proof.Machine
end

