-- ==== Sys2Proof/Machine/Fabric.lean ====
section
/-! DEFINITION. The fabric's flits and how a port sends them (R385-R388): header, CRC, sequence numbers by link and virtual
channel, replay, rates. -/
namespace Sys2Proof.Machine

/-! ## Flits (R386) -/

/-- CRC-64 of R386, most significant bit first from 0. DESIGN CHOICE: the spec gives the polynomial alone. -/
def crcByte (c : DWord) (b : Byte) : DWord :=
  (List.range 8).foldl (fun c _ => if c.getLsbD 63 then (c <<< 1) ^^^ 0x42F0E1EBA9EA3693 else c <<< 1)
    (c ^^^ (b.setWidth 64 <<< 56))

def crc64 (bs : List Byte) : DWord := bs.foldl crcByte 0

def flitCrc (hdr : DWord) (payload : List Byte) : DWord := crc64 (bytesOf 8 hdr.toNat ++ payload)

def flitVc (f : Flit) : Nat := field f.hdr.toNat 0 2
def flitKind (f : Flit) : Nat := field f.hdr.toNat 2 2
def flitSeq (f : Flit) : BitVec 12 := BitVec.ofNat 12 (field f.hdr.toNat 4 12)
def flitAckSeq (f : Flit) : BitVec 12 := BitVec.ofNat 12 (field f.hdr.toNat 16 12)
def flitNak (f : Flit) : Bool := field f.hdr.toNat 28 1 == 1
def flitLen (f : Flit) : Nat := field f.hdr.toNat 29 5

/-- The valid payload of a flit. -/
def flitData (f : Flit) : List Byte := f.payload.take (8 * flitLen f)

/-- A flit that is not discarded as a CRC failure. -/
def flitGood (f : Flit) : Bool :=
  f.crc == flitCrc f.hdr f.payload && field f.hdr.toNat 34 30 = 0 && (flitLen f) ≤ 30 && f.payload.length = 240

/-- A flit from its fields; the payload is filled with 0. -/
def mkFlit (vc kind : Nat) (seq ack : BitVec 12) (nak : Bool) (data : List Byte) : Flit :=
  let d := data.take 240
  let hdr := BitVec.ofNat 64 (vc % 4 + kind % 4 * 4 + seq.toNat * 2 ^ 4 + ack.toNat * 2 ^ 16
    + (if nak then 2 ^ 28 else 0) + (d.length + 7) / 8 * 2 ^ 29)
  let p := d ++ List.replicate (240 - d.length) 0
  ⟨hdr, p, flitCrc hdr p⟩

/-! ## Ports and links -/

def State.port (s : State) (p : Nat) : Port := s.ports.getD p {}
def State.modPort (s : State) (p : Nat) (f : Port → Port) : State := { s with ports := s.ports.modify p f }

def State.peerLink (s : State) (l : Nat) : PeerLink := s.links.getD l {}
def State.modPeerLink (s : State) (l : Nat) (f : PeerLink → PeerLink) : State := { s with links := s.links.modify l f }

/-- The link that a port carries; one joined to none carries nothing. -/
def State.linkOf (s : State) (p : Nat) : PeerLink := match (s.port p).link with | some l => s.peerLink l | none => {}

/-- DATA flits of a channel that the ports of a link have put on the wire and that are not acknowledged. -/
def State.unacked (s : State) (l : PeerLink) (vc : Nat) : Nat :=
  l.ports.foldl (fun n p => n + ((s.port p).replay.filter fun f => flitVc f.2 == vc).length) 0

/-- x comes before a in a channel's sequence, modulo 2^12. -/
def seqBefore (x a : BitVec 12) : Bool := (x - a).msb

/-- A port may put a DATA flit of the channel and the device on the wire now: within the rate announced to it for the channel
and within the device's cap, in the last microsecond (R388). -/
def State.inRate (s : State) (p : Port) (vc vd : Nat) : Bool :=
  let recent := p.window.filter fun w => s.time < w.2.2 + 1000
  (recent.filter fun w => w.1 == vc).length < (p.rates.getD vc 0).toNat
    && match (s.vd vd).cap with | some c => decide ((recent.filter fun w => w.2.1 == vd).length < c) | none => true

/-- A new DATA flit: none of its channel waits to be replayed, the port has fewer than 1,024 unacknowledged (R387), and the
channel of the link fewer than 2,048, half of what the sequence numbers tell apart. DEDUCED, log 101. -/
def State.maySend (s : State) (p : Port) (o : Outgoing) : Bool :=
  s.inRate p o.vc o.vd && p.replay.length < 1024 && !(p.again.any fun f => flitVc f.2 == o.vc)
    && match p.link with | some l => s.unacked (s.peerLink l) o.vc < 2048 | none => false

/-- The replay that may go now: of each channel only its oldest. -/
def State.mayReplay (s : State) (p : Port) (f : Nat × Flit) : Bool :=
  s.inRate p (flitVc f.2) f.1 && (p.again.find? fun g => flitVc g.2 == flitVc f.2) == some f

/-- A flit goes on the wire. -/
def Port.put (p : Port) (now vd : Nat) (f : Flit) : Port :=
  { p with sent := p.sent ++ [f], window := (flitVc f, vd, now) :: p.window.filter fun w => now < w.2.2 + 1000 }

/-- Send what may be sent, replays first: a channel that waits does not hold back another (R386). -/
def State.flush (s : State) (i : Nat) : Nat → State
  | 0 => s
  | n + 1 =>
    let p := s.port i
    if !p.up then s
    else match p.again.find? (s.mayReplay p) with
      | some f => (s.modPort i fun p => { p with again := p.again.erase f }.put s.time f.1 f.2).flush i n
      | none => match p.out.find? (s.maySend p), p.link with
        | some o, some l =>
          let f := mkFlit o.vc 0 ((s.peerLink l).sendSeq.getD o.vc 0) ((s.peerLink l).recvSeq.getD o.vc 0) false o.payload
          ((s.modPort i fun p => { p with replay := p.replay ++ [(o.vd, f)], out := p.out.erase o }.put s.time o.vd f).modPeerLink
            l fun x => { x with sendSeq := x.sendSeq.modify o.vc (· + 1) }).flush i n
        | _, _ => s

/-- What a port has to send. -/
def State.toSend (s : State) (i : Nat) : Nat := (s.port i).again.length + (s.port i).out.length

/-- Give contents to the first port of a link that is up, or, while none is, to its first port. -/
def State.sendLink (s : State) (link : Nat) (o : Outgoing) : State :=
  match ((s.peerLink link).ports.find? fun p => (s.port p).up).or (s.peerLink link).ports.head? with
  | none => s
  | some p => (s.modPort p fun x => { x with out := x.out ++ [o] }).flush p 1

/-- A control flit of a channel: an ACK, with or without NAK, or a RATE. -/
def State.control (s : State) (i kind vc : Nat) (nak : Bool) (data : List Byte) : State :=
  s.modPort i fun x => { x with sent := x.sent ++ [mkFlit vc kind 0 ((s.linkOf i).recvSeq.getD vc 0) nak data] }

/-- A RATE flit: the port announces what it takes on each channel, which the spec does not fix: free (R388). -/
def State.announce (s : State) (i : Nat) : State :=
  let rs : List (BitVec 16) := (List.range 4).map fun v => (Config.freeWord (s.free + v)).setWidth 16
  let t : State := { s with free := s.free + 4 }
  (t.modPort i fun p => { p with announce := rs }).control i 2 3 false (rs.flatMap fun r => bytesOf 2 r.toNat)

/-- The far end of a link has every flit of a channel before `a`. An `a` that no outstanding flit accounts for says nothing. -/
def State.acked (s : State) (link vc : Nat) (a : BitVec 12) : State :=
  let l := s.peerLink link
  let held (f : Nat × Flit) : Bool := !(flitVc f.2 == vc && seqBefore (flitSeq f.2) a)
  if (l.sendSeq.getD vc 0 - a).toNat ≤ s.unacked l vc then
    l.ports.foldl (fun s i => s.modPort i fun p =>
      let kept := p.replay.filter held
      { p with replay := kept, again := p.again.filter held
               replays := p.replays.filter fun r => kept.any fun f => flitVc f.2 == r.1 && (flitSeq f.2).toNat == r.2.1 }) s
  else s

/-- Count one more replay of a flit. -/
def Port.again1 (p : Port) (f : Flit) : Port :=
  let n := ((p.replays.find? fun r => r.1 == flitVc f && r.2.1 == (flitSeq f).toNat).map (·.2.2)).getD 0
  { p with replays := (flitVc f, (flitSeq f).toNat, n + 1) ::
      p.replays.filter fun r => !(r.1 == flitVc f && r.2.1 == (flitSeq f).toNat) }

/-- A flit of the port has been replayed 16 times in a row (R387). -/
def Port.stuck (p : Port) : Bool := p.replays.any fun r => 16 ≤ r.2.2

/-- A NAK: what the channel has outstanding is to be replayed (R387). -/
def State.nacked (s : State) (link vc : Nat) (a : BitVec 12) : State :=
  (s.peerLink link).ports.foldl (fun s i => s.modPort i fun p =>
    let mine := p.replay.filter fun f => flitVc f.2 == vc
    if mine.isEmpty then p
    else mine.foldl (fun p f => p.again1 f.2) { p with again := (p.again.filter fun f => flitVc f.2 != vc) ++ mine })
    (s.acked link vc a)

/-- Every port of a link sends what it may. -/
def State.flushLink (s : State) (link : Nat) : State :=
  (s.peerLink link).ports.foldl (fun s i => s.flush i (s.toSend i)) s

/-! ## Requests to peers (R163, R388, R390) -/

/-- The peer slots among some places, each once. -/
def slotsOf (ps : List Place) : List Nat :=
  (ps.filterMap fun p => match p with | .peer sl _ => some sl | _ => none).eraseDups

/-- The port that takes the next contents of a link. -/
def State.nextPort (s : State) (link : Nat) : Option Nat :=
  ((s.peerLink link).ports.find? fun p => (s.port p).up).or (s.peerLink link).ports.head?

/-- The peer link that carries a slot (R389). -/
def State.slotLink (s : State) (d slot : Nat) : Nat := field ((s.vd d).peers.getD slot 0).toNat 22 5

/-- The device may put a request on channel 0 for each slot of the places now: within the announced rate and its cap (R388). On a
link that is down the access fails without one (R393). -/
def State.mayAsk (s : State) (d : Nat) (ps : List Place) : Bool :=
  (slotsOf ps).all fun sl => s.slotDown d sl || match s.nextPort (s.slotLink d sl) with
    | some p => (s.port p).up && !((s.port p).out.any fun o => o.vc == 0) && s.maySend (s.port p) ⟨0, d, []⟩
    | none => false

/-- A request goes out for each slot of the places: one DATA flit on channel 0, with the bytes it writes. DESIGN CHOICE: the spec
gives requests no layout, log 99. -/
def State.ask (s : State) (d : Nat) (ps : List Place) (bs : List Byte) : State :=
  (slotsOf ps).foldl (fun s sl => if s.slotDown d sl then s else s.sendLink (s.slotLink d sl) ⟨0, d, bs.take 240⟩) s

/-! ## Responses to inbound accesses (R390) -/

/-- The response of an inbound access that has been performed goes back on channel 1: a byte 0 and the data, a byte 2 where
the data is poisoned, in as many flits as they fill. DESIGN CHOICE: the spec gives responses no layout, log 99. -/
def State.respond (s : State) (o : Op) (bs : List (Byte × Bool)) : State :=
  match o.answer with
  | some (l, d) =>
    let r : List Byte := (if bs.any (·.2) then 2 else 0) :: bs.map (·.1)
    (List.range ((r.length + 239) / 240)).foldl (fun s i => s.sendLink l ⟨1, d, (r.drop (240 * i)).take 240⟩) s
  | none => s

end Sys2Proof.Machine
end

