-- ==== Sys2Proof/Machine/Vector.lean ====
section
/-! DEFINITION. Vector integer, immediate, floating-point, conversion and dot-product instructions, and the compact
forms (majors 0x01 to 0x12; R50, R104-R114). -/
namespace Sys2Proof.Machine

/-! ## Values of one lane -/

def sat32 (i : Int) : Word := BitVec.ofInt 32 (max (-(2 : Int) ^ 31) (min (2 ^ 31 - 1) i))
def addSatS (a b : Word) : Word := sat32 (a.toInt + b.toInt)
def addSatZ (a b : Word) : Word := BitVec.ofNat 32 (min (a.toNat + b.toNat) 0xFFFFFFFF)
/-- Bits 63:32 of the signed product. -/
def mulHiS (a b : Word) : Word := BitVec.ofInt 32 (a.toInt * b.toInt / 2 ^ 32)
def mulHiZ (a b : Word) : Word := BitVec.ofNat 32 (a.toNat * b.toNat / 2 ^ 32)
def mad (a b d : Word) : Word := a * b + d
def andn (a b : Word) : Word := a &&& ~~~ b
/-- Shift counts are b[4:0]. -/
def cnt5 (b : Word) : Nat := b.toNat % 32
def shl (a b : Word) : Word := a <<< cnt5 b
def shrZ (a b : Word) : Word := a >>> cnt5 b
def shrS (a b : Word) : Word := a.sshiftRight (cnt5 b)
def rotl (a b : Word) : Word := a.rotateLeft (cnt5 b)
def minS (a b : Word) : Word := if a.slt b then a else b
def maxS (a b : Word) : Word := if a.slt b then b else a
def minZ (a b : Word) : Word := if a.ult b then a else b
def maxZ (a b : Word) : Word := if a.ult b then b else a
def popc (a : Word) : Word := BitVec.ofNat 32 (popcount a)

def fadd (a b : Word) : Word := Num.rneF32 ((Num.vf a).add (Num.vf b))
def fsub (a b : Word) : Word := Num.rneF32 ((Num.vf a).add (Num.vf b).neg)
def fmul (a b : Word) : Word := Num.rneF32 ((Num.vf a).mul (Num.vf b))
/-- Exact before the one rounding (R80). -/
def ffma (a b d : Word) : Word := Num.rneF32 (((Num.vf a).mul (Num.vf b)).add (Num.vf d))
def fmin (a b : Word) : Word := BitVec.ofNat 32 (Num.minnum Num.f32 a.toNat b.toNat)
def fmax (a b : Word) : Word := BitVec.ofNat 32 (Num.maxnum Num.f32 a.toNat b.toNat)
def canonF32 : Word := 0x7FC00000
def fabs (a : Word) : Word := if Num.isNan Num.f32 a.toNat then canonF32 else a &&& 0x7FFFFFFF
def fneg (a : Word) : Word := if Num.isNan Num.f32 a.toNat then canonF32 else a ^^^ 0x80000000

/-- Two 16-bit elements of a lane, each apart (R79, R112). -/
def pack2 (f : Nat → Nat → Nat → Nat) (a b d : Word) : Word :=
  BitVec.ofNat 32 (f (field a.toNat 0 16) (field b.toNat 0 16) (field d.toNat 0 16) % 2 ^ 16
    + f (field a.toNat 16 16) (field b.toNat 16 16) (field d.toNat 16 16) % 2 ^ 16 * 2 ^ 16)
def elFma (F : Num.Fmt) (a b d : Nat) : Nat := Num.round F .rne (((Num.val F a).mul (Num.val F b)).add (Num.val F d))
def elMul (F : Num.Fmt) (a b _d : Nat) : Nat := Num.round F .rne ((Num.val F a).mul (Num.val F b))
def elAdd (F : Num.Fmt) (a b _d : Nat) : Nat := Num.round F .rne ((Num.val F a).add (Num.val F b))
def elMax (F : Num.Fmt) (a b _d : Nat) : Nat := Num.maxnum F a b

/-- Element j of w bits, signed when sg (R114). -/
def elem (x : Word) (w j : Nat) (sg : Bool) : Int :=
  let v := field x.toNat (w * j) w
  if sg && 2 ^ (w - 1) ≤ v then (v : Int) - 2 ^ w else v
/-- d + Σ a_j × b_j, wrapped or saturated (R114). -/
def dotp (n : Nat) (sat ga gb : Bool) (a b d : Word) : Word :=
  let w := 32 / n
  let t := (List.range n).foldl (fun acc j => acc + elem a w j ga * elem b w j gb) d.toInt
  if sat then sat32 t else BitVec.ofInt 32 t

/-- Replace n bits at `lo` (a conversion that writes part of a lane keeps the rest of vd, R113). -/
def putField (d : Word) (lo n v : Nat) : Word :=
  BitVec.ofNat 32 (d.toNat - field d.toNat lo n * 2 ^ lo + v % 2 ^ n * 2 ^ lo)

def modeOf (m : BitVec 2) : Num.Mode :=
  match m.toNat with | 0 => .rne | 1 => .rz | 2 => .rdn | _ => .rup

/-- Selectors that write part of a lane: vd is a source (R113). -/
def cvtUsesVd (sel : Nat) : Bool := (4 ≤ sel && sel ≤ 7) || (12 ≤ sel && sel ≤ 19) || (28 ≤ sel && sel ≤ 35)

/-- The conversion of a selector (R81, R113). -/
def cvtLane (sel : Nat) (m : Num.Mode) (a d : Word) : Word :=
  let x := Num.vf a
  let an := a.toNat
  let ofF (f : Num.Fmt) (b : Nat) : Word := Num.rneF32 (Num.val f b)
  if sel = 0 then BitVec.ofInt 32 (Num.cvtInt (-(2 : Int) ^ 31) (2 ^ 31 - 1) m x)
  else if sel = 1 then BitVec.ofInt 32 (Num.cvtInt 0 (2 ^ 32 - 1) m x)
  else if sel = 2 then BitVec.ofNat 32 (Num.round Num.f32 m (Num.ofInt a.toInt))
  else if sel = 3 then BitVec.ofNat 32 (Num.round Num.f32 m (Num.ofInt an))
  else if sel < 6 then putField d (16 * (sel - 4)) 16 (Num.round Num.h16 m x)
  else if sel < 8 then putField d (16 * (sel - 6)) 16 (Num.round Num.bf16 m x)
  else if sel < 10 then ofF Num.h16 (field an (16 * (sel - 8)) 16)
  else if sel < 12 then ofF Num.bf16 (field an (16 * (sel - 10)) 16)
  else if sel < 16 then putField d (8 * (sel - 12)) 8 (Num.round Num.e4m3 m x)
  else if sel < 20 then putField d (8 * (sel - 16)) 8 (Num.round Num.e5m2 m x)
  else if sel < 24 then ofF Num.e4m3 (field an (8 * (sel - 20)) 8)
  else if sel < 28 then ofF Num.e5m2 (field an (8 * (sel - 24)) 8)
  else if sel < 36 then putField d (4 * (sel - 28)) 4 (Num.round Num.e2m1 m x)
  else if sel < 40 then
    let h (i : Nat) := Num.round Num.h16 .rne (Num.val Num.e2m1 (field an (8 * (sel - 36) + 4 * i) 4))
    BitVec.ofNat 32 (h 0 + h 1 * 2 ^ 16)
  else if sel < 44 then ofF Num.e3m2 (field an (6 * (sel - 40)) 6)
  else ofF Num.e2m3 (field an (6 * (sel - 44)) 6)

/-- A NaN pattern of any payload becomes the canonical one (R58). -/
def canonNan (x : Word) : Word := if Num.isNan Num.f32 x.toNat then canonF32 else x

/-! ## The instructions -/

/-- C.MOV vd, vs is VOR vd, vs, vs (R50). -/
def execCMov (f : CReg) (s : State) : Host.Outcome State Fault Refusal :=
  finishDone s (s.vbin ⟨0, 0, 0, 0, f.vs.setWidth 6, f.vs.setWidth 6, f.vd⟩ (· ||| ·))

/-- CADD vd, vs, with vd as destination and first source (R50). -/
def execCAdd (f : CReg) (s : State) : Host.Outcome State Fault Refusal :=
  finishDone s (s.vbin (cregVF f) (· + ·))

/-- CSUB vd, vs, with vd as destination and first source (R50). -/
def execCSub (f : CReg) (s : State) : Host.Outcome State Fault Refusal :=
  finishDone s (s.vbin (cregVF f) (· - ·))

/-- CMUL vd, vs, with vd as destination and first source (R50). -/
def execCMul (f : CReg) (s : State) : Host.Outcome State Fault Refusal :=
  finishDone s (s.vbin (cregVF f) (· * ·))

/-- CAND vd, vs, with vd as destination and first source (R50). -/
def execCAnd (f : CReg) (s : State) : Host.Outcome State Fault Refusal :=
  finishDone s (s.vbin (cregVF f) (· &&& ·))

/-- COR vd, vs, with vd as destination and first source (R50). -/
def execCOr (f : CReg) (s : State) : Host.Outcome State Fault Refusal :=
  finishDone s (s.vbin (cregVF f) (· ||| ·))

/-- CXOR vd, vs, with vd as destination and first source (R50). -/
def execCXor (f : CReg) (s : State) : Host.Outcome State Fault Refusal :=
  finishDone s (s.vbin (cregVF f) (· ^^^ ·))

/-- CSHL vd, vs, with vd as destination and first source (R50). -/
def execCShl (f : CReg) (s : State) : Host.Outcome State Fault Refusal :=
  finishDone s (s.vbin (cregVF f) (shl))

/-- CSHRZ vd, vs, with vd as destination and first source (R50). -/
def execCShrz (f : CReg) (s : State) : Host.Outcome State Fault Refusal :=
  finishDone s (s.vbin (cregVF f) (shrZ))

/-- CFADD vd, vs, with vd as destination and first source (R50). -/
def execCFadd (f : CReg) (s : State) : Host.Outcome State Fault Refusal :=
  finishDone s (s.vbin (cregVF f) (fadd))

/-- CFSUB vd, vs, with vd as destination and first source (R50). -/
def execCFsub (f : CReg) (s : State) : Host.Outcome State Fault Refusal :=
  finishDone s (s.vbin (cregVF f) (fsub))

/-- CFMUL vd, vs, with vd as destination and first source (R50). -/
def execCFmul (f : CReg) (s : State) : Host.Outcome State Fault Refusal :=
  finishDone s (s.vbin (cregVF f) (fmul))

/-- CFMAX vd, vs, with vd as destination and first source (R50). -/
def execCFmax (f : CReg) (s : State) : Host.Outcome State Fault Refusal :=
  finishDone s (s.vbin (cregVF f) (fmax))

/-- CFMIN vd, vs, with vd as destination and first source (R50). -/
def execCFmin (f : CReg) (s : State) : Host.Outcome State Fault Refusal :=
  finishDone s (s.vbin (cregVF f) (fmin))

/-- C.ADDI: VADDI vd, vd, sext(imm5) (R50). -/
def execCAddi (f : CImm) (s : State) : Host.Outcome State Fault Refusal :=
  finishDone s (s.vimm ⟨0, 0, 0, 0, f.vd, f.vd⟩ fun a => a + f.imm.signExtend 32)

/-- C.SHLI: VSHLI vd, vd, zext(imm5) (R50). -/
def execCShli (f : CImm) (s : State) : Host.Outcome State Fault Refusal :=
  finishDone s (s.vimm ⟨0, 0, 0, 0, f.vd, f.vd⟩ fun a => a <<< f.imm.toNat)

/-- VADD (R104). -/
def execVadd (f : VF) (s : State) : Host.Outcome State Fault Refusal :=
  finishDone s (s.vbin f (· + ·))

/-- VSUB (R104). -/
def execVsub (f : VF) (s : State) : Host.Outcome State Fault Refusal :=
  finishDone s (s.vbin f (· - ·))

/-- VADDSS (R104). -/
def execVaddss (f : VF) (s : State) : Host.Outcome State Fault Refusal :=
  finishDone s (s.vbin f addSatS)

/-- VADDSZ (R104). -/
def execVaddsz (f : VF) (s : State) : Host.Outcome State Fault Refusal :=
  finishDone s (s.vbin f addSatZ)

/-- VMUL (R104). -/
def execVmul (f : VF) (s : State) : Host.Outcome State Fault Refusal :=
  finishDone s (s.vbin f (· * ·))

/-- VMULHS (R104). -/
def execVmulhs (f : VF) (s : State) : Host.Outcome State Fault Refusal :=
  finishDone s (s.vbin f mulHiS)

/-- VMULHZ (R104). -/
def execVmulhz (f : VF) (s : State) : Host.Outcome State Fault Refusal :=
  finishDone s (s.vbin f mulHiZ)

/-- VMAD: a × b + d, low 32 bits; vd is a source (R104). -/
def execVmad (f : VF) (s : State) : Host.Outcome State Fault Refusal :=
  finishDone s (s.vtri f mad)

/-- VAND (R104). -/
def execVand (f : VF) (s : State) : Host.Outcome State Fault Refusal :=
  finishDone s (s.vbin f (· &&& ·))

/-- VOR (R104). -/
def execVor (f : VF) (s : State) : Host.Outcome State Fault Refusal :=
  finishDone s (s.vbin f (· ||| ·))

/-- VXOR (R104). -/
def execVxor (f : VF) (s : State) : Host.Outcome State Fault Refusal :=
  finishDone s (s.vbin f (· ^^^ ·))

/-- VANDN (R104). -/
def execVandn (f : VF) (s : State) : Host.Outcome State Fault Refusal :=
  finishDone s (s.vbin f andn)

/-- VSHL (R104). -/
def execVshl (f : VF) (s : State) : Host.Outcome State Fault Refusal :=
  finishDone s (s.vbin f shl)

/-- VSHRZ (R104). -/
def execVshrz (f : VF) (s : State) : Host.Outcome State Fault Refusal :=
  finishDone s (s.vbin f shrZ)

/-- VSHRS (R104). -/
def execVshrs (f : VF) (s : State) : Host.Outcome State Fault Refusal :=
  finishDone s (s.vbin f shrS)

/-- VROT (R104). -/
def execVrot (f : VF) (s : State) : Host.Outcome State Fault Refusal :=
  finishDone s (s.vbin f rotl)

/-- VMINS (R104). -/
def execVmins (f : VF) (s : State) : Host.Outcome State Fault Refusal :=
  finishDone s (s.vbin f minS)

/-- VMAXS (R104). -/
def execVmaxs (f : VF) (s : State) : Host.Outcome State Fault Refusal :=
  finishDone s (s.vbin f maxS)

/-- VMINZ (R104). -/
def execVminz (f : VF) (s : State) : Host.Outcome State Fault Refusal :=
  finishDone s (s.vbin f minZ)

/-- VMAXZ (R104). -/
def execVmaxz (f : VF) (s : State) : Host.Outcome State Fault Refusal :=
  finishDone s (s.vbin f maxZ)

/-- VCMPEQ: kd gets the test in active lanes, 0 in the rest of the lane set (R97, R105). -/
def execVcmpeq (f : VF) (s : State) : Host.Outcome State Fault Refusal :=
  finishDone s (s.vcmp f (· == ·))

/-- VCMPLTS: kd gets the test in active lanes, 0 in the rest of the lane set (R97, R105). -/
def execVcmplts (f : VF) (s : State) : Host.Outcome State Fault Refusal :=
  finishDone s (s.vcmp f ltS)

/-- VCMPLTZ: kd gets the test in active lanes, 0 in the rest of the lane set (R97, R105). -/
def execVcmpltz (f : VF) (s : State) : Host.Outcome State Fault Refusal :=
  finishDone s (s.vcmp f ltZ)

/-- VCMPLES: kd gets the test in active lanes, 0 in the rest of the lane set (R97, R105). -/
def execVcmples (f : VF) (s : State) : Host.Outcome State Fault Refusal :=
  finishDone s (s.vcmp f leS)

/-- VSEL: every active lane takes a where the selector predicate is set, else b; kp or PREDX names the selector, not
a predicate (R106). -/
def execVsel (f : VF) (s : State) : Host.Outcome State Fault Refusal :=
  let sel := s.kpMask f.kp
  finishDone s (do
    let p := specVF f
    match s.cur.pfx with
    | some (.rep ..) => .error (.trap s ⟨cILL, 0, 0, false⟩)
    | _ =>
      p.regs.forM s.checkV
      s.dstReady p.vd
      let (vs, s) ← s.readSrcs s.exm p.srcs true
      let (a, b, _) := p.pick vs
      .ok ((s.writeV p.vd s.exm fun l => if sel.getLsbD l then a.lane l else b.lane l).latchVa f.h f.va))

/-- VBCST: every active lane gets the low word of a scalar (R106). -/
def execVbcst (kp : BitVec 2) (sa vd : BitVec 6) (s : State) : Host.Outcome State Fault Refusal :=
  finishDone s (do
    s.checkV vd.toNat
    let x ← s.readS sa.toNat
    s.dstReady vd.toNat
    .ok (s.writeV vd.toNat (s.active kp) fun _ => x.val.setWidth 32))

/-- VLANE: the lane number within the wave (R106). -/
def execVlane (kp : BitVec 2) (vd : BitVec 6) (s : State) : Host.Outcome State Fault Refusal :=
  finishDone s (do
    s.checkV vd.toNat
    s.dstReady vd.toNat
    .ok (s.writeV vd.toNat (s.active kp) fun l => BitVec.ofNat 32 l))

/-- VPOPC: number of 1 bits (R106). -/
def execVpopc (f : VU) (s : State) : Host.Outcome State Fault Refusal :=
  finishDone s (s.vuna f popc)

/-- VADDI (R107). -/
def execVaddi (f : VI) (s : State) : Host.Outcome State Fault Refusal :=
  finishDone s (s.vimm f fun a => a + s.immVI f.imm)

/-- VANDI (R107). -/
def execVandi (f : VI) (s : State) : Host.Outcome State Fault Refusal :=
  finishDone s (s.vimm f fun a => a &&& s.immVIz f.imm)

/-- VSHLI (R107). -/
def execVshli (f : VI) (s : State) : Host.Outcome State Fault Refusal :=
  finishDone s (s.vimm f fun a => shl a (s.immVIz f.imm))

/-- VSHRZI (R107). -/
def execVshrzi (f : VI) (s : State) : Host.Outcome State Fault Refusal :=
  finishDone s (s.vimm f fun a => shrZ a (s.immVIz f.imm))

/-- VMOVI: the immediate; no source (R107). -/
def execVmovi (imm : BitVec 7) (kp : BitVec 2) (vd : BitVec 6) (s : State) : Host.Outcome State Fault Refusal :=
  finishDone s (s.vexec ⟨vd.toNat, none, none, false⟩ (s.active kp) fun _ _ _ => s.immVI imm)

/-- VMULI (R107). -/
def execVmuli (f : VI) (s : State) : Host.Outcome State Fault Refusal :=
  finishDone s (s.vimm f fun a => a * s.immVI f.imm)

/-- VSHRSI (R107). -/
def execVshrsi (f : VI) (s : State) : Host.Outcome State Fault Refusal :=
  finishDone s (s.vimm f fun a => shrS a (s.immVIz f.imm))

/-- VXORI (R107). -/
def execVxori (f : VI) (s : State) : Host.Outcome State Fault Refusal :=
  finishDone s (s.vimm f fun a => a ^^^ s.immVIz f.imm)

/-- VCMPEQI: the immediate is sign-extended (R57, R108). -/
def execVcmpeqi (f : VI) (s : State) : Host.Outcome State Fault Refusal :=
  finishDone s (s.vcmpi f fun a => a == s.immVI f.imm)

/-- VCMPLTSI: the immediate is sign-extended (R57, R108). -/
def execVcmpltsi (f : VI) (s : State) : Host.Outcome State Fault Refusal :=
  finishDone s (s.vcmpi f fun a => ltS a (s.immVI f.imm))

/-- VCMPLTZI: the immediate is sign-extended (R57, R108). -/
def execVcmpltzi (f : VI) (s : State) : Host.Outcome State Fault Refusal :=
  finishDone s (s.vcmpi f fun a => ltZ a (s.immVI f.imm))

/-- VCMPGTSI: the immediate is sign-extended (R57, R108). -/
def execVcmpgtsi (f : VI) (s : State) : Host.Outcome State Fault Refusal :=
  finishDone s (s.vcmpi f fun a => ltS (s.immVI f.imm) a)

/-- VDOT4: no predicate; every lane with EXM set; vd is a source (R71, R114). -/
def execVdot4 (f : VDot) (s : State) : Host.Outcome State Fault Refusal :=
  finishDone s ((s.vexec (specVDot f) s.exm (dotp 4 false (f.ga == 1) (f.gb == 1))).map (·.latchVa f.h f.va))

/-- VDOT8: no predicate; every lane with EXM set; vd is a source (R71, R114). -/
def execVdot8 (f : VDot) (s : State) : Host.Outcome State Fault Refusal :=
  finishDone s ((s.vexec (specVDot f) s.exm (dotp 8 false (f.ga == 1) (f.gb == 1))).map (·.latchVa f.h f.va))

/-- VDOT4S: no predicate; every lane with EXM set; vd is a source (R71, R114). -/
def execVdot4s (f : VDot) (s : State) : Host.Outcome State Fault Refusal :=
  finishDone s ((s.vexec (specVDot f) s.exm (dotp 4 true (f.ga == 1) (f.gb == 1))).map (·.latchVa f.h f.va))

/-- VDOT8S: no predicate; every lane with EXM set; vd is a source (R71, R114). -/
def execVdot8s (f : VDot) (s : State) : Host.Outcome State Fault Refusal :=
  finishDone s ((s.vexec (specVDot f) s.exm (dotp 8 true (f.ga == 1) (f.gb == 1))).map (·.latchVa f.h f.va))

/-- VFADD (R110). -/
def execVfadd (f : VF) (s : State) : Host.Outcome State Fault Refusal :=
  finishDone s (s.vbin f fadd)

/-- VFSUB (R110). -/
def execVfsub (f : VF) (s : State) : Host.Outcome State Fault Refusal :=
  finishDone s (s.vbin f fsub)

/-- VFMUL (R110). -/
def execVfmul (f : VF) (s : State) : Host.Outcome State Fault Refusal :=
  finishDone s (s.vbin f fmul)

/-- VFMA: one rounding; vd is a source (R80, R110). -/
def execVfma (f : VF) (s : State) : Host.Outcome State Fault Refusal :=
  finishDone s (s.vtri f ffma)

/-- VFMIN (R79, R110). -/
def execVfmin (f : VF) (s : State) : Host.Outcome State Fault Refusal :=
  finishDone s (s.vbin f fmin)

/-- VFMAX (R79, R110). -/
def execVfmax (f : VF) (s : State) : Host.Outcome State Fault Refusal :=
  finishDone s (s.vbin f fmax)

/-- VFABS; a NaN gives the canonical NaN (R110). -/
def execVfabs (f : VU) (s : State) : Host.Outcome State Fault Refusal :=
  finishDone s (s.vuna f fabs)

/-- VFNEG; a NaN gives the canonical NaN (R110). -/
def execVfneg (f : VU) (s : State) : Host.Outcome State Fault Refusal :=
  finishDone s (s.vuna f fneg)

/-- VFCMPEQ (R97, R111). -/
def execVfcmpeq (f : VF) (s : State) : Host.Outcome State Fault Refusal :=
  finishDone s (s.vcmp f fEq)

/-- VFCMPLT (R97, R111). -/
def execVfcmplt (f : VF) (s : State) : Host.Outcome State Fault Refusal :=
  finishDone s (s.vcmp f fLt)

/-- VFCMPLE (R97, R111). -/
def execVfcmple (f : VF) (s : State) : Host.Outcome State Fault Refusal :=
  finishDone s (s.vcmp f fLe)

/-- VFCMPUN (R97, R111). -/
def execVfcmpun (f : VF) (s : State) : Host.Outcome State Fault Refusal :=
  finishDone s (s.vcmp f fUn)

/-- VHFMA: each element rounded once; vd is a source (R112). -/
def execVhfma (f : VF) (s : State) : Host.Outcome State Fault Refusal :=
  finishDone s (s.vtri f (pack2 (elFma Num.h16)))

/-- VBFMA: each element rounded once; vd is a source (R112). -/
def execVbfma (f : VF) (s : State) : Host.Outcome State Fault Refusal :=
  finishDone s (s.vtri f (pack2 (elFma Num.bf16)))

/-- VHMUL (R112). -/
def execVhmul (f : VF) (s : State) : Host.Outcome State Fault Refusal :=
  finishDone s (s.vbin f fun a b => pack2 (elMul Num.h16) a b 0)

/-- VBMUL (R112). -/
def execVbmul (f : VF) (s : State) : Host.Outcome State Fault Refusal :=
  finishDone s (s.vbin f fun a b => pack2 (elMul Num.bf16) a b 0)

/-- VHADD (R112). -/
def execVhadd (f : VF) (s : State) : Host.Outcome State Fault Refusal :=
  finishDone s (s.vbin f fun a b => pack2 (elAdd Num.h16) a b 0)

/-- VBADD (R112). -/
def execVbadd (f : VF) (s : State) : Host.Outcome State Fault Refusal :=
  finishDone s (s.vbin f fun a b => pack2 (elAdd Num.bf16) a b 0)

/-- VHMAX (R112). -/
def execVhmax (f : VF) (s : State) : Host.Outcome State Fault Refusal :=
  finishDone s (s.vbin f fun a b => pack2 (elMax Num.h16) a b 0)

/-- VBMAX (R112). -/
def execVbmax (f : VF) (s : State) : Host.Outcome State Fault Refusal :=
  finishDone s (s.vbin f fun a b => pack2 (elMax Num.bf16) a b 0)

/-- VMOVW: sext(imm16), or imm32. No predicate: every active lane (R109). -/
def execVmovw (f : VL) (s : State) : Host.Outcome State Fault Refusal :=
  finishDone s (s.vexec ⟨f.vd.toNat, none, none, false⟩ s.exm fun _ _ _ => s.immVL f.imm (f.imm.signExtend 32))

/-- VMOVWZ: zext(imm16), or imm32. No predicate: every active lane (R109). -/
def execVmovwz (f : VL) (s : State) : Host.Outcome State Fault Refusal :=
  finishDone s (s.vexec ⟨f.vd.toNat, none, none, false⟩ s.exm fun _ _ _ => s.immVL f.imm (f.imm.setWidth 32))

/-- VFMOVB: the bf16 or f32 pattern; a NaN pattern gives the canonical NaN (R58). No predicate: every active lane (R109). -/
def execVfmovb (f : VL) (s : State) : Host.Outcome State Fault Refusal :=
  finishDone s (s.vexec ⟨f.vd.toNat, none, none, false⟩ s.exm fun _ _ _ => canonNan (s.immVL f.imm (f.imm.setWidth 32 <<< 16)))

/-- VMOVHI: {imm16, d[15:0]}; vd is a source. No predicate: every active lane (R109). -/
def execVmovhi (f : VL) (s : State) : Host.Outcome State Fault Refusal :=
  finishDone s (s.vexec ⟨f.vd.toNat, none, none, true⟩ s.exm fun _ _ d => f.imm ++ d.setWidth 16)

/-- VCVT: the conversion of its selector in the mode sub gives; vd is a source where part of a lane is written
(R113). -/
def execVcvt (f : VC) (s : State) : Host.Outcome State Fault Refusal :=
  finishDone s ((s.vexec ⟨f.vd.toNat, some (f.va.toNat, f.ta == 1), none, cvtUsesVd f.sel.toNat⟩ (s.active f.kp)
    fun a _ d => cvtLane f.sel.toNat (modeOf f.rm) a d).map (·.latchVa f.h f.va))

end Sys2Proof.Machine
end

