-- ==== Sys2Proof/Machine/Lanes.lean ====
section
/-! DEFINITION. The special-function unit's queue, shuffles, reductions, votes and random draws (majors 0x13 to 0x17, and
SETRNG; R121-R130, R345-R349). -/
namespace Sys2Proof.Machine

/-! ## VSFU (R121-R125) -/

/-- Entries of the partition's SFU queue (R227). -/
def State.sfuQueue (s : State) (part : Nat) : List Op :=
  s.flight.filter fun o => (s.wave o.wave).partNo == part && match o.kind with | .sfu .. => true | _ => false

/-- VSFU enters the partition's queue; vd is EMPTY until the result comes. -/
def State.vsfu (s : State) (f : VS) : Act State := do
  let act := s.active f.kp
  [f.vd.toNat, f.va.toNat].forM s.checkV
  waitFor ((s.sfuQueue s.cw.partNo).length < 64)
  s.dstReady f.vd.toNat
  let (vs, s) ← s.readSrcs act [(f.va.toNat, f.ta == 1)] false
  let d := s.vdst f.vd.toNat 1
  let src := (List.range 32).map fun l => (vs.headD {}).lane l
  .ok (((s.emptyV f.vd.toNat 1).launchOp none (.sfu f.fn.toNat (f.fast == 1) d act src)).latchVa f.h f.va)

/-- VSFU.fn vd, va (R121). -/
def execVsfu (f : VS) (s : State) : Host.Outcome State Fault Refusal := finishDone s (s.vsfu f)

/-! ## Shuffles (R126, R127) -/

/-- First lane of lane l's piste. -/
def pisteBase (w l : Nat) : Nat := l - l % w

/-- The piste width in force. -/
def Wave.width (w : Wave) : Nat := w.piste.toNat

/-- Source lane of each shuffle. -/
def srcIdx (w l j : Nat) : Nat := if j < w then pisteBase w l + j else l
def srcXor (w l imm : Nat) : Nat := if imm < w then l ^^^ imm else l
def srcUp (w l imm : Nat) : Nat := if pisteBase w l + imm ≤ l then l - imm else l
def srcDn (w l imm : Nat) : Nat := if l + imm < pisteBase w l + w then l + imm else l

/-- Deliver a shuffle's result: at once, or as a long-latency producer (R127). -/
def State.shuffled (s : State) (vd : Nat) (now : Bool) (act : Word) (r : Nat → Word) : State :=
  if now then s.writeV vd act r
  else
    let d := s.vdst vd 1
    (s.emptyV vd 1).launchOp none (.value d act [(List.range 32).map r] 0)

/-- A shuffle of va: lane l takes lane src l, active or not; a poisoned lane that is read raises POISON. -/
def State.shuffle (s : State) (vd va : Nat) (ta now : Bool) (act : Word) (idx : Option (Nat × Bool))
    (src : VReg → Nat → Nat) : Act State := do
  (vd :: va :: idx.toList.map (·.1)).forM s.checkV
  s.dstReady vd
  let srcs := (va, ta) :: idx.toList
  s.srcsReady false srcs []
  s.srcsReady true srcs []
  let rs := srcs.map (·.1)
  match s.firstShut rs [] with
  | some (i, x) => fault (s.stands rs true i) cQCLOSED x
  | none =>
    let (vs, t) := s.takeSrcs rs
    let a := vs.headD {}
    let b := vs.tail.headD {}
    let read := mask32 fun j => (lanesOf act).any fun l => src b l == j
    if (a.poison &&& read) != 0 then fault s cPOISON (BitVec.ofNat 72 va)
    else if (b.poison &&& act) != 0 then fault (s.stands rs true 1) cPOISON (BitVec.ofNat 72 (rs.getD 1 0))
    else .ok (t.shuffled vd now act fun l => a.lane (src b l))

/-- VSHFL vd, va, vb (R126). -/
def execVshfl (f : VF) (s : State) : Host.Outcome State Fault Refusal :=
  let w := s.cw.width
  finishDone s ((s.shuffle f.vd.toNat f.va.toNat (f.ta == 1) false (s.active f.kp) (some (f.vb.toNat, f.tb == 1))
    fun b l => srcIdx w l (cnt5 (b.lane l))).map (·.latchVa f.h f.va))

/-- A shuffle with an immediate. -/
def State.shufImm (s : State) (f : VX) (now : Bool) (src : Nat → Nat) : Act State :=
  (s.shuffle f.vd.toNat f.va.toNat (f.ta == 1) now (s.active f.kp) none fun _ l => src l).map (·.latchVa f.h f.va)

/-- VSHFLX vd, va, imm (R126). -/
def execVshflx (f : VX) (s : State) : Host.Outcome State Fault Refusal :=
  let w := s.cw.width
  finishDone s (s.shufImm f (f.imm.toNat < 2) fun l => srcXor w l f.imm.toNat)

/-- VSHFLUP vd, va, imm (R126). -/
def execVshflup (f : VX) (s : State) : Host.Outcome State Fault Refusal :=
  let w := s.cw.width
  finishDone s (s.shufImm f (f.imm == 0) fun l => srcUp w l f.imm.toNat)

/-- VSHFLDN vd, va, imm (R126). -/
def execVshfldn (f : VX) (s : State) : Host.Outcome State Fault Refusal :=
  let w := s.cw.width
  finishDone s (s.shufImm f (f.imm == 0) fun l => srcDn w l f.imm.toNat)

/-! ## Reductions and votes (R128, R129) -/

/-- The active lanes of lane l's piste, rising. -/
def pisteLanes (w : Nat) (act : Word) (l : Nat) : List Nat :=
  (lanesOf act).filter fun j => pisteBase w j == pisteBase w l

/-- An instruction whose every active lane of a piste takes one result of the piste: `g` of its active lanes. -/
def State.pisteOp (s : State) (f : VU) (g : (Nat → Word) → Nat → List Nat → Word) : Act State := do
  let act := s.active f.kp
  let w := s.cw.width
  [f.vd.toNat, f.va.toNat].forM s.checkV
  s.dstReady f.vd.toNat
  let (vs, s) ← s.readSrcs act [(f.va.toNat, f.ta == 1)] false
  let a := (vs.headD {}).lane
  .ok ((s.writeV f.vd.toNat act fun l => g a (pisteBase w l) (pisteLanes w act l)).latchVa f.h f.va)

/-- One stage of a pairwise tree: neighbours combine, the lower one first (R87). -/
def pairUp {α : Type} (op : α → α → α) : List α → List α
  | a :: b :: r => op a b :: pairUp op r
  | l => l

/-- The pairwise tree over 2^n values (R87). -/
def tree {α : Type} (op : α → α → α) : Nat → List α → List α
  | 0, l => l
  | n + 1, l => tree op n (pairUp op l)

/-- Combine two partial maxima; an inactive lane is skipped. -/
def optMax : Option Word → Option Word → Option Word
  | some a, some b => some (fmax a b)
  | some a, none => some a
  | none, b => b

/-- VREDADD vd, va (R128). -/
def execVredadd (f : VU) (s : State) : Host.Outcome State Fault Refusal :=
  finishDone s (s.pisteOp f fun a _ ls => ls.foldl (fun t l => t + a l) 0)

/-- VREDMAXS vd, va (R128). -/
def execVredmaxs (f : VU) (s : State) : Host.Outcome State Fault Refusal :=
  finishDone s (s.pisteOp f fun a _ ls => (ls.map a).foldl maxS (a (ls.headD 0)))

/-- VREDFADD vd, va: the tree of R87 (R128). -/
def execVredfadd (f : VU) (s : State) : Host.Outcome State Fault Refusal :=
  let w := s.cw.width
  finishDone s (s.pisteOp f fun a b ls =>
    canonNan ((tree fadd 5 ((List.range w).map fun j => if ls.contains (b + j) then a (b + j) else 0x80000000)).headD 0))

/-- VREDFMAX vd, va (R128). -/
def execVredfmax (f : VU) (s : State) : Host.Outcome State Fault Refusal :=
  let w := s.cw.width
  finishDone s (s.pisteOp f fun a b ls =>
    canonNan (((tree optMax 5 ((List.range w).map fun j => if ls.contains (b + j) then some (a (b + j)) else none)).headD
      none).getD 0))

/-- VBALLOT vd, va (R129). -/
def execVballot (f : VU) (s : State) : Host.Outcome State Fault Refusal :=
  finishDone s (s.pisteOp f fun a b ls => mask32 fun j => ls.any fun l => l == b + j && a l != 0)

/-- VANY vd, va (R129). -/
def execVany (f : VU) (s : State) : Host.Outcome State Fault Refusal :=
  finishDone s (s.pisteOp f fun a _ ls => if ls.any fun l => a l != 0 then 1 else 0)

/-- VALL vd, va (R129). -/
def execVall (f : VU) (s : State) : Host.Outcome State Fault Refusal :=
  finishDone s (s.pisteOp f fun a _ ls => if ls.all fun l => a l != 0 then 1 else 0)

/-- VFIRST vd, va (R129). -/
def execVfirst (f : VU) (s : State) : Host.Outcome State Fault Refusal :=
  finishDone s (s.pisteOp f fun a b ls => match ls.find? fun l => a l != 0 with
    | some l => BitVec.ofNat 32 (l - b)
    | none => 0xFFFFFFFF)

/-! ## Random streams (R345-R348) -/

/-- The hash of R345. -/
def rngOut (key : DWord) (ctr : BitVec 96) (l : Nat) : Word :=
  let stream : DWord := (ctr >>> 64).setWidth 64
  let x := key ^^^ (stream * 0x9E3779B97F4A7C15) ^^^ (BitVec.ofNat 64 l * 0xD1B54A32D192ED03)
  let x := x + ctr.setWidth 64 * 0xA0761D6478BD642F
  let x := (x ^^^ (x >>> 30)) * 0xBF58476D1CE4E5B9
  let x := (x ^^^ (x >>> 27)) * 0x94D049BB133111EB
  let x := x ^^^ (x >>> 31)
  (x >>> 32).setWidth 32

/-- 2^25 u(l): an odd number. -/
def rngU (o : Word) : Nat := 2 * (o.toNat / 2 ^ 8) + 1

/-- u rounded toward zero (VRANDF). -/
def randF (o : Word) : Word := BitVec.ofNat 32 (Num.round Num.f32 .rz (.fin false (rngU o) (-25)))

/-- -ln(-ln u), rounded once; computed with 320 fractional bits (R346). -/
def gumbel (o : Word) : Word :=
  let v := -(Num.fln (rngU o) (-25))
  Num.rneF32 (Num.ofFix (-(Num.fln v.toNat (-320))))

/-- A draw (R346): RNGOVF at the last DRAW, else every active lane draws and DRAW advances once. -/
def State.draw1 (s : State) (vd : Nat) (src : Option (Nat × Bool)) (act : Word) (g : Word → Word → Word) : Act State := do
  need (s.cw.rngc.toNat % 2 ^ 24 != 2 ^ 24 - 1) s cRNGOVF
  let key := s.cw.rngk
  let ctr := s.cw.rngc
  (vd :: src.toList.map (·.1)).forM s.checkV
  s.dstReady vd
  let (vs, s) ← s.readSrcs act src.toList false
  .ok ((s.writeV vd act fun l => g ((vs.headD {}).lane l) (rngOut key ctr l)).modCw fun w => { w with rngc := w.rngc + 1 })

/-- VRAND vd (R346). -/
def execVrand (kp : BitVec 2) (vd : BitVec 6) (s : State) : Host.Outcome State Fault Refusal :=
  finishDone s (s.draw1 vd.toNat none (s.active kp) fun _ o => o)

/-- VRANDF vd (R346). -/
def execVrandf (kp : BitVec 2) (vd : BitVec 6) (s : State) : Host.Outcome State Fault Refusal :=
  finishDone s (s.draw1 vd.toNat none (s.active kp) fun _ o => randF o)

/-- VGUMB vd, va (R346). -/
def execVgumb (f : VU) (s : State) : Host.Outcome State Fault Refusal :=
  finishDone s ((s.draw1 f.vd.toNat (some (f.va.toNat, f.ta == 1)) (s.active f.kp) fun a o => fadd a (gumbel o)).map
    (·.latchVa f.h f.va))

/-- The counter after VRADV, and whether POSITION saturated (R347). -/
def advance (ctr : BitVec 96) (v : DWord) : BitVec 96 × Bool :=
  let p := field ctr.toNat 24 40 + v.toNat
  let q := if p < 2 ^ 40 then p else 2 ^ 40 - 1
  (BitVec.ofNat 96 (field ctr.toNat 64 32 * 2 ^ 64 + q * 2 ^ 24), !(p < 2 ^ 40))

/-- VRADV sa (R347). -/
def execVradv (sa : BitVec 6) (s : State) : Host.Outcome State Fault Refusal :=
  finishDone s do
    let x ← s.readS sa.toNat
    let r := advance s.cw.rngc x.val
    .ok (s.modCw fun w => { w with rngc := r.1, stat := if r.2 then w.stat ||| statRNGSAT else w.stat })

/-- SETRNG sd, sa (R348). -/
def execSetrng (a d : BitVec 6) (s : State) : Host.Outcome State Fault Refusal :=
  finishDone s do
    s.checkS d.toNat
    let x ← s.readS a.toNat
    let old := field s.cw.rngc.toNat 64 32
    .ok ((s.writeS d.toNat (BitVec.ofNat 64 old)).modCw fun w =>
      { w with rngc := BitVec.ofNat 96 (w.rngc.toNat % 2 ^ 64 + x.val.toNat % 2 ^ 32 * 2 ^ 64) })

end Sys2Proof.Machine
end

