-- ==== Sys2Proof/Machine/Sfu.lean ====
section
/-! DEFINITION. Results of the special-function unit: the special inputs of R123, and for any other input a value that
the bounds of R122 allow. The spec does not say which: the free value (Config) decides where it lies within the bound,
and the function's own value, rounded, is taken where it does not. -/
namespace Sys2Proof.Num

def Ex.abs : Ex → Ex
  | .nan => .nan
  | .inf _ => .inf false
  | .fin _ m e => .fin false m e

def Ex.le (a b : Ex) : Bool := a.lt b || a.eq b

/-- 2^k. -/
def pow2 (k : Int) : Ex := .fin false 1 k

/-- One unit in the last place of f32 at an exact value (R122). -/
def ulpF32 (x : Ex) : Ex := pow2 (max ((floorLog2 x).getD (-126)) (-126) - 23)

/-- |c − r| ≤ t. -/
def near (c r t : Ex) : Bool := (c.add r.neg).abs.le t

/-- A power of two, and its exponent. -/
def asPow2 : Ex → Option Int
  | .fin false m e => if m != 0 && 2 ^ Nat.log2 m == m then some ((Nat.log2 m : Int) + e) else none
  | _ => none

/-- The value as an integer, if it is one. -/
def asInt : Ex → Option Int
  | .fin neg m e =>
    if 0 ≤ e then some ((if neg then -1 else 1) * (m * 2 ^ e.toNat : Nat))
    else if m % 2 ^ (-e).toNat = 0 then some ((if neg then -1 else 1) * (m / 2 ^ (-e).toNat : Nat)) else none
  | _ => none

/-- 2^x: 0 stands for a value too small to matter, the infinity for one that overflows. -/
def exp2Ref (x : Ex) : Ex :=
  match asInt x with
  | some k => if k < -400 then .fin false 0 0 else if 128 ≤ k then .inf false else pow2 k
  | none => match x with
    | .fin neg m e =>
      if (pow2 7).lt x then .inf false
      else if x.lt (.fin true 200 0) then .fin false 0 0
      else ofFix (fexp (fmul (fix neg m e) ln2))
    | _ => .nan

def tanhRef (neg : Bool) (m : Nat) (e : Int) : Ex :=
  if (Ex.fin false 40 0).lt (.fin false m e) then .fin neg 1 0
  else
    let t := fexp (2 * fix false m e)
    let v := (t - one) * one / (t + one)
    ofFix (if neg then -v else v)

/-- The function's value on a finite input, near enough to compare with any bound (R122). -/
def sfuRef (fn : Nat) (x : Ex) : Ex :=
  match x with
  | .fin neg m e =>
    match fn with
    | 0 => (Ex.fin false 1 0).div x
    | 1 => (Ex.fin false 1 0).div x.sqrt
    | 2 => x.sqrt
    | 3 => exp2Ref x
    | 4 => ofFix (fln m e * one / ln2)
    | 5 => ofFix (fsin (fix neg m e))
    | 6 => ofFix (fcos (fix neg m e))
    | _ => tanhRef neg m e
  | _ => .nan

/-- The result is exact (R122). -/
def sfuExact (fn : Nat) (fast : Bool) (x : Ex) : Bool :=
  match fn with
  | 0 => !fast && (asPow2 x.abs).isSome
  | 1 => !fast && ((asPow2 x).any fun k => k % 2 == 0)
  | 2 => !fast
  | 3 => !fast && (asInt x).isSome
  | 4 => !fast && (asPow2 x).isSome
  | _ => false

/-- A pattern lies within the bound of R122 around the function's value r. -/
def sfuAllows (fn : Nat) (fast : Bool) (x r c : Ex) : Bool :=
  let u := ulpF32 r
  let twoU := u.mul (pow2 1)
  let unit := c.abs.le (pow2 0)
  let half := (pow2 (-1)).le x && x.le (pow2 1)
  match c with
  | .fin .. =>
    match fn with
    | 0 | 1 => near c r (if fast then twoU else u)
    | 2 => near c r u
    | 3 => !c.isNeg && (match r with | .fin .. => true | _ => false)
        && (if fast then near c r (r.mul (pow2 (-20))) else near c r twoU)
    | 4 => if half then near c r (pow2 (if fast then -20 else -22)) else near c r (if fast then u.mul (pow2 2) else twoU)
    | 5 | 6 =>
      if fast then unit && ((ofFix (256 * pi)).lt x.abs || near c r (pow2 (-16))) else unit && near c r (pow2 (-22))
    | _ => unit && near c r (pow2 (if fast then -11 else -22))
  | _ => false

/-- Special inputs (R123). -/
def sfuSpecial (fn : Nat) (x : Ex) : Option Nat :=
  let inf (n : Bool) : Nat := if n then 0xFF800000 else 0x7F800000
  let zero (n : Bool) : Nat := if n then 0x80000000 else 0
  let nan : Nat := 0x7FC00000
  match x with
  | .nan => some nan
  | .inf n => match fn with
    | 0 => some (zero n)
    | 1 => some (if n then nan else 0)
    | 2 => some (if n then nan else inf false)
    | 3 => some (if n then 0 else inf false)
    | 4 => some (if n then nan else inf false)
    | 5 | 6 => some nan
    | _ => some (if n then 0xBF800000 else 0x3F800000)
  | .fin n 0 _ => match fn with
    | 0 | 1 => some (inf n)
    | 2 | 5 | 7 => some (zero n)
    | 3 | 6 => some 0x3F800000
    | _ => some (inf true)
  | .fin n _ _ => if n && (fn = 1 || fn = 2 || fn = 4) then some nan else none

/-- One lane's result; `free` is the free value for this function and operand. EX2 below the smallest subnormal gives +0 or 2^-149
(R123). -/
def sfuLane (fn : Nat) (fast : Bool) (a free : Word) : Word :=
  let x := vf a
  match sfuSpecial fn x with
  | some w => BitVec.ofNat 32 w
  | none =>
    let r := sfuRef fn x
    let own := rneF32 r
    if fn = 3 && r.lt (pow2 (-149)) then free &&& 1
    else if sfuExact fn fast x then own
    else if sfuAllows fn fast x r (vf free) then free else own

end Sys2Proof.Num
end

