-- ==== Sys2Proof/Machine/Deliver.lean ====
section
/-! DEFINITION. The events that perform accesses and deliver results (R93, R124, R148, R170, R177, R181-R187). Each is
`some` next state where the event can happen, and `none` where it cannot: the row's meaning then leaves the state as it
is. -/
namespace Sys2Proof.Machine

/-- An event row: nothing happens where its condition does not hold. -/
def event (s : State) (r : Option State) : Host.Outcome State Fault Refusal := .next (r.getD s)

/-! ## RESULT_DELIVERY -/

/-- Fragments parked for a split load's late lanes go on (R24). -/
def State.wakeData (s : State) (w id : Nat) : State :=
  s.modWave w fun x => { x with frags := x.frags.map fun f => if f.park = .data id then { f with park := .none } else f }

/-- Loads that fail at a peer are reported (R390); those that a link going down fails are only poisoned (R393). -/
def State.loadErrors (s : State) (o : Op) (accs : List Acc) : State :=
  let d := (s.gang o.gang).vd
  accs.foldl (fun t a => match a.place with
    | .peer sl _ =>
      if !a.lost && !s.slotDown d sl && s.slotFails d sl (s.free + sl) then t.faberr o.wave sl false a.va else t
    | _ => t) { s with free := s.free + 17 }

/-- A load of a KV page snoops, at the page's home, a half that the host holds modified (R279, R379). -/
def State.touchDirect (s : State) (accs : List Acc) : State :=
  accs.foldl (fun s a => match a.place with
    | .direct l => if l.sp == .phys then s.readTouch l else s
    | _ => s) s

/-- Read the accesses of a load and retire it. -/
def State.finishLoad (s : State) (o : Op) (accs : List Acc) (d : Dst) (ext : Ext) (hint : Nat) : State :=
  let s := (s.fetchFor o hint accs).touchDirect accs
  let got := accs.map fun a => (a.lane, (placeBytes a.place a.size).map fun p => let b := s.loadByte o hint p; (b.1, b.2 || a.lost))
  let s := s.loadErrors o accs
  let lanes := mask32L (accs.map (·.lane))
  match d with
  | .scl .. =>
    let bs := (got.map (·.2)).headD []
    s.deliverScl o [{ extendScalar ext (bs.map (·.1)) with st := if bs.any (·.2) then .poison else .full }]
  | .vec _ _ n => let r := loadLanes ext n got; s.deliverVec o lanes r.1 r.2
  | .quiet _ n => let r := loadLanes ext n got; (s.deliverVec o lanes r.1 r.2).wakeData o.wave o.id
  | .port _ => let r := loadLanes ext 1 got; s.deliverVec o lanes r.1 r.2
  | .none => (s.dropOp o.id).respond o (got.flatMap (·.2))

/-- PATH takes what a Slalom result brings with it (R300). -/
def State.setPath (s : State) (o : Op) : State :=
  match o.path with
  | some p => s.modWave o.wave fun w => { w with path := if o.keepDepth then (w.path &&& 0x7F) ||| (p &&& ~~~ 0x7F#42) else p }
  | none => s

/-- The status of a RECL comes after its action (R326). -/
def State.ringAwaited (s : State) (id : Nat) : Bool := s.vds.any fun v => v.rings.any fun r => r.op == some id

/-- A result comes to its register (R93, R94). -/
def State.deliver? (s : State) (id : Nat) : Option State :=
  match s.op? id with
  | none => none
  | some o =>
    if !(s.dstTurn o && s.portRoom o) || s.ringAwaited id then none
    else match o.kind with
      | .load accs d ext hint =>
        let ps := accs.map (·.place)
        if (accs.all fun a => s.inOrder o a && s.served a.place false) && s.mayAsk (s.gang o.gang).vd ps
        then some ((s.ask (s.gang o.gang).vd ps []).finishLoad o accs d ext hint) else none
      | .atomic _ _ [] d got _ =>
        match d with
        | .scl .. =>
          let g := (got.map (·.2)).headD ([], false)
          some (s.deliverScl o [{ val := BitVec.ofNat 64 (natOf g.1), st := if g.2 then .poison else .full }])
        | .vec _ _ n =>
          let r := atomLanes n got
          some (s.deliverVec o (mask32L (got.map (·.1))) r.1 r.2)
        | _ => some (s.dropOp id)
      | .value _ lanes vals poison => some (s.deliverVec o lanes vals poison)
      | .svalue _ vals => some ((s.deliverScl o vals).setPath o)
      | _ => none

/-! ## SFU_RESULT -/

/-- The oldest entry of the partition's queue is delivered to the register its tag names (R124). -/
def State.sfu? (s : State) (id : Nat) : Option State :=
  match s.op? id with
  | none => none
  | some o =>
    if (s.sfuQueue (s.wave o.wave).partNo).head?.map (·.id) != some id || !(s.dstTurn o && s.portRoom o) then none
    else match o.kind with
      | .sfu fn fast _ lanes src =>
        let vals := (List.range 32).map fun l =>
          let a := src.getD l 0
          Num.sfuLane fn fast a (Config.freeSfu fn fast a)
        some (s.deliverVec o lanes [vals] 0)
      | _ => none

/-- SFU_RESULT (R122-R124). -/
def execSfuResult (id : Nat) (s : State) : Host.Outcome State Fault Refusal := event s (s.sfu? id)

/-! ## STORE_PERFORM -/

/-- Write a store's bytes at their place (R182). A store to a peer takes effect at the peer. -/
def State.writePlace (s : State) (p : Place) (bs : List Byte) : State :=
  match p with
  | .direct l => s.homePuts l (bs.map fun b => (b, false))
  | .homed l _ =>
    let s := s.homePuts l (bs.map fun b => (b, false))
    s.setHome { s.home l.line with lastStore := some s.time }
  | _ => s

/-- A store is performed, or, at a peer, dropped and reported (R163, R393). A strong one now enters its core's L1 copy (R181);
its hint says how the LLC keeps the line (R168). -/
def State.sendStore (s : State) (o : Op) (a : Acc) : State :=
  match a.place with
  | .peer sl _ =>
    let t := { s with free := s.free + 17 }
    if s.slotFails (s.gang o.gang).vd sl (s.free + sl) then t.faberr o.wave sl true a.va else t
  | .homed l _ =>
    let t := (s.writePlace a.place a.data).llcKeep l o.hint true
    if o.ord = .weak then t else t.updateL1 o.core l a.data
  | p => s.writePlace p a.data

/-- The place may perform a write of the core now. -/
def State.writable (s : State) (core : Nat) (p : Place) : Bool :=
  s.served p true && match p.line? with | some l => s.leasesPast core l | none => true

/-- The 32-byte sector in which an access lies, as a place (R49, R221, R242). -/
def Place.sector : Place → Place
  | .direct l => .direct ⟨l.sp, l.a / 32 * 32⟩
  | .homed l m => .homed ⟨l.sp, l.a / 32 * 32⟩ m
  | .lane k => .lane k
  | .peer sl o => .peer sl (o / 32 * 32)

/-- What one request of a store covers: the lanes that fall in one 128-byte line of a home (R162), or in one sector of a bank. -/
def Place.request : Place → Place
  | .homed l m => .homed l.line m
  | p => p.sector

/-- What a store writes in the request of its access k is performed, whole: no reader and no engine meets a part of it (R49,
R162, R181, R242), and lower lanes come first (R10, R162). A lane of an RKST that goes to two pages goes to both at once (R272). -/
def State.store? (s : State) (id k : Nat) : Option State :=
  match s.op? id with
  | none => none
  | some o => match o.kind with
    | .store accs =>
      match accs[k]? with
      | none => none
      | some a =>
        let near := accs.filter fun b => b.place.request == a.place.request
        let here := if o.cls == some kRK then accs.filter fun b => near.any fun c => c.lane == b.lane else near
        let ps := here.map (·.place)
        if (here.all fun b => s.inOrder o b && s.writable o.core b.place) && s.mayAsk (s.gang o.gang).vd ps then
          let s := here.foldl (fun s b => s.sendStore o b) (s.ask (s.gang o.gang).vd ps (here.flatMap (·.data)))
          let rest := accs.filter fun b => !here.contains b
          some (if rest.isEmpty then (s.dropOp id).respond o [] else s.setOp { o with kind := .store rest })
        else none
    | _ => none

/-- STORE_PERFORM (R181, R182). -/
def execStorePerform (id k : Nat) (s : State) : Host.Outcome State Fault Refusal := event s (s.creditOp id (s.store? id k))

/-! ## ATOMIC_PERFORM -/

/-- The distinct addresses of the lanes still to be performed. -/
def placesOf (accs : List Acc) : List Place := (accs.map (·.place)).eraseDups

/-- Read and write for an atomic at its place. On a memory-side page the home writes back its dirty bytes, drops its
copy, and the SBD works on HBM (R183, R185). -/
def State.atomicAt (s : State) (p : Place) : State :=
  match p with
  | .homed l true => ((s.writeTouch l).llcClean (s.fwd l)).llcDrop (s.fwd l)
  | .homed l false => s.writeTouch l
  | _ => s

def State.atomicRead (s : State) (d : Nat) (p : Place) (n : Nat) : List (Byte × Bool) :=
  match p with
  | .homed l true => (List.range n).map fun i => s.hbm (s.fwd (l.plus i))
  | .homed l false => s.homeBytes l n
  | .peer sl off => (List.range n).map fun i =>
    (Config.freeByte (s.free + sl) (off.toNat + i), s.slotFails d sl (s.free + sl))
  | _ => List.replicate n (0, false)

def State.atomicWrite (s : State) (p : Place) (bs : List Byte) : State :=
  match p with
  | .homed l true => (bs.foldl (fun (q : State × Nat) b => (q.1.putHbm (q.1.fwd (l.plus q.2)) b false, q.2 + 1)) (s, 0)).1
  | .homed l false => s.homePuts l (bs.map fun b => (b, false))
  | _ => s

/-- May the home grant a core an own lease on the line? Not while it holds a store or an engine's write for the line, while the
chunk drains, or while the host holds a half of it EM (R181, R380, R403). -/
def State.grantsOwn (s : State) (line : Loc) : Bool :=
  !(s.flight.any fun o => (o.isStore && o.accs.any fun a => a.place.line? == some line)
      || o.landing.any fun p => p.line? == some line)
    && !s.ringHolds line && !s.stealHolds line && !s.draining line && !s.hostHolds line

/-- The home's bookkeeping of an own-lease request: the contention counter and, below 2, the lease, whose core is the line's
last holder from then on (R184, R186). Near or far goes by the counter before the request changes it, and a first request
leaves it; an atomic counts as a store to the line for the lengths of R180, but not at the bridge; where the home may
grant no lease the atomic runs there. DESIGN CHOICE, log 114. -/
def State.ownLease (s : State) (core : Nat) (p : Place) : State :=
  match p with
  | .homed l false =>
    if l.sp == .host then s
    else
      let h := s.home l.line
      if (match h.own with | some (c, t) => c == core && s.time < t | none => false)
      then s.setHome { h with used := s.time, lastStore := some s.time }
      else
        let n := match h.holder with
          | some c => if c = core then h.count - 1 else min 3 (h.count + 1)
          | none => h.count
        if h.count < 2 && s.grantsOwn l.line
        then s.setHome { h with count := n, holder := some core, lastStore := some s.time, used := s.time
                                own := some (core, s.time + 256) }
        else s.setHome { h with count := n, lastStore := some s.time, own := none }
  | .homed l true => s.setHome { s.home l.line with lastStore := some s.time }
  | _ => s

/-- An atomic met an uncorrectable error, which its home logs for the supervisor (R198). One that fails at a peer is
reported; where the link is down, only one without a returned value (R390, R393). -/
def State.atomicError (s : State) (o : Op) (a : Acc) : State :=
  let t := { s with free := s.free + 17 }
  match a.place with
  | .peer sl _ => if o.dst == .none || !(a.lost || s.slotDown (s.gang o.gang).vd sl) then t.faberr o.wave sl true a.va else t
  | .homed l _ | .direct l => { t with atomLog := t.atomLog ++ [(s.time, l)] }
  | .lane _ => t

/-- All lanes of the k-th address, ascending, nothing between them (R198). The line is in the LLC, its counter filled, before the
home looks at the request (R186). -/
def State.atomic? (s : State) (id k : Nat) : Option State :=
  match s.op? id with
  | none => none
  | some o => match o.kind with
    | .atomic aop size accs d got far =>
      match (placesOf accs)[k]? with
      | none => none
      | some p =>
        let lanes := accs.filter fun a => a.place == p
        if (lanes.all fun a => s.inOrder o a) && s.writable o.core p && s.mayAsk (s.gang o.gang).vd [p] then
          let s := (s.ask (s.gang o.gang).vd [p] (lanes.flatMap (·.data))).atomicAt p
          let s := if far then s else s.ownLease o.core p
          let r := lanes.foldl (fun (q : State × List (Nat × List Byte × Bool)) a =>
            let old := (q.1.atomicRead (s.gang o.gang).vd p size).map fun b => (b.1, b.2 || a.lost)
            let vals := old.map (·.1)
            if old.any (·.2) then (q.1.atomicError o a, q.2 ++ [(a.lane, vals, true)])
            else (({ q.1 with free := q.1.free + 17 }).atomicWrite p (a.atomNew aop vals), q.2 ++ [(a.lane, vals, false)]))
            (s, got)
          let rest := accs.filter fun a => a.place != p
          some (if rest.isEmpty && d == .none
            then (r.1.dropOp id).respond o (r.2.flatMap fun g => g.2.1.map fun b => (b, g.2.2))
            else r.1.setOp { o with kind := .atomic aop size rest d r.2 far })
        else none
    | _ => none

/-- ATOMIC_PERFORM (R183-R186, R197, R198). -/
def execAtomicPerform (id k : Nat) (s : State) : Host.Outcome State Fault Refusal := event s (s.creditOp id (s.atomic? id k))

/-! ## Leases -/

/-- OWN_LEASE_RETURN (R184): the core gives the lease back when it expires, or once it has had no atomic pending on the
line for 32 ticks. The line's home number stands in the list of homes. -/
def State.leaseReturn? (s : State) (line : Nat) : Option State :=
  match s.homes[line]? with
  | none => none
  | some h => match h.own with
    | some (c, t) =>
      if t ≤ s.time || (h.used + 32 ≤ s.time &&
        !(s.flight.any fun o => o.isAtomic && o.core == c && o.accs.any fun a => a.place.line? == some h.line))
      then some (s.setHome { h with own := none }) else none
    | none => none

def execOwnLeaseReturn (line : Nat) (s : State) : Host.Outcome State Fault Refusal := event s (s.leaseReturn? line)

/-- LEASE_REQUEST_RETRY (R186, R187): requests of two cores for one line met in a cycle; the loser comes again later,
and the line's contention counter rises. -/
def State.leaseRetry? (s : State) (line core : Nat) : Option State :=
  match s.homes[line]? with
  | none => none
  | some h =>
    let mine (c : Nat) : Bool := s.flight.any fun o => o.isAtomic && o.core == c && o.accs.any fun a =>
      a.place.line? == some h.line
    if mine core && s.flight.any fun o => o.core != core && mine o.core
    then some (s.setHome { h with count := min 3 (h.count + 1) }) else none

def execLeaseRequestRetry (line core : Nat) (s : State) : Host.Outcome State Fault Refusal :=
  event s (s.leaseRetry? line core)

/-- A copy whose expiry has passed, by the signed difference modulo 2^20 (R178). -/
def State.expired (s : State) (c : Copy) : Bool :=
  (c.expiry - BitVec.ofNat 20 (s.islandTime (spaceCluster c.holder))).toInt ≤ 0

/-- LEASE_SWEEP (R178): a core's L1 and its cluster's CACHE banks drop their expired copies. -/
def State.sweep (s : State) (p : Copy → Bool) : State :=
  (s.copies.filter fun c => p c && s.expired c).foldl (fun s c => s.dropCopy c.holder c.line) s

def execLeaseSweep (core : Nat) (s : State) : Host.Outcome State Fault Refusal :=
  .next (s.sweep fun c => c.holder == .l1 core || c.holder == .cc (clusterOf core))

/-! ## MAINTENANCE_DONE -/

/-- The dirty bytes of half i of an LLC line are written to HBM; they stay marked. -/
def State.halfClean (s : State) (l : Loc) (i : Nat) : State :=
  match s.llc.find? fun e => e.line == l.line with
  | some e => (List.range 64).foldl (fun s j =>
      if e.dirty.getLsbD (64 * i + j) then
        let b := s.raw ⟨.llc, l.line.tagged + 64 * i + j⟩
        s.putHbm (l.line.plus (64 * i + j)) b.1 b.2 else s) s
  | none => s

/-- An LLC line may have been written back at any time before it is dropped, either half or both (R147, R414). -/
def State.maybeClean (s0 : State) (l : Loc) : State :=
  let s := { s0 with free := s0.free + 2 }
  let x := Config.freeBit s0.free
  let y := Config.freeBit (s0.free + 1)
  let s := if x then s.halfClean l 0 else s
  let s := if y then s.halfClean l 1 else s
  if x == y then s
  else { s with llc := s.llc.map fun e => if e.line == l.line && e.dirty ≠ 0 then { e with part := true } else e }

/-- The line's bytes in HBM may be those before the write-back of a CLEAN that is outstanding or those after it, whole
(R177). -/
def State.wholeClean (s : State) (l : Loc) : State :=
  let part := s.llc.any fun e => e.line == l.line && e.part
  let t := { s with free := s.free + 1 }
  if part || Config.freeBit s.free then t.llcClean l else t

/-- One line of a maintenance instruction (R169): 0 CLEAN, 1 INVAL, 2 CLNINV. -/
def State.maintLine (s : State) (o : Op) (sub : Nat) (p : Place) : State :=
  match p with
  | .homed l0 _ =>
    let l := s.fwd l0.line
    let s := if sub = 1 then s.maybeClean l else s.llcClean l
    if sub = 0 then s
    else (((s.llcDrop l).dropCopy (.l1 o.core) l0.line).dropCopy (.cc (clusterOf o.core)) l0.line)
  | .lane k =>
    let evicted := sub = 1 && Config.freeBit s.free
    let s := { s with free := s.free + 1 }
    let s := if sub != 1 || evicted then s.privClean o.wave k else s
    if sub = 0 then s else s.privDrop o.wave k
  | _ => s

/-- Every line is done, after the wave's earlier stores to it (R169, R170). -/
def State.maint? (s : State) (id : Nat) : Option State :=
  match s.op? id with
  | none => none
  | some o => match o.kind with
    | .maint sub lines =>
      if s.flight.any fun p => p.id < o.id && p.wave == o.wave && (p.isStore || p.isAtomic) && p.accs.any fun a =>
        lines.any fun l => a.place.line?.isSome && a.place.line? == l.line?
      then none
      else some ((lines.foldl (fun s l => s.maintLine o sub l) s).dropOp id)
    | _ => none

/-- MAINTENANCE_DONE (R170). -/
def execMaintenanceDone (id : Nat) (s : State) : Host.Outcome State Fault Refusal := event s (s.creditOp id (s.maint? id))

/-! ## MSV_COMPLETE -/

/-- Element values of one line (R175). -/
def msvElem (sub : Nat) (pat : Word) (a b : List Byte) : List Byte :=
  let els (w : Nat) (f : Num.Fmt) (g : Num.Ex → Num.Ex → Num.Ex) : List Byte :=
    (List.range (128 / w)).flatMap fun i =>
      let x (l : List Byte) := Num.val f (natOf ((l.drop (w * i)).take w))
      bytesOf w (Num.round f .rne (g (x a) (x b)))
  match sub with
  | 0 => els 2 Num.bf16 Num.Ex.add
  | 1 => els 4 Num.f32 Num.Ex.add
  | 2 => els 2 Num.bf16 Num.Ex.mul
  | 3 => (List.range 32).flatMap fun _ => bytesOf 4 pat.toNat
  | _ => a

/-- A CLEAN or CLNINV of the line is outstanding. -/
def State.cleaning (s : State) (l : Loc) : Bool :=
  s.flight.any fun o => match o.kind with
    | .maint sub lines => sub != 1 && lines.any fun p => p.line?.map s.fwd == some l.line
    | _ => false

/-- The SBD reads a source line in HBM; dirty bytes in the LLC may or may not have been written back (R176, R414), as one where
a CLEAN of them is outstanding (R177). -/
def State.msvRead (s : State) (a : Nat) : State × List (Byte × Bool) :=
  let l := s.fwd ⟨.phys, a⟩
  let s := if s.cleaning l then s.wholeClean l else s.maybeClean l
  (s, (List.range 128).map fun i => s.hbm (l.plus i))

/-- A source line as the unit finds it, or as it stood before the operation when it overlaps c (R175). -/
def State.msvSource (s s0 : State) (m : Msv) (l : List Nat) (i : Nat) : State × List (Byte × Bool) :=
  match l[i]? with
  | none => (s, List.replicate 128 (0, false))
  | some a =>
    let old := l != m.c && Config.freeBit s.free && m.c.contains a
    let s := { s with free := s.free + 1 }
    if old then (s, (s0.msvRead a).2) else s.msvRead a

/-- Write one line of c. -/
def State.msvLine (s s0 : State) (m : Msv) (i : Nat) : State :=
  let (s, a) := s.msvSource s0 m m.a i
  let (s, b) := s.msvSource s0 m m.b i
  let p := (a ++ b).any (·.2)
  let out := msvElem m.sub m.pat (a.map (·.1)) (b.map (·.1))
  let l := s.fwd ⟨.phys, m.c.getD i 0⟩
  (out.foldl (fun (q : State × Nat) v => (q.1.putHbm (l.plus q.2) v p, q.2 + 1)) (s, 0)).1

/-- The lines of c, from one end or the other. -/
def Msv.order (m : Msv) (s : State) : List Nat :=
  let n := m.c.length
  if Config.freeBit s.free then List.range n else (List.range n).reverse

/-- The operation's lines of c are written to HBM (R177), after the fragment's earlier acquires and the releases that name E
(R195). The home takes the host's halves back first, once no request of the host for one is in flight (R380, R382). -/
def State.msv? (s : State) (id : Nat) : Option State :=
  match s.op? id with
  | none => none
  | some o => match o.kind with
    | .msv m =>
      if s.acquiring o || s.releasing o 1
          || (m.c ++ m.a ++ m.b).any fun a => [0, 64].any fun i => s.snoopBlocked ⟨.phys, a + i⟩ true
      then none
      else
      let s := (m.c ++ m.a ++ m.b).foldl (fun (s : State) a => s.recall ⟨.phys, a⟩) s
      some (((m.order s).foldl (fun (t : State) i => t.msvLine s m i) { s with free := s.free + 1 }).dropOp id)
    | _ => none

/-- MSV_COMPLETE (R175-R177). -/
def execMsvComplete (id : Nat) (s : State) : Host.Outcome State Fault Refusal := event s (s.creditOp id (s.msv? id))

end Sys2Proof.Machine
end

