-- ==== Sys2Proof/Machine/Rink.lean ====
section
/-! DEFINITION. The rink (majors 0x39 and 0x3A; R273-R293): operands, pages, stores and loads of keys and values,
allocation, publishing, acquiring, voiding. -/
namespace Sys2Proof.Machine

/-! ## Descriptors and tables -/

/-- Bytes of one stored head vector (R274). -/
def Rink.vb (r : Rink) : Nat := if r.fmt = 2 then r.hdim + 4 * ((r.hdim + 63) / 64) else 2 * r.hdim

/-- The four bytes of word j as a store leaves them: e4m3's last word ends in two pad bytes when the scales are odd in
number, and pad bytes read as 0 (R274). -/
def Rink.storedWord (r : Rink) (j : Nat) (w : Word) : List Byte :=
  if r.fmt = 2 && r.hdim / 32 % 2 = 1 && j + 1 = r.vb / 4 then (bytesOf 4 w.toNat).take 2 ++ [0, 0] else bytesOf 4 w.toNat

def Vd.rink (v : Vd) (h : Nat) : Option Rink := (v.rinks.find? fun p => p.1 == h).map (·.2)

def Vd.setRink (v : Vd) (h : Nat) (r : Rink) : Vd := { v with rinks := v.rinks.map fun p => if p.1 = h then (h, r) else p }

def State.setRink (s : State) (d h : Nat) (r : Rink) : State := s.modVd d (·.setRink h r)

/-- Bit p of a position bitmap. -/
def bitAt (m p : Nat) : Bool := m / 2 ^ p % 2 == 1

/-- The bits [a, b). -/
def bits (a b : Nat) : Nat := 2 ^ b - 2 ^ a

/-- The least position whose bit is 0. -/
def leastClear (m : Nat) : Nat := (m ^^^ (m + 1)).log2

/-- F_l (R277). -/
def Rink.frontier (r : Rink) (l : Nat) : Nat := leastClear (r.pub.getD l 0)

def Rink.isPub (r : Rink) (l p : Nat) : Bool := bitAt (r.pub.getD l 0) p

def Rink.page (r : Rink) (l idx : Nat) : Option Nat :=
  (r.pages.find? fun e => e.1 == l && e.2.1 == idx).map (·.2.2)

def Rink.pageIdx (r : Rink) (p : Nat) : Nat := p / 2 ^ r.ppplog

/-- RKNAME(h) (R276). -/
def rkName (h : Nat) : DWord := BitVec.ofNat 64 (2 ^ 56 + h)

/-- Where word j of the vector of position p stands in its page. DESIGN CHOICE: the spec gives no order inside a page. -/
def Rink.wordAt (r : Rink) (page head : Nat) (v : Bool) (p j : Nat) : Loc :=
  ⟨.phys, page + ((p % 2 ^ r.ppplog * r.nheads + head) * 2 + (if v then 1 else 0)) * r.vb + 4 * j⟩

/-- A place that always reads 0: nothing is ever stored there. -/
def zeroPlace : Place := .direct ⟨.cmd 65, 0⟩

/-- Pool pages the rink holds: PAGES (R273), with those that a reset or a FULL search keeps with it (R272, R406). -/
def Rink.held (r : Rink) : List Nat := r.pages.map (·.2.2) ++ r.kept ++ r.stale

/-- The page of the old map that workgroup `who` of its gang still reads (R272). -/
def Rink.oldPage (r : Rink) (who : Nat × Nat) (l idx : Nat) : Option Nat :=
  (r.old.find? fun e => e.gang == who.1 && e.wg == who.2 && e.layer == l && e.idx == idx).map (·.page)

/-- Where a read of the word by that workgroup finds it: nowhere for a void position or a missing page (R279, R287). -/
def Rink.wordPlace (r : Rink) (who : Nat × Nat) (l head : Nat) (v : Bool) (p j : Nat) : Place :=
  if bitAt r.void p then zeroPlace
  else match (r.oldPage who l (r.pageIdx p)).or (r.page l (r.pageIdx p)) with
    | some pg => .direct (r.wordAt pg head v p j)
    | none => zeroPlace

/-- Where a store of the word by that workgroup goes: the page, and the old one that the workgroup still reads; nowhere for a
void position or a missing page (R272, R279, R281). -/
def Rink.storePlaces (r : Rink) (who : Nat × Nat) (l head : Nat) (v : Bool) (p j : Nat) : List Place :=
  if bitAt r.void p then []
  else match r.page l (r.pageIdx p) with
    | some pg => (pg :: (r.oldPage who l (r.pageIdx p)).toList).map fun pg => .direct (r.wordAt pg head v p j)
    | none => []

/-- Every byte of a 64 KiB page of HBM becomes 0: at its home, in the host's halves of it, which it is to give up first, and where
it moves to (R275, R379, R403). -/
def State.wipe (s0 : State) (pg : Nat) : State :=
  let n := pg / 65536
  let s := (s0.dir.filter fun e => e.1 / 1024 == n).foldl (fun s e => s.exchange .snpInv (halfLoc e.1) (some e.2) none (if e.2 == .m then s0.hostHalf e.1 else [])) s0
  let ends := (s.moves.filter fun m => m.src == n).map (·.dst)
  (n :: ends).foldl (fun s n =>
    let t := ((s.zero ⟨.phys, n * 65536⟩ 65536).zero ⟨.llc, (⟨.phys, n * 65536⟩ : Loc).tagged⟩ 65536).zero
      ⟨.hostCopy, n * 65536⟩ 65536
    { t with marked := t.marked.filter (· != n), dir := t.dir.filter fun e => e.1 / 1024 != n
             llc := t.llc.filter fun e => !(e.line.sp == .phys && e.line.a / 65536 == n) }) s

/-- Take a free page for (l, idx); every byte of it is 0 (R275). -/
def State.takePage (s : State) (d h l idx : Nat) : State :=
  match (s.vd d).pool, (s.vd d).rink h with
  | pg :: rest, some r =>
    ((s.wipe pg).setRink d h { r with pages := (l, idx, pg) :: r.pages }).modVd d fun v => { v with pool := rest }
  | _, _ => s

def State.takePages (s : State) (d h : Nat) (need : List (Nat × Nat)) : State :=
  need.foldl (fun s n => s.takePage d h n.1 n.2) s

/-! ## Operands (R278) -/

structure RkArg where
  h : Nat
  layer : Nat
  head : Nat
  rink : Rink
  deriving Repr

/-- Decode a rink operand: ILL for a nonzero bit in 71:32, RKSTATE for a handle that names no rink or a listed field
out of range; `extra` stands in TRAPA bits 55:32. -/
def State.rkArg (s : State) (x : SReg) (useLayer useHead : Bool) (extra : Nat := 0) (lanes : Word := 0) : Act RkArg := do
  need (x.tag == 0 && x.val.toNat < 2 ^ 32) s cILL
  let v := x.val.toNat
  let bad : Act RkArg := .error (.trap s ⟨cRKSTATE, BitVec.ofNat 72 (v + extra * 2 ^ 32), lanes, false⟩)
  let h := field v 0 16
  match (if h = 0 then none else s.cv.rink h) with
  | none => bad
  | some r =>
    if (useLayer && r.nlayers ≤ field v 16 8) || (useHead && r.nheads ≤ field v 24 8) then bad
    else .ok ⟨h, field v 16 8, field v 24 8, r⟩

/-- RKSTATE with the operand in TRAPA. -/
def rkState {α : Type} (s : State) (x : SReg) : Act α := fault s cRKSTATE (BitVec.ofNat 72 (x.val.toNat % 2 ^ 32))

/-! ## RKLD and RKST (R279) -/

/-- A lane's position and word index. -/
def rkPos (w : Word) : Nat := w.toNat % 2 ^ 24
def rkWord (w : Word) : Nat := w.toNat / 2 ^ 24

/-- The lanes that fail the first of the checks of R279 that some lane fails: each check runs over every active lane.
DEDUCED, log 81. -/
def rkBad (r : Rink) (l : Nat) (store : Bool) (a : VReg) (act : Word) : List Nat :=
  let off := (lanesOf act).filter fun i => decide (r.next ≤ rkPos (a.lane i)) || decide (r.vb / 4 ≤ rkWord (a.lane i))
  if off.isEmpty then (lanesOf act).filter fun i =>
    let p := rkPos (a.lane i)
    store && r.isPub l p && !bitAt r.void p
  else off

/-- RKSTATE or KVDRY for these lanes, the lowest one's position in TRAPA. -/
def rkLaneFault {α : Type} (s : State) (c : Byte) (x : SReg) (a : VReg) (ls : List Nat) : Act α :=
  .error (.trap s ⟨c, BitVec.ofNat 72 (x.val.toNat % 2 ^ 32 + rkPos (a.lane (ls.headD 0)) * 2 ^ 32), mask32L ls, false⟩)

/-- What an RKLD in flight keeps of a lane in its access: K or V under a tag of no address space, the lane's word, the
operand. -/
def rkVa (x : SReg) (w : Word) (v : Bool) : Addr :=
  BitVec.ofNat 72 ((if v then 0x81 else 0x80) * 2 ^ 64 + w.toNat * 2 ^ 32 + x.val.toNat % 2 ^ 32)

/-- The workgroup a wave belongs to: gang and number. -/
def State.wgOf (s : State) (w : Nat) : Nat × Nat := ((s.wave w).gang, (s.wave w).wg)

/-- The place such an access reads as the rink stands now. -/
def State.rkPlace (s : State) (o : Op) (a : Acc) : Place :=
  let v := a.va.toNat
  match (s.vd (s.gang o.gang).vd).rink (field v 0 16) with
  | some r => r.wordPlace (s.wgOf o.wave) (field v 16 8) (field v 24 8) (field v 64 1 == 1) (field v 32 24) (field v 56 8)
  | none => a.place

/-- An RKST lane where it goes as the rink stands now. -/
def State.rkTargets (s : State) (o : Op) (a : Acc) : List Acc :=
  let v := a.va.toNat
  match (s.vd (s.gang o.gang).vd).rink (field v 0 16) with
  | some r => (r.storePlaces (s.wgOf o.wave) (field v 16 8) (field v 24 8) (field v 64 1 == 1) (field v 32 24)
      (field v 56 8)).map fun p => { a with place := p }
  | none => []

/-- One access for each lane. -/
def oncePerLane (accs : List Acc) : List Acc :=
  accs.foldl (fun l a => if l.any fun b => b.lane == a.lane then l else l ++ [a]) []

/-- An RKLD or RKST in flight follows its rink: a position voided since reads as 0 and is not stored to, a page taken or
moved since is the one accessed (R272, R279, R281, R284, R287). An RKST with no lane left is done. -/
def State.rkFollow (s : State) (o : Op) : Option Op :=
  match o.kind with
  | .load accs d e h =>
    if o.cls == some kRK then some { o with kind := .load (accs.map fun a => { a with place := s.rkPlace o a }) d e h }
    else some o
  | .store accs =>
    if o.cls == some kRK then
      match (oncePerLane accs).flatMap (s.rkTargets o) with
      | [] => none
      | l => some { o with kind := .store l }
    else some o
  | _ => some o

def State.rkLook (s : State) : State := { s with flight := s.flight.filterMap s.rkFollow }

/-- RKLD.k, RKLD.v. -/
def State.rkld (s : State) (f : ME) (v : Bool) : Act State := do
  let act := s.active f.kp
  let vd := f.vd.toNat
  s.checkS f.sa.toNat
  [f.va.toNat, vd].forM s.checkV
  waitFor ((s.sreg f.sa.toNat).st != .empty)
  s.srcsReady false [(f.va.toNat, false)] []
  s.dstReady vd
  let x ← s.readS f.sa.toNat
  let (vs, s') ← s.claim act [f.va.toNat]
  let a := vs.headD {}
  let enter (accs : List Acc) : State := (s'.emptyV vd 1).launchOp (some kRK) (.load accs (s.vdst vd 1) .word s.hint)
  if act = 0 then do
    s.room kRK
    .ok (enter [])
  else do
    let k ← s.rkArg x true true (rkPos (a.lane (lowest act))) act
    let bad := rkBad k.rink k.layer false a act
    if !bad.isEmpty then rkLaneFault s cRKSTATE x a bad
    else do
      s.room kRK
      .ok (enter ((lanesOf act).map fun l =>
        { lane := l, size := 4, va := rkVa x (a.lane l) v
          place := k.rink.wordPlace (s.wgOf s.cur.wave) k.layer k.head v (rkPos (a.lane l)) (rkWord (a.lane l)) : Acc }))

/-- The pages missing for the lanes: (layer, index). -/
def rkNeed (r : Rink) (l : Nat) (ps : List Nat) : List (Nat × Nat) :=
  ((ps.filter fun p => (r.page l (r.pageIdx p)).isNone).map fun p => (l, r.pageIdx p)).eraseDups

/-- RKST.k, RKST.v: nothing is done where it faults, and nothing is checked of the operand where no lane is active. -/
def State.rkst (s : State) (f : ME) (v : Bool) : Act State := do
  let act := s.active f.kp
  let vd := f.vd.toNat
  s.checkS f.sa.toNat
  [f.va.toNat, vd].forM s.checkV
  waitFor ((s.sreg f.sa.toNat).st != .empty)
  let srcs := [f.va.toNat, vd]
  s.srcsReady false (srcs.map (·, false)) []
  let x ← s.readS f.sa.toNat
  let (vs, s') ← s.claim act srcs
  let a := vs.headD {}
  let dat := vs.tail.headD {}
  if act = 0 then do
    let _ ← s.commit
    .ok s'.commitMark
  else do
  let k ← s.rkArg x true true (rkPos (a.lane (lowest act))) act
  let r := k.rink
  let bad := rkBad r k.layer true a act
  if !bad.isEmpty then rkLaneFault s cRKSTATE x a bad
  else do
    s.room kRK
    let lanes := (lanesOf act).filter fun l => !bitAt r.void (rkPos (a.lane l))
    let need := rkNeed r k.layer (lanes.map fun l => rkPos (a.lane l))
    let hardLanes := lanes.filter fun l => !bitAt r.spec (rkPos (a.lane l)) &&
      (r.page k.layer (r.pageIdx (rkPos (a.lane l)))).isNone
    let hard := rkNeed r k.layer (hardLanes.map fun l => rkPos (a.lane l))
    let d := s.cg.vd
    if s.cv.pool.length < hard.length then rkLaneFault s cKVDRY x a hardLanes
    else do
      let soft := need.filter fun n => !hard.contains n
      waitFor ((s.cv.pool.take need.length).all s.pageFree)
      let _ ← s.commit
      let s := (s'.takePages d k.h (hard ++ soft.take (s.cv.pool.length - hard.length))).commitMark
      let r := ((s.vd d).rink k.h).getD r
      let kept := lanes.filter fun l => (r.page k.layer (r.pageIdx (rkPos (a.lane l)))).isSome
      let s := if kept.length < lanes.length then s.setStat statDRY else s
      if kept.isEmpty then .ok s
      else .ok (s.launchOp (some kRK) (.store (kept.flatMap fun l =>
        (r.storePlaces (s.wgOf s.cur.wave) k.layer k.head v (rkPos (a.lane l)) (rkWord (a.lane l))).map fun p =>
        { lane := l, size := 4, data := r.storedWord (rkWord (a.lane l)) (dat.lane l), va := rkVa x (a.lane l) v
          place := p : Acc })))

/-- RKLD.k (R279). -/
def execRkldK (f : ME) (s : State) : Host.Outcome State Fault Refusal := finishDone s (s.rkld f false)
/-- RKLD.v (R279). -/
def execRkldV (f : ME) (s : State) : Host.Outcome State Fault Refusal := finishDone s (s.rkld f true)
/-- RKST.k (R279). -/
def execRkstK (f : ME) (s : State) : Host.Outcome State Fault Refusal := finishDone s (s.rkst f false)
/-- RKST.v (R279). -/
def execRkstV (f : ME) (s : State) : Host.Outcome State Fault Refusal := finishDone s (s.rkst f true)

/-! ## Allocation, publishing, acquiring -/

/-- A scalar result that the rink unit delivers later (R282, R285, R292). -/
def State.rkResult (s : State) (sd : Nat) (v : Nat) (ord : Order := .weak) : State :=
  (s.emptyS sd).launchOp (some kRK) (.svalue (s.sdst sd 1) [{ val := BitVec.ofNat 64 v }]) ord 7

/-- RKALLOC (R282). -/
def State.rkalloc (s : State) (f : XG) : Act State := do
  [f.d.toNat, f.sa.toNat, f.sb.toNat].forM s.checkS
  let xs ← s.readSs [f.sa.toNat, f.sb.toNat]
  let n := (xs.getD 1 {}).val.toNat
  need (n ≤ 65536) s cILL
  let k ← s.rkArg (xs.getD 0 {}) false false
  s.room kRK
  let s ← s.commit
  let r := k.rink
  if r.maxpos < r.next + n then .ok (s.rkResult f.d.toNat (2 ^ 64 - 1) .acq)
  else
    let r' := { r with next := r.next + n
                       spec := if f.g = 1 then r.spec ||| bits r.next (r.next + n) else r.spec }
    .ok ((s.setRink s.cg.vd k.h r').rkResult f.d.toNat r.next .acq)

def execRkalloc (f : XG) (s : State) : Host.Outcome State Fault Refusal := finishDone s (s.rkalloc f)

/-- The rink unit's answer to an RKACQ or RKSNAP in flight, if it can be given now, the fragment's earlier acquires, an RKACQ or
RKSNAP among them, having been answered (R189, R284, R288): an RKACQ's once the frontier has come, or
POISON when the rink is gone (R284), which RKSNAP follows; the bits of an RKSNAP all at once (R285). -/
def State.rkAnswer (s : State) (o : Op) : Op :=
  let put (d : Dst) (x : SReg) : Op := { o with kind := .svalue d [x] }
  match o.kind with
  | .rkacq vd h l q d =>
    match (s.vd vd).rink h with
    | none => put d { st := .poison }
    | some r => if q ≤ r.frontier l && !s.acquiring o then put d { val := BitVec.ofNat 64 (r.frontier l) } else o
  | .rksnap void vd h l base d =>
    match (s.vd vd).rink h with
    | none => put d { st := .poison }
    | some r => if s.acquiring o then o
      else put d { val := BitVec.ofNat 64 (field (if void then r.void else r.pub.getD l 0) base 64) }
  | _ => o

def State.rkWake (s : State) : State := { s with flight := s.flight.map s.rkAnswer }

/-- RKPUB (R283): a release of mask C, E and M. -/
def State.rkpub (s : State) (f : X3) : Act State := do
  let sb := f.sb.toNat
  [f.d.toNat, f.sa.toNat, sb, sb + 1].forM s.checkS
  let xs ← s.readSs [f.sa.toNat, sb, sb + 1]
  let x := xs.getD 0 {}
  let a := (xs.getD 1 {}).val.toNat
  let b := (xs.getD 2 {}).val.toNat
  let k ← s.rkArg x true false
  if b < a ∨ k.rink.next < b then rkState s x
  else do
    waitFor s.settled
    let s ← s.commit
    let r := { k.rink with pub := k.rink.pub.modify k.layer fun m => m ||| bits a b }
    .ok ((s.setRink s.cg.vd k.h r).rkWake.writeS f.d.toNat (BitVec.ofNat 64 (r.frontier k.layer)))

def execRkpub (f : X3) (s : State) : Host.Outcome State Fault Refusal := finishDone s (s.rkpub f)

/-- RKACQ (R284): an acquire of mask C, E and M, answered when the frontier reaches q. -/
def State.rkacq (s : State) (f : X3) : Act State := do
  [f.d.toNat, f.sa.toNat, f.sb.toNat].forM s.checkS
  let xs ← s.readSs [f.sa.toNat, f.sb.toNat]
  let q := (xs.getD 1 {}).val.toNat
  need (q ≤ 2 ^ 24) s cILL
  let k ← s.rkArg (xs.getD 0 {}) true false
  s.room kRK
  let d := s.cg.vd
  .ok ((s.emptyS f.d.toNat).launchOp (some kRK) (.rkacq d k.h k.layer q (s.sdst f.d.toNat 1)) .acq 7).rkWake

def execRkacq (f : X3) (s : State) : Host.Outcome State Fault Refusal := finishDone s (s.rkacq f)

/-- RKSNAP (R285): 64 bits of a map, which the rink unit reads in one step. -/
def State.rksnap (s : State) (f : XG) : Act State := do
  [f.d.toNat, f.sa.toNat, f.sb.toNat].forM s.checkS
  let xs ← s.readSs [f.sa.toNat, f.sb.toNat]
  let base := (xs.getD 1 {}).val.toNat
  need (base < 2 ^ 24) s cILL
  need (base % 64 == 0) s cALIGN ((xs.getD 1 {}).tag ++ (xs.getD 1 {}).val)
  let k ← s.rkArg (xs.getD 0 {}) true false
  s.room kRK
  .ok ((s.emptyS f.d.toNat).launchOp (some kRK) (.rksnap (f.g == 1) s.cg.vd k.h k.layer base (s.sdst f.d.toNat 1))
    (if f.g = 1 then .weak else .acq) 7).rkWake

def execRksnap (f : XG) (s : State) : Host.Outcome State Fault Refusal := finishDone s (s.rksnap f)

/-- Linked pages whose whole range of positions is void, in ascending layer and page (R286). -/
def Rink.voidPages (r : Rink) : List (Nat × Nat × Nat) :=
  let n := 2 ^ r.ppplog
  let dead := r.pages.filter fun e => field r.void (e.2.1 * n) n == 2 ^ n - 1
  sortBy (fun (a b : Nat × Nat × Nat) => decide (a.1 < b.1) || (a.1 == b.1 && decide (a.2.1 ≤ b.2.1))) dead

/-- Search for pins of the rink's name and free a page that left its map; after FULL the rink keeps it. -/
def State.rkFree (s : State) (d h p : Nat) : State :=
  match s.request d (rkName h) (.pages [p]) with
  | (.full, t) => match (t.vd d).rink h with
    | some r => t.setRink d h { r with stale := r.stale ++ [p] }
    | none => t
  | (_, t) => t

/-- Some workgroup still holds the name in a pin register, or its saved pins do (R316). -/
def State.wgPins (s : State) (g wg : Nat) (n : DWord) : Bool :=
  ((s.gang g).placed && (((s.gang g).wgs.getD wg {}).pins).contains n)
    || (s.vd (s.gang g).vd).ovf.any fun e => e.gang == g && e.wg == wg && e.name == n

/-- A workgroup that has unpinned a rink reads its new map (R272). -/
def State.dropOld (s : State) : State :=
  if s.vds.all fun v => v.rinks.all fun p => p.2.old.isEmpty then s
  else { s with vds := s.vds.map fun v => { v with rinks := v.rinks.map fun p =>
    (p.1, { p.2 with old := p.2.old.filter fun e => s.wgPins e.gang e.wg (rkName p.1) }) } }

/-- Unlink pages one by one and search for pins of the rink's name; one whose search returns FULL is linked again. The
outcomes: freed, deferred, full. -/
def State.rkUnlink (s : State) (d h : Nat) (ps : List (Nat × Nat × Nat)) : List Freed × State :=
  ps.foldl (fun (q : List Freed × State) e =>
    match (q.2.vd d).rink h with
    | none => q
    | some r =>
      match q.2.request d (rkName h) (.pages [e.2.2]) with
      | (.full, t) => (q.1 ++ [.full], t)
      | (o, t) => (q.1 ++ [o], t.setRink d h { r with pages := r.pages.filter (· != e) })) ([], s)

/-- Pages that a steal left with the rink because their search returned FULL are searched for again (R272, R286). -/
def State.rkStale (s : State) (d h : Nat) : State :=
  match (s.vd d).rink h with
  | none => s
  | some r => r.stale.foldl (fun s p => s.rkFree d h p) (s.setRink d h { r with stale := [] })

/-- RKVOID (R286). -/
def State.rkvoid (s : State) (f : X3) : Act State := do
  let sb := f.sb.toNat
  [f.d.toNat, f.sa.toNat, sb, sb + 1].forM s.checkS
  let xs ← s.readSs [f.sa.toNat, sb, sb + 1]
  let x := xs.getD 0 {}
  let a := (xs.getD 1 {}).val.toNat
  let b := (xs.getD 2 {}).val.toNat
  let k ← s.rkArg x false false
  if b < a ∨ k.rink.next < b ∨ k.rink.spec &&& bits a b ≠ bits a b then rkState s x
  else do
    waitFor s.settled
    let s ← s.commit
    let d := s.cg.vd
    let r := { k.rink with void := k.rink.void ||| bits a b, pub := k.rink.pub.map fun m => m ||| bits a b }
    let s := (s.setRink d k.h r).rkWake.rkStale d k.h
    let (o, s) := s.rkUnlink d k.h r.voidPages
    let code := if o.isEmpty then 0 else if o.contains .full then 3 else if o.contains .deferred then 2 else 1
    .ok (s.writeS f.d.toNat (BitVec.ofNat 64 code))

def execRkvoid (f : X3) (s : State) : Host.Outcome State Fault Refusal := finishDone s (s.rkvoid f)

/-! ## Pages and information -/

/-- Page indices of [a, b). -/
def Rink.span (r : Rink) (a b : Nat) : List Nat :=
  if a < b then (List.range (r.pageIdx (b - 1) - r.pageIdx a + 1)).map (r.pageIdx a + ·) else []

/-- RKPAGE (R291): all the missing pages, or none. -/
def State.rkpage (s : State) (f : XG) : Act State := do
  let sb := f.sb.toNat
  [f.d.toNat, f.sa.toNat, sb, sb + 1].forM s.checkS
  let xs ← s.readSs [f.sa.toNat, sb, sb + 1]
  let x := xs.getD 0 {}
  let a := (xs.getD 1 {}).val.toNat
  let b := (xs.getD 2 {}).val.toNat
  let k ← s.rkArg x true false
  let r := k.rink
  if b < a ∨ r.next < b then rkState s x
  else do
    let layers := if f.g = 1 then List.range r.nlayers else [k.layer]
    let miss := layers.flatMap fun l => ((r.span a b).filter fun i => (r.page l i).isNone).map fun i => (l, i)
    waitFor (decide (s.cv.pool.length < miss.length) || (s.cv.pool.take miss.length).all s.pageFree)
    let s ← s.commit
    if miss.length ≤ s.cv.pool.length then .ok ((s.takePages s.cg.vd k.h miss).writeS f.d.toNat 0)
    else .ok (s.writeS f.d.toNat (BitVec.ofNat 64 miss.length))

def execRkpage (f : XG) (s : State) : Host.Outcome State Fault Refusal := finishDone s (s.rkpage f)

/-- RKINFO (R292). -/
def State.rkinfo (s : State) (f : X3) : Act State := do
  [f.d.toNat, f.sa.toNat, f.sb.toNat].forM s.checkS
  let xs ← s.readSs [f.sa.toNat, f.sb.toNat]
  let sel := (xs.getD 1 {}).val.toNat
  need (sel < 7) s cILL
  let k ← s.rkArg (xs.getD 0 {}) (sel == 1) false
  let r := k.rink
  s.room kRK
  .ok (s.rkResult f.d.toNat (match sel with
    | 0 => r.next
    | 1 => r.frontier k.layer
    | 2 => s.cv.pool.length
    | 3 => r.desc.toNat
    | 4 => r.held.length
    | 5 => r.maxpos
    | _ => r.vb))

def execRkinfo (f : X3) (s : State) : Host.Outcome State Fault Refusal := finishDone s (s.rkinfo f)

end Sys2Proof.Machine
end

