-- ==== Sys2Proof/Machine/Queues.lean ====
section
/-! DEFINITION. Queues: ports and FIFO banks, copy commands and the copy engine, collectives, deposits (majors 0x32,
0x34 and 0x35; R227-R252, R293, R337). -/
namespace Sys2Proof.Machine

/-! ## Ports (R233-R236) -/

/-- A port of a wave is bound, or unbound. A bank that a role's waves have bound closes at once when they have all ended (R232,
R233). -/
def State.bindPort (s : State) (w q : Nat) (x : Option PortBind) : State :=
  let me := s.wave w
  let t := s.modWave w fun y => { y with ports := y.ports.set q x }
  match x with
  | none => t
  | some p =>
    let t := t.modGang me.gang fun g => { g with banks := g.banks.modify p.bank fun k =>
      { k with boundBy := (me.role :: k.boundBy).eraseDups, named := (p.role.toList ++ k.named).eraseDups } }
    match p.role with
    | some r => t.closeByRole me.gang r
    | none => t

/-- QCFG (R233). -/
def State.qcfg (s : State) (a d : Nat) : Act State := do
  need (!s.cw.handling) s cILL
  if a = 0 then do
    let s ← s.commit
    .ok (s.bindPort s.cur.wave (d - 56) none)
  else do
    let x ← s.readS a
    let v := x.val.toNat
    let b := v / 2 ^ 17
    need (v < 2 ^ 22 && v % 2 ^ 17 == 0 && b < s.cg.banks.length && (s.cg.banks.getD b {}).mode == .fifo) s cLOCAL
      (BitVec.ofNat 72 v)
    need (s.rolePfx.all s.cl.block.has) s cROLE (BitVec.ofNat 72 (s.rolePfx.getD 0))
    let s ← s.commit
    .ok (s.bindPort s.cur.wave (d - 56) (some ⟨b, s.rolePfx⟩))

def execQcfg (a d : BitVec 6) (s : State) : Host.Outcome State Fault Refusal := finishDone s (s.qcfg a.toNat d.toNat)

/-- The bank of a port, or QCLOSED (R234, R235). -/
def State.boundBank (s : State) (q : Nat) : Act (Nat × Bank) :=
  match s.portBank q with
  | some p => .ok p
  | none => fault s cQCLOSED

/-- An entry's lanes come into the active lanes of a register, each with its poison mark (R148). -/
def State.takeEntry (s : State) (d : Nat) (act : Word) (e : VReg) : State :=
  s.modV d fun x => let y := x.write act e.lane; { y with poison := y.poison ||| (e.poison &&& act) }

/-- QTRY (R234): never waits. -/
def State.qtry (s : State) (sd q d : Nat) : Act State := do
  need (!s.cw.handling) s cILL
  s.checkV d
  let (b, k) ← s.boundBank q
  let s ← s.commit
  match k.entries with
  | e :: r =>
    let t := s.modBank b fun k => { k with entries := r }
    .ok ((t.takeEntry d s.exm e).writeS sd 1)
  | [] => .ok (s.writeS sd (if k.closed then 2 else 0))

def execQtry (sd q d : BitVec 6) (s : State) : Host.Outcome State Fault Refusal :=
  finishDone s (s.qtry sd.toNat q.toNat d.toNat)

/-- QPEEK (R234). -/
def State.qpeek (s : State) (sd q d : Nat) : Act State := do
  need (!s.cw.handling) s cILL
  s.checkV d
  let (_, k) ← s.boundBank q
  let s ← s.commit
  let t := match k.entries with
    | e :: _ => s.takeEntry d s.exm e
    | [] => s
  .ok (t.writeS sd (BitVec.ofNat 64 (k.entries.length + (if k.closed then 2 ^ 63 else 0))))

def execQpeek (sd q d : BitVec 6) (s : State) : Host.Outcome State Fault Refusal :=
  finishDone s (s.qpeek sd.toNat q.toNat d.toNat)

/-- QCLOSE (R232, R235): after the pushes of the wave before it, those of its results on their way to the bank included
(R236). -/
def State.qclose (s : State) (q : Nat) : Act State := do
  need (!s.cw.handling) s cILL
  let (b, _) ← s.boundBank q
  waitFor (!(s.flight.any fun o => o.wave == s.cur.wave && match o.dst with
    | .port p => (s.portBank p).map (·.1) == some b
    | _ => false))
  let s ← s.commit
  .ok (s.modBank b fun k => { k with closed := true })

def execQclose (q : BitVec 6) (s : State) : Host.Outcome State Fault Refusal := finishDone s (s.qclose q.toNat)

/-! ## Ranges of a copy command (R239) -/

/-- Word addresses of a range of n bytes. -/
def wordAddrs (x : SReg) (n : Nat) : List Addr := (List.range (n / 4)).map fun i => x.tag ++ (x.val + BitVec.ofNat 64 (4 * i))

/-- The places of the words of a local range; LOCAL at the first that does not exist (R155). -/
def State.localWords (s : State) (off n : Nat) : Act (List Place) :=
  ((List.range (n / 4)).map fun i => off + 4 * i).mapM fun o =>
    match s.cg.localLoc o with
    | some l => .ok (.direct l)
    | none => fault s cLOCAL (BitVec.ofNat 72 o)

/-- A global range of a copy may carry these tags; a destination not 0x01 (R239). -/
def copyTag (t : Byte) (p : Perm) : Bool :=
  t == 0x00 || (t == 0x01 && p == .r) || t == 0xF0 || (0x10 ≤ t.toNat && t.toNat ≤ 0x1F)

/-- Translations of the words of a global range. -/
def State.globalTr (s : State) (x : SReg) (n : Nat) (p : Perm) : List ((Nat × Addr) × Except Byte Place) :=
  (wordAddrs x n).map fun a => ((0, a), if copyTag x.tag p then s.translateCur 0 a p else .error cPROT)

def placesTr (tr : List ((Nat × Addr) × Except Byte Place)) : List Place :=
  tr.filterMap fun t => match t.2 with | .ok p => some p | .error _ => none

/-- The sync word of a command: none for 0 (R238). -/
def State.syncPlace (s : State) (x : SReg) : Act (Option Place) :=
  if x.val = 0 then .ok none
  else match s.cg.localLoc x.val.toNat with
    | some l => .ok (some (.direct l))
    | none => fault s cLOCAL (x.val.setWidth 72)

/-- ALIGN, with the address or the count in TRAPA (R239, R355). -/
def needAlign (s : State) (v : DWord) (tag : Byte) (n : Nat) : Act Unit :=
  need (v.toNat % n == 0) s cALIGN (tag ++ v)

/-! ## Copy queues (R237, R243) -/

/-- Commands and markers still in a core's copy queue; a started collective has left it (R245). -/
def State.inQueue (s : State) (core q : Nat) : List Op :=
  s.flight.filter fun o => o.core == core && match o.kind with
    | .copy p k _ started _ _ => match k with
      | .marker all => all || p == q
      | .coll .. => p == q && !started
      | _ => p == q
    | _ => false

/-- Does a marker cover the queue? -/
def coversQueue (p : Nat) (all : Bool) (q : Nat) : Bool := all || p == q

/-- A marker waits: a command that entered a covered queue before it has not completed. -/
def State.markerWaits (s : State) (m : Op) : Bool :=
  match m.kind with
  | .copy p (.marker all) _ _ _ _ => s.flight.any fun o => o.core == m.core && o.id < m.id && match o.kind with
    | .copy _ (.marker _) .. => false
    | .copy q .. => coversQueue p all q
    | _ => false
  | _ => false

/-- Markers whose earlier commands have completed leave their queues. -/
def State.sweepMarkers (s : State) : State :=
  { s with flight := s.flight.filter fun o => match o.kind with
      | .copy _ (.marker _) .. => s.markerWaits o
      | _ => true }

/-- Enter a command in queue q of the core (R239 step 5); `entry`: its group's, if it is a collective. -/
def State.enterCopy (s : State) (q : Nat) (k : CopyKind) (sync : Option Place) (entry : Nat := 0) : Act State := do
  waitFor ((s.inQueue s.cw.coreNo q).length < 32)
  s.room kCP
  let s ← s.commit
  .ok (s.launchOp (some kCP) (.copy q k sync false [] 0) .weak 0 entry)

/-- Where the two ranges of a copy lie. -/
inductive Side where
  | loc
  | glob
  deriving DecidableEq, Repr, Inhabited

/-- CPYG2L, CPYL2G, CPYG2G, CPYL2L (R238, R239). -/
def State.cpy (s : State) (f : XF) (dst src : Side) : Act State := do
  let sb := f.sb.toNat
  let rs := [f.d.toNat, f.sa.toNat, sb, sb + 1]
  rs.forM s.checkS
  let xs ← s.readSs rs
  let d := xs.getD 0 {}
  let a := xs.getD 1 {}
  let n := (xs.getD 2 {}).val
  let w := xs.getD 3 {}
  need (n.toNat ≤ 2 ^ 24) s cILL
  needAlign s d.val (if dst == .glob then d.tag else 0) 4
  needAlign s a.val (if src == .glob then a.tag else 0) 4
  needAlign s n 0 4
  needAlign s w.val 0 8
  let ld ← if dst == .loc then s.localWords d.val.toNat n.toNat else .ok []
  let la ← if src == .loc then s.localWords a.val.toNat n.toNat else .ok []
  let sync ← s.syncPlace w
  let td := if dst == .glob then s.globalTr d n.toNat .w else []
  let ta := if src == .glob then s.globalTr a n.toNat .r else []
  s.checkTr 4 (td ++ ta)
  if n = 0 then s.commit
  else s.enterCopy f.f3.toNat (.linear (ld ++ placesTr td) (la ++ placesTr ta) n.toNat) sync

/-- CPYG2L (R238). -/
def execCpyg2l (f : XF) (s : State) : Host.Outcome State Fault Refusal := finishDone s (s.cpy f .loc .glob)
/-- CPYL2G (R238). -/
def execCpyl2g (f : XF) (s : State) : Host.Outcome State Fault Refusal := finishDone s (s.cpy f .glob .loc)
/-- CPYG2G (R238). -/
def execCpyg2g (f : XF) (s : State) : Host.Outcome State Fault Refusal := finishDone s (s.cpy f .glob .glob)
/-- CPYL2L (R238). -/
def execCpyl2l (f : XF) (s : State) : Host.Outcome State Fault Refusal := finishDone s (s.cpy f .loc .loc)

/-- CPYGATH (R238, R239): the source rows are not checked at issue. -/
def State.cpygath (s : State) (f : XF) : Act State := do
  let sb := f.sb.toNat
  let rs := [f.d.toNat, f.sa.toNat, sb, sb + 1, sb + 2, sb + 3]
  rs.forM s.checkS
  let xs ← s.readSs rs
  let d := xs.getD 0 {}
  let a := xs.getD 1 {}
  let row := (xs.getD 2 {}).val
  let w := xs.getD 3 {}
  let ix := xs.getD 4 {}
  let cnt := (xs.getD 5 {}).val.toNat
  need (4 ≤ row.toNat && row.toNat ≤ 4096 && 1 ≤ cnt && cnt ≤ 4096) s cILL
  needAlign s d.val 0 4
  needAlign s a.val a.tag 4
  needAlign s row 0 4
  needAlign s ix.val 0 4
  needAlign s w.val 0 8
  let ld ← s.localWords d.val.toNat (row.toNat * cnt)
  let li ← s.localWords ix.val.toNat (4 * cnt)
  let sync ← s.syncPlace w
  need (copyTag a.tag .r) s cPROT (a.tag ++ a.val)
  s.enterCopy f.f3.toNat (.gather ld (a.tag ++ a.val) row.toNat cnt li) sync

def execCpygath (f : XF) (s : State) : Host.Outcome State Fault Refusal := finishDone s (s.cpygath f)

/-- CPYRK (R293): an sb above 60 raises ILL after the waits of the operands that there are. -/
def State.cpyrk (s : State) (f : XF) : Act State := do
  let sb := f.sb.toNat
  let rs := [f.d.toNat, f.sa.toNat] ++ [sb, sb + 1, sb + 2, sb + 3].filter (· < 64)
  rs.forM s.checkS
  let xs ← s.readSs rs
  let d := xs.getD 0 {}
  let x := xs.getD 1 {}
  let p := (xs.getD 2 {}).val.toNat
  let n := (xs.getD 3 {}).val.toNat
  let w := xs.getD 4 {}
  let sel := (xs.getD 5 {}).val.toNat
  need (n ≤ 4096 && sel < 2 && sb ≤ 60) s cILL
  let k ← s.rkArg x true true
  needAlign s d.val 0 4
  needAlign s w.val 0 8
  let ld ← s.localWords d.val.toNat (n * k.rink.vb)
  let sync ← s.syncPlace w
  if k.rink.next < p + n then rkState s x
  else if n = 0 then s.commit
  else s.enterCopy f.f3.toNat (.rink k.h k.layer k.head p n (sel == 1) ld) sync

def execCpyrk (f : XF) (s : State) : Host.Outcome State Fault Refusal := finishDone s (s.cpyrk f)

/-- CQFENCE (R243): a marker in one queue or in all of the core's; one with nothing before it is over at once. -/
def State.cqfence (s : State) (all : Bool) (n : Nat) : Act State := do
  let c := s.cw.coreNo
  waitFor ((List.range 8).all fun q => !coversQueue n all q || (s.inQueue c q).length < 32)
  let s ← s.commit
  .ok (s.launchOp none (.copy n (.marker all) none false [] 0)).sweepMarkers

def execCqfence (all : BitVec 1) (n : BitVec 3) (s : State) : Host.Outcome State Fault Refusal :=
  finishDone s (s.cqfence (all == 1) n.toNat)

/-! ## Collectives (R245, R246) -/

/-- A group's size and this device's member index; none where it is not configured (R392). -/
def Vd.groupOf (v : Vd) (g : Nat) : Option (Nat × Nat) :=
  let e := (v.groups.getD g 0).toNat
  let bound (i : Nat) : Bool := (v.peers.getD i 0).getLsbD 0
  if g < 64 && field e 0 1 = 1 && field e 1 4 ≠ 0 && field e 17 47 = 0 && bound (field e 9 4) && bound (field e 13 4)
  then some (field e 1 4 + 1, field e 5 4) else none

/-- s[sb+2] is one of the values R246 gives. -/
def collParamOk (isRed : Bool) (p : Nat) : Bool :=
  if isRed then p < 16 && p % 4 != 3 && p / 4 < 2 else p < 256

/-- COLLARED and COLLBC (R246). -/
def State.coll (s : State) (f : XF) (isRed : Bool) : Act State := do
  let sb := f.sb.toNat
  let rs := [f.d.toNat, f.sa.toNat, sb, sb + 1, sb + 2, sb + 3]
  rs.forM s.checkS
  let xs ← s.readSs rs
  let d := xs.getD 0 {}
  let g := (xs.getD 1 {}).val.toNat
  let n := (xs.getD 2 {}).val
  let w := xs.getD 3 {}
  let p := (xs.getD 4 {}).val
  let st := xs.getD 5 {}
  need (n.toNat ≤ 2 ^ 24 && collParamOk isRed p.toNat) s cILL
  match s.cv.groupOf g with
  | none => fault s cPROT
  | some (size, _) => do
    need (isRed || p.toNat < size) s cILL
    needAlign s d.val d.tag 4
    needAlign s n 0 128
    needAlign s st.val st.tag 8
    needAlign s w.val 0 8
    let sync ← s.syncPlace w
    let word (x : SReg) (ok : Bool) (m : Nat) : List ((Nat × Addr) × Except Byte Place) :=
      (wordAddrs x m).map fun a => ((0, a), match s.translateCur 0 a .rw with
        | .ok q => if ok then .ok q else .error cPROT
        | .error c => .error c)
    let tb := word d (d.tag == 0) n.toNat
    let ts := word st (st.tag != 0x01 && copyTag st.tag .w) 8
    s.checkTr 4 (tb ++ ts)
    if n = 0 then s.commit
    else s.enterCopy f.f3.toNat (.coll isRed g n.toNat p (placesTr tb) (placesTr ts)) sync (s.cv.groups.getD g 0).toNat

/-- COLLARED (R246). -/
def execCollared (f : XF) (s : State) : Host.Outcome State Fault Refusal := finishDone s (s.coll f true)
/-- COLLBC (R246). -/
def execCollbc (f : XF) (s : State) : Host.Outcome State Fault Refusal := finishDone s (s.coll f false)

/-! ## Sync words (R337) -/

/-- The 8 bytes of a word in SRAM. -/
def State.word64 (s : State) (l : Loc) : Nat := natOf ((s.raws l 8).map (·.1))
def State.putWord64 (s : State) (l : Loc) (v : Nat) : State := s.putRaws l ((bytesOf 8 v).map fun b => (b, false))

/-- An addition to a sync word (R337). -/
def syncAdded (w n : Nat) : Nat :=
  if field w 28 28 < field w 0 28 + n then w % 2 ^ 63 + 2 ^ 63 else w + n

def State.syncAdd (s : State) (p : Option Place) (n : Nat) : State :=
  match p with
  | some (.direct l) => s.putWord64 l (syncAdded (s.word64 l) n)
  | _ => s

/-! ## The copy engine (R237-R242) -/

/-- May the command at its queue's head start? After the fragment's earlier acquires, and the releases that name E (R195). -/
def State.copyTurn (s : State) (o : Op) (q : Nat) : Bool :=
  !s.acquiring o && !s.releasing o 1 && !(s.flight.any fun p => p.core == o.core && p.id < o.id && match p.kind with
    | .copy n (.marker all) .. => coversQueue n all q && s.markerWaits p
    | .copy n _ _ started _ _ => n == q && !started
    | _ => false)

/-- A word as an engine reads it. -/
def State.readPlace (s : State) (p : Place) : List (Byte × Bool) :=
  (placeBytes p 4).map fun b => match b with
    | .direct l | .homed l _ => s.homeByte l
    | .peer sl off => (Config.freeByte (s.free + sl) off.toNat, Config.freeBit (s.free + sl))
    | .lane _ => (0, false)

/-- Homes are touched by an engine's read of the places. -/
def State.touchPlaces (s : State) (ps : List Place) : State :=
  ps.foldl (fun s p => match p with
    | .homed l _ => s.readTouch l
    | .direct l => if l.sp == .phys then s.readTouch l else s
    | _ => s) s

/-- Places of the words of a gathered row; none when a translation fails (R240). -/
def State.rowPlaces (s : State) (w : Wave) (vd : Nat) (a : Addr) (bytes : Nat) : Option (List Place) :=
  (wordAddrs { val := a.setWidth 64, tag := tagOf a } bytes).mapM fun x =>
    match s.translate w.coreNo vd w.win 0 x .r with
    | .ok p => some p
    | .error _ => none

/-- The source words of a command as it starts, and those that are marked poisoned whatever they hold: a gathered row's whose
index word is uncorrectable (R148, R240). Positions without a page, of a rink that is gone as of any other, give zero bytes
(R293). -/
def State.copySource (s : State) (o : Op) : CopyKind → Option (List (Place × Bool))
  | .linear _ src _ => some (src.map fun p => (p, false))
  | .gather _ base row count idx =>
    let w := s.wave o.wave
    (((List.range count).mapM fun i =>
      let ix := s.readPlace (idx.getD i zeroPlace)
      (s.rowPlaces w (s.gang o.gang).vd (tagOf base ++ (base.setWidth 64 + BitVec.ofNat 64 (natOf (ix.map (·.1)) * row))) row).map
        fun ps => ps.map fun p => (p, ix.any (·.2))).map (·.flatten))
  | .rink h l hd p n v dst =>
    match (s.vd (s.gang o.gang).vd).rink h with
    | none => some (dst.map fun _ => (zeroPlace, false))
    | some r => some ((List.range n).flatMap fun i => (List.range (r.vb / 4)).map fun j =>
        (r.wordPlace (s.wgOf o.wave) l hd v (p + i) j, false))
  | _ => some []

/-- The row of a gather that lies in another partition is refused at the bridge that closes its route (R400). -/
def State.rowRefused (s : State) (o : Op) : CopyKind → State
  | .gather _ base row count idx =>
    let w := s.wave o.wave
    let d := (s.gang o.gang).vd
    let far := (List.range count).findSome? fun i =>
      let x := natOf ((s.readPlace (idx.getD i zeroPlace)).map (·.1))
      (wordAddrs { val := base.setWidth 64 + BitVec.ofNat 64 (x * row), tag := tagOf base } row).findSome? fun a =>
        match s.translate w.coreNo d w.win 0 a .r with
        | .ok _ => none
        | .error _ => some (s.foreign? w.coreNo d a)
    match far with
    | some (some die) => s.drops w.die die
    | _ => s
  | _ => s

/-- The first of the places at which a peer's access fails, which the part does not determine: slot and address (R163, R240). -/
def State.peerFails (s : State) (d : Nat) (ps : List Place) : Option (Nat × Addr) :=
  ps.findSome? fun p => match p with
    | .peer sl off => if s.slotFails d sl s.free then some (sl, off.setWidth 72) else none
    | _ => none

/-- A command that fails at a peer is an engine fault of its gang, and the host is told, but of a read over a link that is down
(R240, R390, R393). -/
def State.peerFault (s : State) (o : Op) (x : Nat × Addr) (store : Bool) : State :=
  let t := { s with free := s.free + 17 }
  (if !store && s.slotDown (s.gang o.gang).vd x.1 then t else t.faberr o.wave x.1 store x.2).engineFault o.gang o.wave

/-- A peer link of the ring of a group with this entry is down (R392, R393). -/
def State.ringDown (s : State) (d e : Nat) : Bool := s.slotDown d (field e 9 4) || s.slotDown d (field e 13 4)

/-- The entry of an open collective's group, as it was issued. -/
def State.collEntry (s : State) (c : OpenColl) : Nat := ((s.op? c.op).map (·.entry)).getD 0

/-- Collectives on one group run in the order in which they were issued, whatever their queues (R248): none that was issued
before waits in its copy queue. -/
def State.collTurn (s : State) (o : Op) (d g : Nat) : Bool :=
  !(s.flight.any fun p => p.id < o.id && (s.gang p.gang).vd == d && match p.kind with
    | .copy _ (.coll _ h _ _ _ _) _ false _ _ => h == g
    | _ => false)

/-- A command starts: it reads its whole source (R240), or moves to the collective queue (R245), where it can only end
ABANDONED if a link of its ring is down (R393). A failure at a peer that it reads is an engine fault. -/
def State.copyStart? (s : State) (id : Nat) : Option State :=
  match s.op? id with
  | none => none
  | some o => match o.kind with
    | .copy q k sync false _ _ =>
      if !s.copyTurn o q then none
      else match k with
        | .marker _ => none
        | .coll _ g _ _ _ _ =>
          let d := (s.gang o.gang).vd
          if (s.colls.filter fun c => c.vd == d).length < 64 && s.collTurn o d g then
            some { s.setOp { o with kind := .copy q k sync true [] 0 } with colls := s.colls ++ [⟨id, d, g, s.ringDown d o.entry⟩] }
          else none
        | _ => match s.copySource o k with
          | none => some ((s.rowRefused o k).engineFault o.gang o.wave)
          | some src =>
            let ps := src.map (·.1)
            if !(ps.all fun p => s.served p false) || !s.mayAsk (s.gang o.gang).vd ps then none
            else match s.peerFails (s.gang o.gang).vd ps with
              | some x => some (s.peerFault o x false)
              | none =>
                let s := (s.ask (s.gang o.gang).vd ps []).touchPlaces ps
                let data := src.flatMap fun p => (s.readPlace p.1).map fun b => (b.1, b.2 || p.2)
                some ({ s with free := s.free + 17 }.setOp { o with kind := .copy q k sync true data 0 })
    | _ => none

/-- COPY_COMMAND_START (R237, R240, R245). -/
def execCopyCommandStart (id : Nat) (s : State) : Host.Outcome State Fault Refusal := event s (s.creditOp id (s.copyStart? id))

/-- Write a word as an engine does. -/
def State.putPlace (s : State) (p : Place) (bs : List (Byte × Bool)) : State :=
  match p with
  | .direct l => s.putRaws l bs
  | .homed l _ => (s.homePuts l bs).setHome { (s.homePuts l bs).home l.line with lastStore := some s.time }
  | _ => s

/-- Write consecutive words. -/
def State.putPlaces (s : State) : List Place → List (Byte × Bool) → State
  | [], _ => s
  | p :: ps, bs => (s.putPlace p (bs.take 4)).putPlaces ps (bs.drop 4)

/-- An earlier command of the same queue has still to write one of the places (R242). -/
def State.laterThan (s : State) (o : Op) (q : Nat) (ps : List Place) : Bool :=
  s.flight.any fun p => p.core == o.core && p.id < o.id && match p.kind with
    | .copy n k _ _ _ landed => n == q && (k.dst.drop (landed / 4)).any ps.contains
    | _ => false

/-- The engine writes the next 32-byte sector of a part, so that commands of different queues may mix by sectors (R242); once all
of a part's writes are performed, its bytes are added to the sync word (R241). `landed` counts the parts' bytes, and `data`
holds what is still to be written. A failure at the peer that a sector is written to is an engine fault (R240). -/
def State.copyLand? (s : State) (id : Nat) : Option State :=
  match s.op? id with
  | none => none
  | some o => match o.kind with
    | .copy q k sync true data landed =>
      let part := (k.dst.drop (landed / 4)).take (partWords (k.dst.drop (landed / 4)))
      let rest := part.drop (k.dst.length - data.length / 4 - landed / 4)
      let ps := rest.takeWhile fun p => p.sector == (rest.headD zeroPlace).sector
      let coll := match k with | .coll .. => true | _ => false
      if coll || ps.isEmpty || s.laterThan o q ps || !(ps.all fun p => s.writable engineCore p)
          || !s.mayAsk (s.gang o.gang).vd ps then none
      else match s.peerFails (s.gang o.gang).vd ps with
        | some x => some (s.peerFault o x true)
        | none =>
          let out := (data.take (4 * ps.length)).map (·.1)
          let t := ({ s with free := s.free + 17 }.ask (s.gang o.gang).vd ps out).putPlaces ps data
          let more := data.drop (4 * ps.length)
          if ps.length < rest.length then some (t.setOp { o with kind := .copy q k sync true more landed })
          else
            let u := t.syncAdd sync (4 * part.length)
            some (if more.isEmpty then (u.dropOp id).sweepMarkers
              else u.setOp { o with kind := .copy q k sync true more (landed + 4 * part.length) })
    | _ => none

/-- COPY_PART_LAND (R241). -/
def execCopyPartLand (id : Nat) (s : State) : Host.Outcome State Fault Refusal := event s (s.creditOp id (s.copyLand? id))

/-! ## Completing a collective (R247, R248) -/

/-- One step of a reduction on an element: type 0 f32, 1 bf16, 2 s32; op 0 sum, 1 max. -/
def collOp (p : Nat) (a b : List Byte) : List Byte :=
  let x := natOf a
  let y := natOf b
  match p % 4, p / 4 with
  | 0, 0 => bytesOf 4 (Num.rneF32 ((Num.val Num.f32 x).add (Num.val Num.f32 y))).toNat
  | 0, _ => bytesOf 4 (Num.maxnum Num.f32 x y)
  | 1, 0 => bytesOf 2 (Num.round Num.bf16 .rne ((Num.val Num.bf16 x).add (Num.val Num.bf16 y)))
  | 1, _ => bytesOf 2 (Num.maxnum Num.bf16 x y)
  | _, 0 => bytesOf 4 ((x + y) % 2 ^ 32)
  | _, _ => bytesOf 4 (if (BitVec.ofNat 32 x).slt (BitVec.ofNat 32 y) then y else x)

def collWidth (p : Nat) : Nat := if p % 4 = 1 then 2 else 4

/-- Bytes of a chunk: S of R247. -/
def chunkBytes (bytes n : Nat) : Nat := ((bytes + n - 1) / n + 127) / 128 * 128

/-- Element i of the reduction over the buffers of the members `ms` (by index, in ring order), which starts at the
member after the chunk's (R247). -/
def reduceElem (p n bytes : Nat) (ms : List (Nat × List Byte)) (i : Nat) : List Byte :=
  let w := collWidth p
  let c := i * w / chunkBytes bytes n
  let el (b : List Byte) : List Byte := (b.drop (i * w)).take w
  let order := (List.range n).filterMap fun j => (ms.find? fun m => m.1 = (c + 1 + j) % n).map fun m => el m.2
  match order with
  | [] => []
  | a :: r => r.foldl (collOp p) a

/-- The buffer's bytes after a reduction or a broadcast over the members `ms`. -/
def collResult (isRed : Bool) (p n bytes : Nat) (ms : List (Nat × List Byte)) (own : List Byte) : List Byte :=
  if isRed then (List.range (bytes / collWidth p)).flatMap (reduceElem p n bytes ms)
  else ((ms.find? fun m => m.1 = p).map (·.2)).getD own

/-- The index of the j-th other member. -/
def otherIdx (me j : Nat) : Nat := if j < me then j else j + 1

/-- Is byte i of a result marked poisoned, as far as it comes from the members `ms`, each with its marked positions? A byte of a
broadcast where the root's is, one of a reduction where a member's element is (R148). DEDUCED, log 100. -/
def collBad (isRed : Bool) (p : Nat) (ms : List (Nat × List Nat)) (own : List Nat) (i : Nat) : Bool :=
  if isRed then ms.any fun m => m.2.any fun k => k / collWidth p == i / collWidth p
  else (((ms.find? fun m => m.1 = p).map (·.2)).getD own).contains i

/-- The buffer's contents go round the ring on channel 2 (R392); e: the group's entry. DESIGN CHOICE: the spec gives them no
layout, and here the member's own bytes go to the next one, log 99. -/
def State.ringData (s : State) (d e : Nat) (own : List Byte) : State :=
  let link := field ((s.vd d).peers.getD (field e 9 4) 0).toNat 22 5
  (List.range ((own.length + 239) / 240)).foldl (fun s i => s.sendLink link ⟨2, d, (own.drop (240 * i)).take 240⟩) s

/-- A collective ends: 0 DONE, 1 ABANDONED, 2 MISMATCH; collectives of one group run in order (R248). `members`: what
the other members bring, by rising index. Size and index are those of the group as the command was issued, whatever the table
holds since. -/
def State.collDone? (s : State) (id : Nat) (members : List CollMember) : Option State :=
  match s.op? id with
  | none => none
  | some o => match o.kind with
    | .copy q (.coll isRed g bytes param buf status) sync true _ _ =>
      let d := (s.gang o.gang).vd
      let n := field o.entry 1 4 + 1
      let me := field o.entry 5 4
      let first := s.colls.find? fun c => c.vd == d && c.group == g
      if first.map (·.op) != some id || members.length + 1 ≠ n || s.laterThan o q (buf ++ status)
          || !((buf ++ status).all fun p => s.writable engineCore p) || !s.mayAsk d status then none
      else
        let own := buf.flatMap s.readPlace
        let gone := members.any (·.gone) || (first.map (·.gone)).getD false
        let here := (List.range members.length).filterMap fun j =>
          let m := members.getD j default
          if m.gone then none else some (otherIdx me j, m)
        let agree := here.all fun m => m.2.isRed == isRed && m.2.group == g && m.2.bytes == bytes && m.2.param == param
        let marks := (List.range own.length).filter fun i => (own.getD i (0, false)).2
        let bad := (me, marks) :: here.map fun m => (m.1, m.2.bad)
        let ms := (me, own.map (·.1)) :: here.map fun m => (m.1, m.2.data)
        let res := collResult isRed param.toNat n bytes ms (own.map (·.1))
        let S := chunkBytes bytes n
        let out : List (Byte × Bool) := (List.range own.length).map fun i =>
          let old := own.getD i (0, false)
          if !agree || (gone && Config.freeBit (s.free + i / S)) then old
          else (res.getD i 0, collBad isRed param.toNat bad marks i)
        let code := if gone then 1 else if agree then 0 else 2
        let s := ({ s with free := s.free + 17 }.putPlaces buf out).putPlaces status
          ((bytesOf 8 code).map fun b => (b, false))
        let s := ((s.ask d status (bytesOf 8 code)).syncAdd sync bytes).ringData d o.entry (own.map (·.1))
        some ({ s with colls := s.colls.filter fun c => c.op != id }.dropOp id).sweepMarkers
    | _ => none

/-- COLLECTIVE_COMPLETE (R248). -/
def execCollectiveComplete (id : Nat) (members : List CollMember) (s : State) : Host.Outcome State Fault Refusal :=
  event s (s.creditOp id (s.collDone? id members))

/-! ## Deposits (R249-R252) -/

/-- RDEP (R250): four deposits of a wave may be in flight. -/
def State.rdep (s : State) (n a d : Nat) : Act State := do
  s.checkS a
  s.checkV d
  let act := s.exm
  let x ← s.readS a
  s.srcReady d false
  let v := x.val.toNat
  let wg := s.cg.wgs.getD (field v 12 2) {}
  let r := field v 0 6
  need (x.tag == 0 && v < 2 ^ 14 && field v 6 2 == 0 && r < 56 && field v 12 2 < s.cg.wgs.length
    && field v 8 4 < wg.waves.length) s cILL
  let src := s.vreg d
  need ((src.poison &&& act) == 0) s cPOISON (BitVec.ofNat 72 d)
  waitFor ((s.flight.filter fun o => o.wave == s.cur.wave && match o.kind with | .deposit .. => true | _ => false).length < 4)
  let t := wg.waves.getD (field v 8 4) 0
  let tw := s.wave t
  let live := tw.mode != .ended && (r < 40 || tw.held)
  let s ← s.commit
  let s := if live then s.modWave t fun w => { w with v := w.v.modify r fun y => { y with empty := true } } else s
  .ok (s.launchOp none (.deposit t r n act ((List.range 32).map src.lane)))

def execRdep (n : BitVec 2) (sa d : BitVec 6) (s : State) : Host.Outcome State Fault Refusal :=
  finishDone s (s.rdep n.toNat sa.toNat d.toNat)

/-- A deposit reaches its target (R250, R252): a release of the sender's earlier accesses. -/
def State.deposit? (s : State) (id : Nat) : Option State :=
  match s.op? id with
  | none => none
  | some o => match o.kind with
    | .deposit t r n lanes vals =>
      if (s.flight.any fun p => p.precedes o && p.isAccess) || !s.dstTurn o then none
      else
        let tw := s.wave t
        let live := tw.mode != .ended && (r < 40 || tw.held)
        let s := if live then
            ((s.deliverV { o with gen := tw.gen } .wave r lanes [vals] 0 true).modWave t fun w =>
              { w with deps := w.deps ++ [(r, lanes, vals)] }).modGang o.gang fun g =>
              { g with ckDeps := g.ckDeps ++ [(t, r, lanes, vals)] }
          else s.modWave o.wave fun w => { w with stat := w.stat ||| 4 }
        some ((s.modWave t fun w => { w with ac := w.ac.modify n (· + 1) }).dropOp id)
    | _ => none

/-- DEPOSIT_DELIVERY (R250). -/
def execDepositDelivery (id : Nat) (s : State) : Host.Outcome State Fault Refusal := event s (s.deposit? id)

end Sys2Proof.Machine
end

