-- ==== Sys2Proof/Machine/Counters.lean ====
section
/-! DEFINITION. Named barriers, barrier words, sync words, the wait instructions and TIME (major 0x33, part of 0x2F and
0x3C; R329-R344). -/
namespace Sys2Proof.Machine

/-! ## Words in SRAM -/

/-- The address scalar of a barrier or sync word: ALIGN, then LOCAL (R336). -/
def State.wordLoc (s : State) (x : SReg) : Act Loc := do
  let v := x.val.toNat
  need (v % 8 == 0) s cALIGN (BitVec.ofNat 72 v)
  match s.cg.localLoc v with
  | some l => .ok l
  | none => fault s cLOCAL (BitVec.ofNat 72 v)

/-- Local accesses of a fragment keep program order (R166): none earlier is outstanding. -/
def State.localDone (s : State) : Bool := !s.pending fun o => o.isAccess && o.accs.any fun a => a.place.isLocal

/-- SYNCINIT sa, st (R338). -/
def State.syncinit (s : State) (a d : Nat) : Act State := do
  [a, d].forM s.checkS
  let xs ← s.readSs [a, d]
  let t := (xs.getD 1 {}).val.toNat
  need (t < 2 ^ 28) s cILL
  let l ← s.wordLoc (xs.getD 0 {})
  waitFor s.localDone
  let g := (field (s.word64 l) 56 7 + 1) % 128
  .ok (s.putWord64 l (t * 2 ^ 28 + g * 2 ^ 56))

def execSyncinit (a d : BitVec 6) (s : State) : Host.Outcome State Fault Refusal :=
  finishDone s (s.syncinit a.toNat d.toNat)

/-- SYNCWAIT sd, sa (R338): GEN is read once, when the fragment begins to wait. -/
def State.syncwait (s : State) (a d : Nat) : Act State := do
  [a, d].forM s.checkS
  let x ← s.readS a
  let l ← s.wordLoc x
  waitFor s.localDone
  let w := s.word64 l
  let g := match s.cf.park with | .sync g => g | _ => field w 56 7
  if field w 63 1 = 1 ∧ field w 56 7 = g then fault s cSYNCOVR (BitVec.ofNat 72 x.val.toNat)
  else if field w 56 7 ≠ g ∨ field w 0 28 = field w 28 28 then
    .ok (s.writeS d (if field w 56 7 = g then 0 else 1)).done
  else match s.cf.park with
    | .sync _ => .error .wait
    | _ => .error (.keep (s.modCf fun f => { f with park := .sync g }))

def execSyncwait (a d : BitVec 6) (s : State) : Host.Outcome State Fault Refusal :=
  finish s (s.syncwait a.toNat d.toNat)

/-- SYNCADD sa, sn (R337-R339): a release. -/
def State.syncadd (s : State) (a d : Nat) : Act State := do
  [a, d].forM s.checkS
  let xs ← s.readSs [a, d]
  let n := (xs.getD 1 {}).val.toNat
  need (n < 2 ^ 28) s cILL
  let l ← s.wordLoc (xs.getD 0 {})
  waitFor s.settled
  let s ← s.commit
  .ok (s.syncAdd (some (.direct l)) n)

def execSyncadd (a d : BitVec 6) (s : State) : Host.Outcome State Fault Refusal :=
  finishDone s (s.syncadd a.toNat d.toNat)

/-- The arrival step of BARWARR: none is SYNCOVR (R336). -/
def barStep (w n : Nat) : Option Nat :=
  let count := field w 0 16
  let gen := field w 32 32
  if field w 24 8 ≠ 0 ∨ (count ≠ 0 ∧ field w 16 8 ≠ n) then none
  else if count + 1 = n then some ((gen + 1) % 2 ^ 32 * 2 ^ 32)
  else some (gen * 2 ^ 32 + n * 2 ^ 16 + (count + 1) % 2 ^ 16)

/-- BARWARR sd, sa, n (R336). -/
def State.barwarr (s : State) (f : YF) : Act State := do
  [f.d.toNat, f.a.toNat].forM s.checkS
  let x ← s.readS f.a.toNat
  let l ← s.wordLoc x
  waitFor s.settled
  let w := s.word64 l
  match barStep w f.imm.toNat with
  | none => fault s cSYNCOVR (BitVec.ofNat 72 x.val.toNat)
  | some v => do
    let s ← s.commit
    .ok ((s.putWord64 l v).writeS f.d.toNat (BitVec.ofNat 64 (field w 32 32)))

def execBarwarr (f : YF) (s : State) : Host.Outcome State Fault Refusal := finishDone s (s.barwarr f)

/-- BARWWAIT sa, sg (R336). -/
def State.barwwait (s : State) (a d : Nat) : Act State := do
  [a, d].forM s.checkS
  let xs ← s.readSs [a, d]
  let l ← s.wordLoc (xs.getD 0 {})
  waitFor s.localDone
  waitFor (field (s.word64 l) 32 32 != (xs.getD 1 {}).val.toNat % 2 ^ 32)
  .ok s

def execBarwwait (a d : BitVec 6) (s : State) : Host.Outcome State Fault Refusal :=
  finishDone s (s.barwwait a.toNat d.toNat)

/-! ## Named barriers (R330-R334) -/

/-- NBARINIT b, sd (R333). -/
def State.nbarinit (s : State) (b d : Nat) : Act State := do
  s.checkS d
  let x ← s.readS d
  let c := x.val.toNat
  need (c ≤ 16) s cILL
  let g := s.cw.gang
  let i := s.cw.wg
  match s.cwg.barOf b with
  | some p => do
    need ((s.cwg.bars.getD p {}).count == 0) s cSYNCOVR (BitVec.ofNat 72 b)
    let s ← s.commit
    .ok (if c = 0 then (s.modBar g i p fun n => { n with bound := false }).clearArr g i b
      else s.modBar g i p fun n => { n with expect := c })
  | none =>
    if c = 0 then s.commit
    else do
      need (s.bindBar g i b c).isSome s cSYNCOVR (BitVec.ofNat 72 b)
      let s ← s.commit
      .ok ((s.bindBar g i b c).getD s)

def execNbarinit (b : BitVec 7) (d : BitVec 6) (s : State) : Host.Outcome State Fault Refusal :=
  finishDone s (s.nbarinit b.toNat d.toNat)

/-- The fragment's arrival on b: SYNCOVR for a second one in the generation or a fourth binding; then a release, and
the arrival counts when every live fragment of the wave has arrived (R29, R331, R332, R334). -/
def State.arrive (s : State) (b : Nat) : Act State := do
  let w := s.cw
  let f := s.cur.frag
  let again := w.fragArr.any fun q => q.1 == b && q.2.getLsbD f
  need (!again && !((s.cwg.barOf b).isSome && (w.arrOf b).any (·.opened))) s cSYNCOVR (BitVec.ofNat 72 b)
  let t ← match s.cwg.barOf b with
    | some _ => .ok s
    | none => match s.bindBar w.gang w.wg b s.cwg.waves.length with
      | some t => .ok t
      | none => fault s cSYNCOVR (BitVec.ofNat 72 b)
  waitFor s.settled
  let t ← t.commit
  .ok (t.modCw fun x => { x with fragArr :=
    if (x.fragArr.any fun q => q.1 == b) then x.fragArr.map fun q => if q.1 = b then (b, q.2 ||| (1#8 <<< f)) else q
    else (b, 1#8 <<< f) :: x.fragArr })

/-- NBARARR b (R333): the fragment goes on. -/
def execNbararr (b : BitVec 7) (s : State) : Host.Outcome State Fault Refusal :=
  finish s ((s.arrive b.toNat).map fun t => t.done.registerAll s.cur.wave)

/-- GEN has left the wave's ARRGEN, or the wave has not arrived on b (R333): its arrival counts when its last live fragment has
arrived (R332). -/
def State.genMoved (s : State) (b : Nat) : Bool :=
  match s.cwg.barOf b, s.cw.arrOf b with
  | some p, some a => (s.cwg.bars.getD p {}).gen != a.gen
  | _, _ => true

/-- The fragment's own arrival counts, GEN has moved since, and a checkpoint that the completion makes is taken (R333, R359). -/
def State.passed (s : State) (b : Nat) : Bool :=
  !(s.cw.fragArr.any fun q => q.1 == b && q.2.getLsbD s.cur.frag) && !s.cg.ckptDue && s.genMoved b

/-- Park the unit's fragment. -/
def State.parkCf (s : State) (p : Park) : State :=
  let n := s.seq
  { s with seq := n + 1 }.modCf fun f => { f with park := p, parkSeq := n }

/-- NBARWAIT b (R333). -/
def State.nbarwait (s : State) (b : Nat) : Act State :=
  if s.cf.park = .nbar b then (if s.genMoved b && !s.cg.ckptDue then .ok s.done else .error .wait)
  else if s.genMoved b then .ok s.done
  else .error (.keep (s.parkCf (.nbar b)))

def execNbarwait (b : BitVec 7) (s : State) : Host.Outcome State Fault Refusal := finish s (s.nbarwait b.toNat)

/-- NBARSYNC b (R333): arrives, then waits. -/
def State.nbarsync (s : State) (b : Nat) : Act State :=
  if s.cf.park = .nbar b then (if s.passed b then .ok s.done else .error .wait)
  else do
    let t ← s.arrive b
    .error (.keep ((t.parkCf (.nbar b)).registerAll s.cur.wave))

def execNbarsync (b : BitVec 7) (s : State) : Host.Outcome State Fault Refusal := finish s (s.nbarsync b.toNat)

/-! ## Waits (R340-R342) -/

/-- WAITC cls, n (R341). -/
def execWaitc (n : BitVec 7) (cls : BitVec 6) (s : State) : Host.Outcome State Fault Refusal :=
  finishDone s do
    waitFor (s.counter s.cur.wave cls.toNat ≤ s.immY n)
    .ok s

/-- WAITR (R341): it reads no value. -/
def State.waitr (s : State) (scalar : Bool) (d : Nat) : Act State := do
  if scalar then do
    s.checkS d
    waitFor ((s.sreg d).st != .empty)
    .ok s
  else do
    s.checkV d
    waitFor (!(s.vreg d).empty)
    .ok s

def execWaitr (scalar : BitVec 1) (d : BitVec 6) (s : State) : Host.Outcome State Fault Refusal :=
  finishDone s (s.waitr (scalar == 1) d.toNat)

/-- WAITA acN, sa, k (R341). -/
def State.waita (s : State) (f : YF) : Act State := do
  s.checkS f.a.toNat
  let x ← s.readS f.a.toNat
  let ac := s.cw.ac.getD f.d.toNat 0
  waitFor ((ac - x.val.setWidth 16 - BitVec.ofNat 16 (s.immY f.imm)).toNat < 2 ^ 15)
  .ok s

def execWaita (f : YF) (s : State) : Host.Outcome State Fault Refusal := finishDone s (s.waita f)

/-! ## TIME (R344) -/

/-- TIME sd: the island's copy. -/
def execTime (sd : BitVec 6) (s : State) : Host.Outcome State Fault Refusal :=
  finishDone s do
    s.checkS sd.toNat
    .ok ((s.writeS sd.toNat (BitVec.ofNat 64 s.readTime)).sawTime s.readTime)

end Sys2Proof.Machine
end

