-- ==== Sys2Proof/Machine/Saved.lean ====
section
/-! DEFINITION. Traps, system registers, waiting for host flags, events to the host, HALT and the rewind point (major
0x3C, part of 0x37; R362-R375, R98, R99). -/
namespace Sys2Proof.Machine

/-! ## TRAP, RETT (R368, R369) -/

/-- TRAP code: cause 0x11; EPC is the address after it. -/
def execTrap (code : BitVec 7) (s : State) : Host.Outcome State Fault Refusal :=
  finish s (.error (.trap s ⟨cTRAP, code.setWidth 72, 0, true⟩))

/-- RETT: leave the handler or the recompute code; PRIV anywhere else. -/
def State.rett (s : State) : Act State :=
  if s.cw.handling || s.cw.mode == .recompute then .ok (s.issued.modCw fun w => w.resume s.cur.frag) else fault s cPRIV

def execRett (s : State) : Host.Outcome State Fault Refusal := finish s s.rett

/-! ## System registers (R75, R98, R99) -/

/-- EXM, PISTE, OBSD, RNGK, RNGC, STAT, TRAPC, TRAPA, TRAPL, EPC, PATH, XBH, WID, VDID, TIME as SRD returns them: value
and tag. In a handler EXM is that of fragment F (R353). -/
def State.sysReg (s : State) (r : Nat) : DWord × Byte :=
  let w := s.cw
  match r with
  | 0 => (s.cf.exm.setWidth 64, 0)
  | 1 => (w.piste.setWidth 64, 0)
  | 2 => (w.obsd.setWidth 64, 0)
  | 3 => (w.rngk, 0)
  | 4 => (w.rngc.setWidth 64, 0)
  | 5 => (w.stat.setWidth 64, 0)
  | 6 => (w.trapc.setWidth 64, 0)
  | 7 => (w.trapa.setWidth 64, tagOf w.trapa)
  | 8 => (w.trapl.setWidth 64, 0)
  | 9 => (s.cf.epc, 0)
  | 10 => (w.path.setWidth 64, 0)
  | 11 => (w.xbh.setWidth 64, 0)
  | 12 => (BitVec.ofNat 64 w.wid, 0)
  | 13 => (BitVec.ofNat 64 s.cg.vd, 0)
  | _ => (BitVec.ofNat 64 s.readTime, 0)

/-- SRD sd, REG (R370). -/
def State.srd (s : State) (r d : Nat) : Act State := do
  s.checkS d
  let t := s.writeS d (s.sysReg r).1 (s.sysReg r).2
  .ok (if r = 14 then t.sawTime s.readTime else t)

def execSrd (r : BitVec 7) (d : BitVec 6) (s : State) : Host.Outcome State Fault Refusal :=
  finishDone s (s.srd r.toNat d.toNat)

/-- A value OBSD takes (R99). -/
def obsdOk (v : BitVec 8) : Bool :=
  let o := field v.toNat 5 3
  1 ≤ o && o ≤ 4 && v.toNat % 32 != 0

/-- SWR on a register (R6, R99): OBSD, RNGK, RNGC bits 63:0, STAT (write 1 to clear), EPC; the others are RO. -/
def State.swrReg (s : State) (r : Nat) (v : DWord) : State :=
  match r with
  | 2 => if obsdOk (v.setWidth 8) then s.modCw fun w => { w with obsd := v.setWidth 8 } else s
  | 3 => s.modCw fun w => { w with rngk := v }
  | 4 => s.modCw fun w => { w with rngc := (w.rngc >>> 64).setWidth 32 ++ v }
  | 5 => s.modCw fun w => { w with stat := w.stat &&& ~~~ v.setWidth 3 }
  | 9 => s.modCf fun f => { f with epc := v &&& ~~~ 1 }
  | _ => s

/-- SWR REG, sa (R371): EPC outside a handler and recompute code raises PRIV. -/
def State.swr (s : State) (r a : Nat) : Act State := do
  let x ← s.readS a
  need (r != 9 || s.cw.handling || s.cw.mode == .recompute) s cPRIV
  .ok (s.swrReg r x.val)

def execSwr (r : BitVec 7) (a : BitVec 6) (s : State) : Host.Outcome State Fault Refusal :=
  finishDone s (s.swr r.toNat a.toNat)

/-! ## WFE, EVSIG, HALT (R372-R374) -/

/-- The place in issue order of the fragment that has been parked longest on flag n of the device. -/
def State.oldestWfe (s : State) (d n : Nat) : Option Nat :=
  (s.waves.flatMap fun w => if (s.gang w.gang).vd == d && (s.gang w.gang).placed && w.mode != .ended then
      w.frags.filterMap fun f => match f.live, f.park with
        | true, .wfe m _ _ => if m = n then some f.parkSeq else none
        | _, _ => none
    else []).min?

/-- WFE sd, n, sa (R372). -/
def State.wfe (s : State) (f : YF) : Act State := do
  [f.d.toNat, f.a.toNat].forM s.checkS
  let n := f.imm.toNat
  let d := s.cg.vd
  let old := s.oldestWfe d n
  let take (s : State) : State :=
    ((s.modVd d fun v => { v with flags := v.flags &&& ~~~ (1#16 <<< n) }).writeS f.d.toNat 1).done
  let set := s.cv.flags.getLsbD n
  match s.cf.park with
  | .wfe _ _ fired =>
    if set && old == some s.cf.parkSeq then .ok (take s)
    else if fired then .ok (s.writeS f.d.toNat 0).done
    else .error .wait
  | _ => do
    let x ← s.readS f.a.toNat
    let s ← s.commit
    if set && old.isNone then .ok (take s)
    else .error (.keep (s.parkCf (.wfe n (if x.val = 0 then none else some (s.time + x.val.toNat)) false)))

def execWfe (f : YF) (s : State) : Host.Outcome State Fault Refusal := finish s (s.wfe f)

/-- The tick limit of a WFE has expired (R372). -/
def State.wfeOut? (s : State) (w f : Nat) : Option State :=
  match ((s.wave w).frags.getD f {}).live, ((s.wave w).frags.getD f {}).park with
  | true, .wfe n (some t) false =>
    if t ≤ s.time then some (s.modWave w fun x => x.modFrag f fun g => { g with park := .wfe n (some t) true }) else none
  | _, _ => none

/-- WFE_TIMEOUT (R372): the fragment's WFE will return 0, unless the flag comes first. -/
def execWfeTimeout (w f : Nat) (s : State) : Host.Outcome State Fault Refusal := event s (s.wfeOut? w f)

/-- EVSIG sa, code (R373): a release toward the host. -/
def State.evsig (s : State) (code a : Nat) : Act State := do
  let x ← s.readS a
  let d := s.cg.vd
  waitFor s.settled
  waitFor (eqCount s.cv.eqwr s.cv.eqrd < 1024 && s.cv.eqHeld.isEmpty)
  let s ← s.commit
  .ok (s.eqAppend d (eqEntry 2 code 0 0 x.val.toNat (d * 2 ^ 24 + s.cw.wid) s.time))

def execEvsig (code : BitVec 7) (a : BitVec 6) (s : State) : Host.Outcome State Fault Refusal :=
  finishDone s (s.evsig code.toNat a.toNat)

/-- HALT code (R374): every wave of the gang stops; the halting wave goes on after the HALT when it is answered. -/
def State.halt (s : State) (code : Nat) : State :=
  let w := s.cur.wave
  let t := s.done.modGang s.cw.gang fun g => { g with halted := some w }
  t.eqAppend s.cg.vd (eqEntry 3 code s.cl.stream s.cg.index s.cur.pc.toNat s.cw.wid s.time)

def execHalt (code : BitVec 7) (s : State) : Host.Outcome State Fault Refusal := finish s (.ok (s.halt code.toNat))

/-! ## RWP (R41-R44, R362, R363, R375) -/

/-- A recipe record. -/
structure Recipe where
  vregs : List Nat := []
  sregs : List Nat := []
  tiles : BitVec 16 := 0
  rcpc : DWord := 0
  deriving DecidableEq, Repr, Inhabited

/-- A recipe's slots from the 32 bytes of its record; none where R362 makes the RWP raise ILL. -/
def recipeOf (x : Nat) : Option Recipe :=
  let vs := (List.range 8).map fun i => field x (6 * i) 6
  let ss := (List.range 16).map fun i => field x (48 + 6 * i) 6
  if (vs.any fun v => 56 ≤ v && v ≤ 62) || field x 160 32 ≠ 0 then none
  else some ⟨vs.filter (· != 63), ss.filter (· != 0), BitVec.ofNat 16 (field x 144 16), BitVec.ofNat 64 (field x 192 64)⟩

/-- Recipe r of the kernel: record r of its table, at the launch block's CODE address (R362). -/
def State.recipe (s : State) (r : Nat) : Act Recipe :=
  if r = 0 then .ok {}
  else
    let a : Addr := (s.cl.block.code + BitVec.ofNat 64 (32 * r)).setWidth 72
    match s.translateCur 0 a .r with
    | .ok (.homed l _) =>
      match recipeOf (natOf ((s.homeBytes l 32).map (·.1))) with
      | some p => .ok p
      | none => fault s cILL
    | .ok _ => fault s cPROT a
    | .error c => fault s c a

/-- The rewind buffer as an RWP leaves it (R41, R363). -/
def State.snapshot (s : State) (p : Recipe) : Snap :=
  let w := s.cw
  { regs := p.vregs.map fun r => (r, w.v.getD r {})
    sregs := p.sregs.map fun r => (r, s.cf.s.getD r {})
    tiles := p.tiles, rcpc := p.rcpc, lanes := s.cf.lanes, exm := s.cf.exm, preds := w.k, rngk := w.rngk
    rngc := w.rngc, stat := w.stat, obsd := w.obsd, piste := w.piste, held := w.held, dry := w.dry
    pc := s.cur.pc, next := s.cur.nxt }

/-- RWP (R375): honoured with one live fragment at depth 0, outside a handler; it closes the open commit, and a wave
that runs forward stops here (R44). -/
def State.rwp (s : State) (r : Nat) : Act State :=
  if s.cw.handling || 1 < s.cw.liveFrags.length || s.cf.depth ≠ 0 then .ok s.done
  else do
    let p ← s.recipe r
    need (s.cw.held || p.vregs.all (· < 40)) s cXBLK
    waitFor ((p.vregs.all fun v => !(s.cw.v.getD v {}).empty) && p.sregs.all fun x => (s.cf.s.getD x {}).st != .empty)
    let snap := s.snapshot p
    let t := s.done.modCw fun w => { w with snap := snap, commit := false, deps := [] }
    .ok (if s.cg.preempt.isSome then t.modCw fun w => { w with mode := .stopped false } else t)

def execRwp (r : BitVec 7) (s : State) : Host.Outcome State Fault Refusal := finish s (s.rwp r.toNat)

end Sys2Proof.Machine
end

