-- ==== Sys2Proof/Machine/Matrix.lean ====
section
/-! DEFINITION. Tiles and the matrix engine (majors 0x30 and 0x31, OPRDY; R207-R226): operand descriptors, the array
queues, and what an operation does when it retires. A tile is named by one number over the package
(tileNoOf). -/
namespace Sys2Proof.Machine

/-! ## Tiles -/

def tilePlace (t : Nat) : Loc := ⟨.tile, t * 16384⟩

/-- Tile N of the workgroup's run on the unit's partition; ILL when N ≥ T (R208). -/
def State.tileNo (s : State) (n : Nat) : Act Nat := do
  need (n < s.cwg.tiles) s cILL
  .ok (tileNoOf s.cw.partNo (s.cwg.tileBase + n))

/-- The 4,096 words of a tile, and whether an uncorrectable error lies in it (R207). -/
def State.tileWords (s : State) (t : Nat) : List Nat × Bool :=
  let bs := s.raws (tilePlace t) 16384
  let a := (bs.map (·.1)).toArray
  ((List.range 4096).map fun i => natOf ((List.range 4).map fun j => a.getD (4 * i + j) 0), bs.any (·.2))

def State.putTile (s : State) (t : Nat) (ws : List Nat) : State :=
  s.putRaws (tilePlace t) ((ws.flatMap (bytesOf 4)).map fun b => (b, false))

/-! ## Operand descriptors (R210-R212) -/

/-- The gang whose bank numbers a descriptor uses. -/
def State.descGang (s : State) (x : Nat) : Option Gang :=
  if field x 22 1 = 0 then some s.cg
  else s.gangs.find? fun g => g.placed && g.vd == s.cg.vd && g.die == s.cg.die && g.cluster == s.cg.cluster &&
    g.wgs.any fun w => w.core == field x 40 2 && w.slot == field x 42 4

/-- Byte addresses of a descriptor's rows and scale region. -/
def descRows (x rows len : Nat) : List (List Nat) :=
  let a := field x 0 22
  let st := if field x 24 16 = 0 then len else field x 24 16
  (List.range rows).map fun i => (List.range len).map fun j => a + i * st + j

def descScales (x rows len n : Nat) : List Nat :=
  let st := if field x 24 16 = 0 then len else field x 24 16
  (List.range n).map fun j => field x 0 22 + rows * st + j

/-- Check a descriptor (R212) and give its places: `rows` rows of `len` bytes and `sc` bytes of scales. `isB`: it is
the B descriptor of an MMA; `flat`: its STRIDE must then be 0 (MSCALE, R222). -/
def State.desc (s : State) (v : DWord) (rows len sc : Nat) (isB flat : Bool) : Act Region := do
  let x := v.toNat
  let at_ (a : Nat) : Addr := BitVec.ofNat 72 a
  let addr := field x 0 22
  need (addr % 8 == 0 && field x 24 16 % 8 == 0) s cALIGN (at_ addr)
  let owner := field x 22 1 == 1 || field x 40 6 == 0
  need (field x 46 18 == 0 && owner && (isB || field x 23 1 == 0)) s cLOCAL (at_ addr)
  match s.descGang x with
  | none => fault s cLOCAL (at_ addr)
  | some g =>
    let place (a : Nat) : Act Place := match g.localLoc a with
      | some l => .ok (.direct l)
      | none => fault s cLOCAL (at_ a)
    let rs ← (descRows x rows len).mapM fun r => r.mapM place
    let ss ← (descScales x rows len sc).mapM place
    need (!flat || field x 24 16 == 0) s cLOCAL (at_ addr)
    .ok ⟨rs, ss⟩

/-! ## Types (R214, R87) -/

/-- Element formats of a type: 0 bf16, 1 h16, 2 e4m3, 3 e5m2, 4 sx7, 5 sx4, 6 sx2, 7 e2m1, 8 s8, 9 int4. -/
def mmaFmtA : Nat → Nat
  | 0 => 0
  | 1 => 1
  | 2 => 2
  | 3 => 2
  | 4 => 3
  | 5 => 3
  | 6 => 4
  | 7 => 5
  | 8 => 6
  | 9 => 8
  | 10 => 9
  | _ => 7
def mmaFmtB : Nat → Nat
  | 3 => 3
  | 4 => 2
  | t => mmaFmtA t

/-- K, the row length and the slice width. -/
def mmaK (t : Nat) : Nat := if t < 2 then 32 else if t < 8 ∨ t = 9 then 64 else 128
def mmaLen (t : Nat) : Nat := if t = 6 then 72 else if t = 7 then 48 else 64
def mmaSlice (t : Nat) : Nat := if t < 2 then 8 else if t < 8 ∨ t = 9 then 16 else 32
def mmaInt (t : Nat) : Bool := t == 9 || t == 10

/-- Consecutive groups of n. -/
def chunks {α : Type} (n : Nat) : Nat → List α → List (List α)
  | 0, _ => []
  | c + 1, l => l.take n :: chunks n c (l.drop n)

/-- Element values of a row (R82, R84). -/
def rowVals (fmt : Nat) (bs : List Byte) : List Num.Ex :=
  let sx (m : Nat) : List Num.Ex := let n := Num.sxBytes m
    (chunks n (bs.length / n) bs).flatMap fun b => (List.range 16).map (Num.decSx m (natOf b))
  match fmt with
  | 0 => (chunks 2 (bs.length / 2) bs).map fun b => Num.val Num.bf16 (natOf b)
  | 1 => (chunks 2 (bs.length / 2) bs).map fun b => Num.val Num.h16 (natOf b)
  | 2 => bs.map fun b => Num.val Num.e4m3 b.toNat
  | 3 => bs.map fun b => Num.val Num.e5m2 b.toNat
  | 4 => sx 7
  | 5 => sx 4
  | 6 => sx 2
  | 7 => (Num.nibbles bs).map (Num.val Num.e2m1)
  | 8 => bs.map fun b => Num.ofInt b.toInt
  | _ => (Num.nibbles bs).map fun (n : Nat) => Num.ofInt (if n < 8 then (n : Int) else (n : Int) - 16)

def exZero : Num.Ex := .fin false 0 0

/-- An exact sum carries no sign when it is 0 (R87). -/
def unsignedZero (x : Num.Ex) : Num.Ex := if x.isZero then exZero else x

/-- exactdot over one group (R87). -/
def exactDot (a b : List Num.Ex) : Num.Ex := unsignedZero ((List.zipWith Num.Ex.mul a b).foldl Num.Ex.add exZero)

/-- An exact value that is an integer. -/
def exInt : Num.Ex → Int
  | .fin neg m e => let v : Int := m * 2 ^ e.toNat; if neg then -v else v
  | _ => 0

/-- One element of C (R215): acc, the groups of the two rows, and the products of their scales. -/
def mmaElem (isInt : Bool) (acc : Nat) (a b : List (List Num.Ex)) (sc : List Num.Ex) (bs : Bool) : Nat :=
  ((List.range a.length).foldl (fun acc g =>
    let e := exactDot (a.getD g []) (b.getD g [])
    let e := if bs then unsignedZero ((sc.getD g exZero).mul e) else e
    if isInt then (((acc : Int) + exInt e) % 2 ^ 32).toNat
    else (Num.rneF32 ((Num.val Num.f32 acc).add e)).toNat) acc)

/-! ## Array queues (R214, R217) -/

/-- The arrays an operation uses, by partition. -/
def Op.arrays (o : Op) : List Nat :=
  match o.kind with
  | .mx (.mma _ _ _ _ _ _ (some f)) l _ _ => [l, f / 128]
  | .mx _ l _ _ => [l]
  | _ => []

def State.arrayLoad (s : State) (p : Nat) : Nat := (s.flight.filter fun o => o.arrays.contains p).length

/-- Operand bytes of an operation, list by list. -/
def MxKind.operands : MxKind → List (List Place)
  | .mma _ _ _ a b _ _ => a.rows ++ [a.scales] ++ b.rows ++ [b.scales]
  | .mldt _ _ r => r.rows
  | .mrest _ src => src.map fun p => placeBytes p 4
  | .mscale _ _ r => r.rows
  | _ => []

/-- A byte as an engine of device `d` reads it. -/
def State.engByte (s : State) (d : Nat) (p : Place) : Byte × Bool :=
  match p with
  | .direct l => s.raw l
  | .homed l _ => s.homeByte l
  | .peer sl off => (Config.freeByte (s.free + sl) off.toNat, s.slotFails d sl (s.free + sl))
  | .lane _ => (0, false)

/-- Enter an operation in its arrays' queues, with what its operands hold now (R218, R221). -/
def State.enterMx (s : State) (k : MxKind) (follower : Option Nat := none) : Act State := do
  let p := s.cw.partNo
  waitFor (s.arrayLoad p < 8 && match follower with | some f => s.arrayLoad (f / 128) < 8 | none => true)
  s.room kMX
  .ok (s.launchOp (some kMX) (.mx k p false (k.operands.map fun l => l.map (s.engByte s.cg.vd))))

/-! ## MMA (R216, R218) -/

/-- The follower's tile for a paired operation: PAIR when the gang has no workgroup on the follower core, or that
workgroup no such tile. -/
def State.followerTile (s : State) (t : Nat) : Act Nat := do
  let w := s.cw
  let c := w.core ^^^ 1
  match s.cg.wgs.find? fun g => g.core == c with
  | none => fault s cPAIR
  | some g => do
    need (t < g.tiles) s cPAIR
    .ok (tileNoOf (coreNo w.die w.cluster c * 4 + w.part) (g.tileBase + t))

def State.mma (s : State) (f : MM) : Act State := do
  let ty := f.ty.toNat
  let bs := f.bs == 1
  let pair := f.pair == 1
  let tile ← s.tileNo f.t.toNat
  [f.sa.toNat, f.sb.toNat].forM s.checkS
  let xs ← s.readSs [f.sa.toNat, f.sb.toNat]
  let fol ← if pair then (s.followerTile f.t.toNat).map some else .ok none
  let n := if pair then 128 else 64
  let sc (rows : Nat) : Nat := if bs then rows * (mmaK ty / 32) * 2 else 0
  let a ← s.desc (xs.getD 0 {}).val 64 (mmaLen ty) (sc 64) false false
  let b ← s.desc (xs.getD 1 {}).val n (mmaLen ty) (sc n) true false
  s.enterMx (.mma ty (f.z == 1) bs a b tile fol) fol

/-- MMA.type td, sa, sb (R218). -/
def execMma (f : MM) (s : State) : Host.Outcome State Fault Refusal := finishDone s (s.mma f)

/-! ## Tile instructions (R222-R224) -/

/-- MZERO td. -/
def execMzero (t : BitVec 4) (s : State) : Host.Outcome State Fault Refusal :=
  finishDone s do
    let tile ← s.tileNo t.toNat
    s.enterMx (.mzero tile)

/-- Row bytes of MSTT's formats (R223); MLDT has the first three. -/
def tileRow : Nat → Nat
  | 0 => 256
  | 1 => 128
  | 2 => 128
  | 5 => 72
  | 6 => 48
  | 7 => 32
  | _ => 64

/-- MLDT td, sa, fmt. -/
def execMldt (f : TF) (s : State) : Host.Outcome State Fault Refusal :=
  finishDone s do
    let tile ← s.tileNo f.t.toNat
    s.checkS f.sa.toNat
    let x ← s.readS f.sa.toNat
    let r ← s.desc x.val 64 (tileRow f.f3.toNat) 0 false false
    s.enterMx (.mldt tile f.f3.toNat r)

/-- MSTT td, sa, fmt. -/
def execMstt (f : TF) (s : State) : Host.Outcome State Fault Refusal :=
  finishDone s do
    let tile ← s.tileNo f.t.toNat
    s.checkS f.sa.toNat
    let x ← s.readS f.sa.toNat
    let r ← s.desc x.val 64 (tileRow f.f3.toNat) 0 false false
    s.enterMx (.mstt tile f.f3.toNat r)

/-- The words of a 16 KiB global range of MSAVE or MREST. -/
def State.saveRange (s : State) (x : SReg) (p : Perm) : Act (List Place) := do
  needAlign s x.val x.tag 128
  let tr := (wordAddrs x 16384).map fun a => ((0, a),
    if x.tag == 0x02 || (x.tag == 0x01 && p == .w) then .error cPROT else s.translateCur 0 a p)
  s.checkTr 4 tr
  .ok (placesTr tr)

/-- MSAVE td, sa. -/
def execMsave (sa : BitVec 6) (t : BitVec 4) (s : State) : Host.Outcome State Fault Refusal :=
  finishDone s do
    let tile ← s.tileNo t.toNat
    s.checkS sa.toNat
    let x ← s.readS sa.toNat
    let ps ← s.saveRange x .w
    s.enterMx (.msave tile ps)

/-- MREST td, sa. -/
def execMrest (sa : BitVec 6) (t : BitVec 4) (s : State) : Host.Outcome State Fault Refusal :=
  finishDone s do
    let tile ← s.tileNo t.toNat
    s.checkS sa.toNat
    let x ← s.readS sa.toNat
    let ps ← s.saveRange x .r
    s.enterMx (.mrest tile ps)

/-- MSCALE td, sa, dir. -/
def execMscale (f : TF) (s : State) : Host.Outcome State Fault Refusal :=
  finishDone s do
    let tile ← s.tileNo f.t.toNat
    s.checkS f.sa.toNat
    let x ← s.readS f.sa.toNat
    let r ← s.desc x.val 1 256 0 false true
    s.enterMx (.mscale tile (f.f3 == 1) r)

/-- The tiles an operation reads or writes. -/
def Op.tiles (o : Op) : List Nat :=
  match o.kind with
  | .mx k _ _ _ => match k with
    | .mma _ _ _ _ _ t f => t :: f.toList
    | .mzero t | .mldt t _ _ | .mstt t _ _ | .msave t _ | .mrest t _ | .mscale t _ _ => [t]
  | _ => []

/-- OPRDY (R220): the fragment's earlier stores are performed for M, and so are those that happen before it, whose
releases waited for them. -/
def execOprdy (s : State) : Host.Outcome State Fault Refusal :=
  finishDone s do
    waitFor (!s.pending fun o => o.isStore || o.isAtomic)
    .ok s

/-! ## MATRIX_OP_START and MATRIX_OP_RETIRE -/

/-- May an earlier operation of one of its arrays keep it from starting? One that has not started does, and a paired one until it
retires keeps the follower's array (R217). -/
def Op.bars (p o : Op) : Bool :=
  p.id < o.id && match p.kind with
    | .mx _ l started _ => p.arrays.any fun a => o.arrays.contains a && (!started || a != l)
    | _ => false

/-- An operation starts when it heads the queue of each of its arrays (R217), after the fragment's earlier acquires and the
releases that name M (R195). Those on different tiles then end in any order (R219). -/
def State.mxStart? (s : State) (id : Nat) : Option State :=
  match s.op? id with
  | none => none
  | some o => match o.kind with
    | .mx k l false bef =>
      if s.acquiring o || s.releasing o 2 || s.flight.any fun p => p.bars o then none
      else some (s.setOp { o with kind := .mx k l true bef })
    | _ => none

/-- MATRIX_OP_START (R217). -/
def execMatrixOpStart (id : Nat) (s : State) : Host.Outcome State Fault Refusal := event s (s.mxStart? id)

/-- The 32-byte sector of a place. -/
def sectorOf : Place → Loc
  | .direct l => ⟨l.sp, l.a / 32⟩
  | .homed l _ => ⟨l.sp, l.a / 32⟩
  | .lane k => ⟨.priv 0, k / 32⟩
  | .peer sl o => ⟨.cmd (66 + sl), o.toNat / 32⟩

/-- What an operation reads: for each sector, what it held at issue or what it holds now (R221). -/
def State.raced (s : State) (d : Nat) (ops : List (List Place)) (bef : List (List (Byte × Bool))) : List (List (Byte × Bool)) :=
  let secs := (ops.flatten.map sectorOf).eraseDups
  (List.range ops.length).map fun i =>
    let old := (bef.getD i []).toArray
    let ps := (ops.getD i []).toArray
    (List.range ps.size).map fun j =>
      let p := ps.getD j zeroPlace
      if Config.freeBit (s.free + 17 + (secs.findIdx (· == sectorOf p))) then old.getD j (0, false) else s.engByte d p

/-- A reader in flight looks at what it reads again: each sector keeps the value it had, or takes the one it holds now
(R221, R242). Behind an acquire that is still to be answered, or a release that names its class, it takes what stands now
(R189, R195). -/
def State.lookAgain (s : State) (o : Op) : State :=
  let d := (s.gang o.gang).vd
  let look (c : Nat) (ps : List (List Place)) (old : List (List (Byte × Bool))) (put : List (List (Byte × Bool)) → OpKind) :
      State :=
    let now := ps.map fun l => l.map (s.engByte d)
    if now == old then s
    else if s.acquiring o || s.releasing o c then s.setOp { o with kind := put now }
    else { s with free := s.free + 17 + 4096 }.setOp { o with kind := put (s.raced d ps old) }
  match o.kind with
  | .mx k l st bef => look 2 k.operands bef fun b => .mx k l st b
  | .copy q (.linear d src n) sync true data 0 =>
    if data.length ≠ 4 * src.length || src.any fun p => match p with | .peer .. => true | _ => false then s
    else look 1 [src.flatMap fun p => placeBytes p 4] [data] fun b => .copy q (.linear d src n) sync true b.flatten 0
  | _ => s

/-- Every reader in flight looks again. -/
def State.lookAll (s : State) : State := s.flight.foldl State.lookAgain s

/-- The result tiles of an MMA (R215): tile and words. -/
def State.mmaResult (s : State) (ty : Nat) (z bs : Bool) (a b sa sb : List (List Byte)) (tile : Nat)
    (fol : Option Nat) : List (Nat × List Nat × Bool) :=
  let g := if bs then 32 else mmaSlice ty
  let n := mmaK ty / g
  let rows (fmt : Nat) (l : List (List Byte)) : Array (List (List Num.Ex)) :=
    (l.map fun r => chunks g n (rowVals fmt r)).toArray
  let scales (l : List (List Byte)) : Array (List Num.Ex) := (l.map fun r => rowVals 0 r).toArray
  let A := rows (mmaFmtA ty) a
  let B := rows (mmaFmtB ty) b
  let SA := scales sa
  let SB := scales sb
  let one (t base : Nat) : Nat × List Nat × Bool :=
    let old := s.tileWords t
    let ws := old.1.toArray
    (t, (List.range 4096).map fun w =>
      let i := w / 64
      let j := base + w % 64
      mmaElem (mmaInt ty) (if z then 0 else ws.getD w 0) (A.getD i []) (B.getD j [])
        (List.zipWith Num.Ex.mul (SA.getD i []) (SB.getD j [])) bs, !z && old.2)
  one tile 0 :: (match fol with | some f => [one f 64] | none => [])

/-- Widen a word of MLDT's formats. -/
def widen (fmt : Nat) (b : List Byte) : Nat :=
  match fmt with
  | 1 => (Num.rneF32 (Num.val Num.bf16 (natOf b))).toNat
  | 2 => (Num.rneF32 (Num.val Num.h16 (natOf b))).toNat
  | _ => natOf b

/-- A row of MSTT (R223). -/
def mstRow (fmt : Nat) (ws : List Nat) : List Byte :=
  let cv (f : Num.Fmt) (n : Nat) : List Byte := ws.flatMap fun w => bytesOf n (Num.round f .rne (Num.val Num.f32 w))
  let sx (m : Nat) : List Byte := (chunks 16 4 ws).flatMap fun b =>
    bytesOf (Num.sxBytes m) (Num.encSx m (b.map (Num.val Num.f32)))
  match fmt with
  | 0 => ws.flatMap (bytesOf 4)
  | 1 => cv Num.bf16 2
  | 2 => cv Num.h16 2
  | 3 => cv Num.e4m3 1
  | 4 => cv Num.e5m2 1
  | 5 => sx 7
  | 6 => sx 4
  | _ => sx 2

/-- MSCALE's result (R222). -/
def scaleTile (cols : Bool) (f ws : List Nat) : List Nat :=
  let fa := f.toArray
  let wa := ws.toArray
  (List.range 4096).map fun w =>
    let x := fa.getD (if cols then w % 64 else w / 64) 0
    (Num.rneF32 ((Num.val Num.f32 (wa.getD w 0)).mul (Num.val Num.f32 x))).toNat

/-- Write bytes to byte places of local memory. -/
def State.putBytes (s : State) (ps : List Place) (bs : List Byte) : State :=
  (ps.zip bs).foldl (fun s p => match p.1 with | .direct l => s.putRaw l p.2 | _ => s) s

/-- What an operation writes: tiles, then memory; none when poison is consumed (R207, R218). -/
def State.mxEffect (s : State) (k : MxKind) (got : List (List (Byte × Bool))) : Option State :=
  if got.any (·.any (·.2)) then none
  else
    let bytes := got.map fun l => l.map (·.1)
    match k with
    | .mma ty z bs a b tile fol =>
      let n := a.rows.length
      let m := b.rows.length
      let per := mmaK ty / 32 * 2
      let res := s.mmaResult ty z bs (bytes.take n) ((bytes.drop (n + 1)).take m) (chunks per n (bytes.getD n []))
        (chunks per m (bytes.getD (n + 1 + m) [])) tile fol
      if res.any (·.2.2) then none else some (res.foldl (fun s r => s.putTile r.1 r.2.1) s)
    | .mzero t => some (s.putTile t (List.replicate 4096 0))
    | .mldt t fmt _ =>
      some (s.putTile t (bytes.flatMap fun r => (chunks (tileRow fmt / 64) 64 r).map (widen fmt)))
    | .mstt t fmt dst =>
      let w := s.tileWords t
      if w.2 then none
      else some ((dst.rows.zip (chunks 64 64 w.1)).foldl (fun s r => s.putBytes r.1 (mstRow fmt r.2)) s)
    | .msave t dst =>
      let w := s.tileWords t
      if w.2 then none else some (s.putPlaces dst ((w.1.flatMap (bytesOf 4)).map fun b => (b, false)))
    | .mrest t _ => some (s.putTile t (bytes.map natOf))
    | .mscale t cols _ =>
      let w := s.tileWords t
      if w.2 then none else some (s.putTile t (scaleTile cols ((chunks 4 64 bytes.flatten).map natOf) w.1))

/-- An MSAVE to a peer that fails is dropped and reported once (R163, R393). -/
def State.saveErrors (s : State) (o : Op) (out : List Place) : State :=
  match out.head? with
  | some (.peer sl off) =>
    let t := { s with free := s.free + 17 }
    if s.slotFails (s.gang o.gang).vd sl (s.free + sl) then t.faberr o.wave sl true (off.setWidth 72) else t
  | _ => s

/-- An MREST that fails at a peer is reported too, unless its link is down (R390, R393). -/
def State.restErrors (s : State) (o : Op) (k : MxKind) : State :=
  match k with
  | .mrest _ (.peer sl off :: _) => if s.slotDown (s.gang o.gang).vd sl then s else s.faberr o.wave sl false (off.setWidth 72)
  | _ => s

/-- An operation retires, after the earlier ones on its tiles (R217, R218, R219, R222): homes are touched by its reads (R379), and
the places it writes at homes must be writable. MSTT and MSAVE write all their sectors here, at once: that each may already be
new before (R224) is not shown. DESIGN CHOICE, log 121. -/
def State.mxRetire? (s : State) (id : Nat) : Option State :=
  match s.op? id with
  | none => none
  | some o => match o.kind with
    | .mx k _ true bef =>
      let out := match k with | .msave _ d => d | _ => []
      let src := match k with | .mrest _ d => d | _ => []
      if !(out.all fun p => s.writable engineCore p) || !(k.operands.flatten.all fun p => s.served p false)
          || !s.mayAsk (s.gang o.gang).vd (out ++ src) || s.flight.any fun p => p.id < o.id && p.tiles.any o.tiles.contains
      then none
      else
        let s := (s.ask (s.gang o.gang).vd (out ++ src) []).touchPlaces src
        let got := s.raced (s.gang o.gang).vd k.operands bef
        let t := { s with free := s.free + 17 + 4096 }.saveErrors o out
        match t.mxEffect k got with
        | some u => some (u.dropOp id)
        | none => some ((t.restErrors o k).engineFault o.gang o.wave)
    | _ => none

/-- MATRIX_OP_RETIRE (R218). -/
def execMatrixOpRetire (id : Nat) (s : State) : Host.Outcome State Fault Refusal := event s (s.creditOp id (s.mxRetire? id))

end Sys2Proof.Machine
end

