-- ==== Sys2Proof/Machine/Sched.lean ====
section
/-! DEFINITION. Tasks, launches and placement (major 0x36, R32-R35, R253-R272): the task instructions and LNCH, and the
work of the stream engine, the placer and the steal engines. -/
namespace Sys2Proof.Machine

/-! ## Task instructions (R263-R267) -/

/-- Entry t of the device's task-type table (R260). -/
def Vd.taskType (v : Vd) (t : Nat) : Nat := (v.types.getD t 0).toNat

/-- TASKNEW sd, sa, sb (R263): a release. -/
def State.tasknew (s : State) (f : X3) : Act State := do
  let sb := f.sb.toNat
  let rs := [f.sa.toNat, sb, sb + 1]
  (f.d.toNat :: rs).forM s.checkS
  let xs ← s.readSs rs
  let i := (xs.getD 0 {}).val.toNat
  let n := (xs.getD 1 {}).val.toNat
  let c := (xs.getD 2 {}).val
  need ((xs.getD 0 {}).tag == 0 && i < 256 && n < 65536 && c.toNat < 2 ^ 48) s cILL
  need (s.rolePfx.all s.cl.block.has) s cROLE (BitVec.ofNat 72 (s.rolePfx.getD 0))
  need (i < s.cl.block.ttcount) s cILL
  waitFor s.settled
  let s ← s.commit
  let die := s.cw.die
  match s.freeRecord die with
  | none => .ok (s.writeS f.d.toNat 0)
  | some x =>
    let t := s.newTask die x (s.cl.block.ttfirst + i) s.cg.launch n c s.rolePfx
    .ok (t.writeS f.d.toNat (BitVec.ofNat 64 (t.task die x).handle))

def execTasknew (f : X3) (s : State) : Host.Outcome State Fault Refusal := finishDone s (s.tasknew f)

/-- The status and effect of a TASKDEP (R264). A successor on a die to which a closed bridge bars the route (R12) is BAD, and the
bridge counts the request (R400). DEDUCED, log 117. -/
def State.link (s : State) (p q : DWord) : Nat × State :=
  let die := field q.toNat 28 3
  if !s.reaches s.cw.die die then (3, s.drops s.cw.die die)
  else match s.liveTask q with
  | none => (3, s)
  | some t =>
    if t.st != .waiting || t.dep = 0 || field p.toNat 28 3 ≠ t.die then (3, s)
    else match s.liveTask p with
      | some u => if 6 ≤ u.succ.length then (2, s) else (0, s.setTask { u with succ := u.succ ++ [t.idx] })
      | none => (1, s.decDep t.die t.idx)

/-- TASKDEP sd, sa, sb (R264). -/
def State.taskdep (s : State) (f : X3) : Act State := do
  [f.d.toNat, f.sa.toNat, f.sb.toNat].forM s.checkS
  let xs ← s.readSs [f.sa.toNat, f.sb.toNat]
  waitFor s.settled
  let s ← s.commit
  let (st, s) := s.link (xs.getD 0 {}).val (xs.getD 1 {}).val
  .ok (s.writeS f.d.toNat (BitVec.ofNat 64 st))

def execTaskdep (f : X3) (s : State) : Host.Outcome State Fault Refusal := finishDone s (s.taskdep f)

/-- Does the READY task fit the wave (R260)? -/
def State.fits (s : State) (t : Task) (w : Wave) : Bool :=
  let g := s.gang w.gang
  let b := (s.launch g.launch).block
  let r := b.roles.getD w.role {}
  let ty := (s.vd g.vd).taskType t.typ
  t.st == .ready && t.launch == g.launch && t.die == w.die && w.role == t.role
    && field ty 72 6 ≤ r.regs && field ty 80 5 ≤ r.tiles && field ty 88 24 ≤ b.scratch

/-- Is `a` handed out before `b` (R40, R265)? -/
def Vd.handsFirst (v : Vd) (a b : Task) : Bool :=
  let p (t : Task) := field (v.taskType t.typ) 85 3
  p b < p a || (p a == p b && a.since < b.since)

/-- The task the wave would be handed now. -/
def State.bestTask (s : State) (w : Wave) : Option Task :=
  let v := s.vd (s.gang w.gang).vd
  (s.tasks.filter fun t => s.fits t w).foldl (fun b t => match b with
    | none => some t
    | some u => if v.handsFirst t u then some t else b) none

/-- Some fragment parked in TASKGET before `seq` fits the task (R265). -/
def State.waiterBefore (s : State) (t : Task) (seq : Nat) : Bool :=
  s.waves.any fun w => (s.gang w.gang).placed && (w.mode == .run || w.handling) && s.fits t w &&
    w.frags.any fun f => f.live && f.park == .task && decide (f.parkSeq < seq)

/-- The launch is drained, as the wave sees it (R265). -/
def State.drained (s : State) (l w : Nat) : Bool :=
  !(s.tasks.any fun t => t.launch == l && (t.st == .waiting || t.st == .ready ||
    (t.st == .running && t.holder != some w)))

/-- TASKGET sd (R265): committing, so that recompute code cannot wait in it (R364). -/
def State.taskget (s : State) (d : Nat) : Act State := do
  ((List.range 5).map (d + ·)).forM s.checkS
  need (s.cw.mode != .recompute) s cPRIV
  let parked := s.cf.park == .task
  let seq := if parked then s.cf.parkSeq else s.seq
  let put (s : State) (vs : List Nat) : State :=
    ((List.range 5).foldl (fun s i => s.writeS (d + i) (BitVec.ofNat 64 (vs.getD i 0))) s).done
  match s.bestTask s.cw with
  | some t =>
    if s.waiterBefore t seq then (if parked then .error .wait else .error (.keep (s.parkCf .task)))
    else do
      let s ← s.commit
      let t' := { t with st := .running, holder := some s.cur.wave }
      .ok (put (s.setTask t') [t.handle, field (s.cv.taskType t.typ) 0 64, t.tx.toNat, t.ty.toNat, t.tz.toNat])
  | none =>
    if s.drained s.cg.launch s.cur.wave then do
      let s ← s.commit
      .ok (put s [0, 0, 0, 0, 0])
    else if parked then .error .wait
    else .error (.keep (s.parkCf .task))

def execTaskget (d : BitVec 6) (s : State) : Host.Outcome State Fault Refusal := finish s (s.taskget d.toNat)

/-- TASKDONE sd, sa (R266): a release. -/
def State.taskdone (s : State) (a d : Nat) : Act State := do
  [d, a].forM s.checkS
  let x ← s.readS a
  waitFor s.settled
  let s ← s.commit
  match s.liveTask x.val with
  | some t =>
    if t.st == .running && t.holder == some s.cur.wave then .ok ((s.finishTask t).writeS d 0) else .ok (s.writeS d 1)
  | none => .ok (s.writeS d 1)

def execTaskdone (sa d : BitVec 6) (s : State) : Host.Outcome State Fault Refusal :=
  finishDone s (s.taskdone sa.toNat d.toNat)

/-! ## Reading device memory -/

/-- n bytes of tag-0x00 memory of device d as an engine reads them; none where a page does not allow it. -/
def State.engRead (s : State) (d off n : Nat) : Option (List Byte) :=
  (List.range n).mapM fun i => (s.engLoc d (off + i) .r).map fun l => (s.homeByte l).1

/-- Where an engine finds each half of n bytes of tag-0x00 memory of the device. -/
def State.engHalves (s : State) (d off n : Nat) : List Loc :=
  (List.range ((off % 64 + n + 63) / 64)).filterMap fun i => s.engLoc d (off / 64 * 64 + 64 * i) .r

/-- An engine may read them now (R382, R403), and snoops those that the host holds EM first (R379). -/
def State.engReady (s : State) (d off n : Nat) : Bool :=
  (s.engHalves d off n).all fun l => !s.snoopBlocked l false && !s.busy l

def State.engSnoop (s : State) (d off n : Nat) : State :=
  if s.dir.any fun e => e.2 == .m then (s.engHalves d off n).foldl (fun s l => s.engTouch l.a 64) s else s

def State.stream (s : State) (d st : Nat) : Stream := (s.vd d).streams.getD st {}

def State.modStream (s : State) (d st : Nat) (f : Stream → Stream) : State :=
  s.modVd d fun v => { v with streams := v.streams.modify st f }

/-! ## LNCH (R268) -/

/-- LNCH sd, sa, sb: a release. -/
def State.lnch (s : State) (f : X3) : Act State := do
  [f.d.toNat, f.sa.toNat, f.sb.toNat].forM s.checkS
  let xs ← s.readSs [f.sa.toNat, f.sb.toNat]
  let a := xs.getD 0 {}
  let st := (xs.getD 1 {}).val.toNat
  need (st < 16) s cILL
  needAlign s a.val a.tag 128
  need (a.tag == 0) s cPROT (a.tag ++ a.val)
  s.checkTr 4 ((wordAddrs a 512).map fun x => ((0, x), s.translateCur 0 x .r))
  waitFor s.settled
  let hdr := match s.translateCur 0 (a.tag ++ a.val) .r with
    | .ok (.homed l _) => natOf ((s.homeBytes l 8).map (·.1))
    | _ => 0
  need (s.rolePfx.getD 0 ≤ field hdr 8 2) s cROLE (BitVec.ofNat 72 (s.rolePfx.getD 0))
  let s ← s.commit
  let d := s.cg.vd
  let q := s.stream d st
  if 32 ≤ q.devq.length then .ok (s.writeS f.d.toNat 0)
  else
    let next : Word := if q.seqc + 1 = 0 then 1 else q.seqc + 1
    let t := s.modStream d st fun x => { x with
      devq := x.devq ++ [⟨a.val, q.seqc, s.rolePfx⟩], seqc := next, order := x.order ++ [true] }
    .ok (t.writeS f.d.toNat (q.seqc.setWidth 64))

def execLnch (f : X3) (s : State) : Host.Outcome State Fault Refusal := finishDone s (s.lnch f)

/-! ## The launch block (R256, R257) -/

/-- The fields of a block from its 512 bytes. -/
def blockOf (x : Nat) : Block :=
  let f (off lo n : Nat) : Nat := field x (8 * off + lo) n
  { ngangs := f 0 32 32
    code := BitVec.ofNat 64 (f 8 0 64)
    roles := (List.range (f 0 8 2 + 1)).map fun r =>
      let o := 0x10 + 16 * r
      { entry := BitVec.ofNat 64 (f o 0 64), regs := f o 64 6, waves := f o 70 5, wgs := f o 75 3, xb := f o 78 1 == 1
        tiles := f o 79 5 }
    scratch := f 0x50 0 32, fifos := f 0x50 32 6, ttfirst := f 0x58 0 8, ttcount := f 0x58 8 9
    event := BitVec.ofNat 64 (f 0x60 0 64)
    args := (List.range 15).map fun i =>
      { val := BitVec.ofNat 64 (f (0x80 + 16 * i) 0 64), tag := BitVec.ofNat 8 (f (0x80 + 16 * i) 64 8) }
    binds := (List.range 15).map fun i => BitVec.ofNat 16 (f (0x170 + 2 * i) 0 16)
    seeds := (List.range (min (f 0x58 24 4) 8)).map fun j => BitVec.ofNat 64 (f (0x190 + 8 * j) 0 64) }

/-- The bits of a block that R256 and R257 assign. -/
def blockBits (nroles nseed : Nat) : Nat :=
  let b (off lo n : Nat) : Nat := (2 ^ n - 1) * 2 ^ (8 * off + lo)
  let all (n : Nat) (f : Nat → Nat) : Nat := (List.range n).foldl (fun a i => a ||| f i) 0
  b 0 0 10 ||| b 0 32 32 ||| b 8 0 64 ||| b 0x50 0 38 ||| b 0x58 0 17 ||| b 0x58 24 4 ||| b 0x60 0 64
    ||| all nroles (fun r => b (0x10 + 16 * r) 0 84)
    ||| all 15 (fun i => b (0x80 + 16 * i) 0 72 ||| b (0x170 + 2 * i) 0 2 ||| b (0x170 + 2 * i) 8 8)
    ||| all nseed (fun j => b (0x190 + 8 * j) 0 8 ||| b (0x190 + 8 * j) 16 48)

/-- Banks a gang of the block holds: SCRATCH, then FIFO (R432). -/
def Block.scratchBanks (b : Block) : Nat := (b.scratch + 131071) / 131072

/-- LNCH with role=r: the block is read as if it listed role r alone (R268). -/
def Block.only (b : Block) (role : Option Nat) : Block :=
  match role with
  | none => b
  | some r => { b with roles := b.roles.mapIdx fun i x => if i = r then x else { x with wgs := 0 } }

/-- A tag a binding row may require (R257). -/
def bindTag (t : Nat) : Bool := t = 0 || t = 1 || t = 0xF0 || (0x10 ≤ t && t ≤ 0x1F)

/-- The block passes R256: every field in range, every task type and seed good. -/
def State.blockOk (s : State) (d x : Nat) (b : Block) (role : Option Nat) : Bool :=
  let nseed := field x (8 * 0x58 + 24) 4
  let lone := b.only role
  let tt (i : Nat) : Bool :=
    let t := (s.vd d).taskType (b.ttfirst + i)
    let r := lone.roles.getD (field t 64 2) {}
    field t 66 1 = 1 && r.wgs != 0 && field t 72 6 ≤ r.regs && field t 80 5 ≤ r.tiles && field t 88 24 ≤ b.scratch
  x &&& blockBits b.roles.length (min nseed 8) = x && field x 0 8 = 1 && 1 ≤ b.ngangs && nseed ≤ 8
    && b.ttcount ≤ 256 && b.ttfirst + b.ttcount ≤ 256 && b.fifos ≤ 32 && b.scratchBanks + b.fifos ≤ 32
    && (b.roles.all fun r => !r.entry.getLsbD 0 && 1 ≤ r.regs && r.regs ≤ 40 && 1 ≤ r.waves && r.waves ≤ 16
          && 1 ≤ r.wgs && r.wgs ≤ 4 && r.tiles ≤ 16)
    && (let n := (lone.roles.map (·.wgs)).sum; decide (1 ≤ n ∧ n ≤ 4))
    && (b.binds.all fun r => !r.getLsbD 0 || bindTag (r.toNat / 256))
    && ((List.range b.ttcount).all tt) && (b.seeds.all fun e => e.toNat % 256 < b.ttcount)

/-- The binding rows hold as the page tables stand (R65, R257). -/
def State.bindsOk (s : State) (d : Nat) (b : Block) : Bool :=
  (List.range 15).all fun i =>
    let row := (b.binds.getD i 0).toNat
    let a := b.args.getD i {}
    field row 0 1 = 0 || (a.tag.toNat == row / 256 &&
      match s.translate engineCore d 0 0 (a.tag ++ a.val) (if field row 1 1 = 1 then .rw else .r) with
      | .ok _ => true
      | .error _ => false)

/-! ## LAUNCH_TAKE (R253-R258) -/

/-- The stream's latest launch. -/
def State.lastLaunch (s : State) (d st : Nat) : Option Launch :=
  (s.launches.filter fun l => l.vd == d && l.stream == st).getLast?

/-- A launch entry as it is read: block address, SEQ, SERIAL, whether R254 refuses it, the role of an LNCH. -/
structure Taken where
  block : DWord
  seq : Word
  serial : Bool
  bad : Bool
  role : Option Nat
  deriving Repr

/-- Host entry RDIDX of a stream (R254). -/
def State.hostEntry (s : State) (d st : Nat) : Taken :=
  let off := 0x8000 + 0x800 * st + 0x40 + 0x40 * (s.stream d st).rdidx
  let bs := (s.raws ⟨.cmd d, off⟩ 64).map (·.1)
  let e := natOf bs
  ⟨BitVec.ofNat 64 (field e 0 64), BitVec.ofNat 32 (field e 64 32), field e 96 1 == 1, field e 97 415 ≠ 0, none⟩

/-- The stream engine takes a launch whose block it has read: BADBLOCK, BADBIND, or it goes to the placer. -/
def State.take (s : State) (d st : Nat) (dev : Bool) (t : Taken) (bytes : Option (List Byte)) : State :=
  let n := s.launches.length
  let x := natOf (bytes.getD [])
  let b := blockOf x
  let l : Launch := { vd := d, stream := st, dev := dev, seq := t.seq, serial := t.serial, block := b.only t.role
                      waitFrom := s.time }
  let l := if bytes.isSome then l else { l with block := {} }
  let s := { s with launches := s.launches ++ [l] }
  let s := if (s.vd d).recording then s.modVd d fun v => { v with log := v.log ++ [⟨st, t.seq, bytes.getD []⟩] } else s
  if t.bad || bytes.isNone || t.block.toNat % 128 ≠ 0 || !s.blockOk d x b t.role then s.completeLaunch n 1
  else if !s.bindsOk d b then s.completeLaunch n 2
  else s

/-- The device's streams run (R404, R406). -/
def Vd.runs (v : Vd) : Bool := v.live && v.lodge == 0 && v.resetting.isNone

/-- The head of a stream can be taken: the previous launch is placed, and complete where SERIAL asks for it (R255,
R256). DEDUCED, log 84. -/
def State.headFree (s : State) (d st : Nat) (serial : Bool) : Bool :=
  match s.lastLaunch d st with
  | none => true
  | some p => p.done || (!serial && p.placed == p.block.ngangs)

/-- The stream engine takes the stream's next entry: a recorded launch of a re-run first (R410), then the entries in
the order in which they were received (R254). -/
def State.launchTake? (s : State) (d st : Nat) (dev : Bool) : Option State :=
  let v := s.vd d
  let q := s.stream d st
  if !v.runs then none
  else match v.rerun with
    | e :: r =>
      if !dev && e.stream = st && s.headFree d st true then
        some ((s.modVd d fun v => { v with rerun := r }).take d st false ⟨0, e.seq, true, false, none⟩ (some e.block))
      else none
    | [] =>
      if !q.en then none
      else match q.order with
        | [] => none
        | fromDev :: rest =>
          if fromDev != dev then none
          else if dev then
            match q.devq with
            | [] => none
            | e :: r =>
              if s.headFree d st false && s.engReady d e.block.toNat 512 then
                let s := s.engSnoop d e.block.toNat 512
                some ((s.modStream d st fun x => { x with devq := r, order := rest }).take d st true
                  ⟨e.block, e.seq, false, false, e.role⟩ (s.engRead d e.block.toNat 512))
              else none
          else
            let t := s.hostEntry d st
            if s.headFree d st t.serial && s.engReady d t.block.toNat 512 then
              let s := s.engSnoop d t.block.toNat 512
              some ((s.modStream d st fun x => { x with rdidx := (x.rdidx + 1) % 31, order := rest }).take d st false t
                (s.engRead d t.block.toNat 512))
            else none

/-- LAUNCH_TAKE (R254). -/
def execLaunchTake (vd stream : Nat) (dev : Bool) (s : State) : Host.Outcome State Fault Refusal :=
  event s (s.launchTake? vd stream dev)

/-! ## Placement (R32-R35, R208, R259) -/

/-- Waves that occupy a slot of the partition (R18). -/
def State.slotsUsed (s : State) (part : Nat) : List Nat :=
  s.waves.filterMap fun w => if w.mode != .ended && (s.gang w.gang).placed && w.partNo == part then some w.slot else none

def State.freeSlots (s : State) (part : Nat) : List Nat :=
  (List.range 16).filter fun i => !(s.slotsUsed part).contains i

/-- Workgroups on a core. -/
def State.wgsOn (s : State) (die cl core : Nat) : List Wg :=
  s.gangs.flatMap fun g => if g.placed && g.die == die && g.cluster == cl then g.wgs.filter fun w => w.core == core else []

/-- Physical banks held in a cluster. -/
def State.banksUsed (s : State) (die cl : Nat) : List Nat :=
  s.gangs.flatMap fun g => if g.placed && g.die == die && g.cluster == cl then g.banks.map (·.phys) else []

/-- The lowest start of a run of t tiles apart from the runs held. -/
def firstBase (used : List (Nat × Nat)) (t : Nat) : Nat :=
  ((List.range 100).find? fun b => used.all fun u => u.2 = 0 || t = 0 || b + t ≤ u.1 || u.1 + u.2 ≤ b).getD 0

/-- Where a workgroup of n waves fits on a core: slot, first partition, tile run, and each wave's partition and slot. -/
structure WgFit where
  core : Nat
  slot : Nat
  first : Nat
  base : Nat
  places : List (Nat × Nat)
  deriving Repr, Inhabited

/-- R32 and R208 for one workgroup; `first`: the first partition it must have (R209). -/
def State.fitWg (s : State) (die cl core waves tiles : Nat) (first : Option Nat) : Option WgFit :=
  let here := s.wgsOn die cl core
  let free := (List.range 4).map fun p => s.freeSlots (coreNo die cl core * 4 + p)
  let cnt (p : Nat) : Nat := (free.getD p []).length
  let p := first.getD ((List.range 4).foldl (fun b q => if cnt b < cnt q then q else b) 0)
  let places := (List.range waves).map fun i => ((p + i) % 4, ((free.getD ((p + i) % 4) [])[i / 4]?).getD 16)
  match (List.range 16).find? fun i => !(here.any fun w => w.slot == i) with
  | none => none
  | some slot =>
    if (here.map (·.tiles)).sum + tiles ≤ 16 && places.all fun x => x.2 < 16 then
      some ⟨core, slot, p, firstBase (here.map fun w => (w.tileBase, w.tiles)) tiles, places⟩
    else none

/-- First cores allowed to a gang of n workgroups (R33). -/
def firstCores (n : Nat) : List Nat := match n with | 1 => [0, 1, 2, 3] | 2 => [0, 2] | 3 => [0, 1] | _ => [0]

/-- A workgroup to place: waves, tiles, and, on resumption, its former core and first partition. -/
structure Want where
  waves : Nat
  tiles : Nat
  old : Option (Nat × Nat) := none
  deriving Repr, Inhabited

structure GangFit where
  die : Nat
  cluster : Nat
  wgs : List WgFit
  banks : List Nat
  deriving Repr, Inhabited

/-- The first fit: dies, clusters and first cores in ascending order (R259). -/
def State.fitGang (s : State) (dies : List Nat) (ws : List Want) (banks : Nat) : Option GangFit :=
  dies.findSome? fun die => (List.range 20).findSome? fun cl =>
    let free := (List.range 32).filter fun b => !(s.banksUsed die cl).contains b
    if free.length < banks then none
    else (firstCores ws.length).findSome? fun c =>
      ((List.range ws.length).mapM fun i =>
        let w := ws.getD i default
        match w.old with
        | some (core, p) => if (core + c + i) % 2 = 0 then s.fitWg die cl (c + i) w.waves w.tiles (some p) else none
        | none => s.fitWg die cl (c + i) w.waves w.tiles none).map fun f => ⟨die, cl, f, free.take banks⟩

/-- The role of each workgroup of a gang, in role order (R34). -/
def Block.wgRoles (b : Block) : List Nat :=
  (List.range b.roles.length).flatMap fun r => List.replicate (b.roles.getD r {}).wgs r

/-- The scalars a wave starts with (R35). -/
def startScalars (b : Block) (gang wg wave role nwaves : Nat) : List SReg :=
  let n (v : Nat) : SReg := { val := BitVec.ofNat 64 v }
  (⟨0, 0, .full⟩ : SReg) :: (List.range 15).map (fun i => b.args.getD i ⟨0, 0, .full⟩)
    ++ [n gang, n wg, n wave, n role, n nwaves, n b.ngangs] ++ List.replicate 42 ⟨0, 0, .full⟩

/-- A wave as it starts (R35, R41, R91). -/
def startWave (b : Block) (gid gidx wg idx role part slot win : Nat) (f : WgFit) (die cl : Nat) : Wave :=
  let r := b.roles.getD role {}
  let sc := startScalars b gidx wg idx role r.waves
  { gang := gid, wg := wg, idx := idx, role := role, slot := slot, part := part, core := f.core, cluster := cl, die := die
    wgslot := f.slot, win := win
    frags := { live := true, pc := r.entry, lanes := 0xFFFFFFFF, exm := 0xFFFFFFFF, s := sc } :: List.replicate 7 {}
    snap := { sregs := (List.range 21).map fun i => (i + 1, sc.getD (i + 1) {}), next := r.entry } }

/-- Private window numbers free in a device, below 40,960, for no more waves are placed at once (R13, R157): a pre-empted
gang's waves hold none, for their lines are dropped. -/
def State.freeWins (s : State) (d n : Nat) : List Nat :=
  let used := s.waves.filterMap fun w =>
    if w.mode != .ended && (s.gang w.gang).vd == d && (s.gang w.gang).placed then some w.win else none
  ((List.range (used.length + n)).filter fun i => !used.contains i).take n

/-- Place the next gang of a launch where it fits: everything is reserved at once (R33), and its seeds are created
with its first gang (R262). -/
def State.placeNew (s : State) (li : Nat) (dies : List Nat) (f : GangFit) : State :=
  let l := s.launch li
  let b := l.block
  let gid := s.gangs.length
  let roles := b.wgRoles
  let s := if l.placed ≠ 0 then s else (List.range b.seeds.length).foldl (fun s j =>
    let e := (b.seeds.getD j 0)
    let die := dies.getD (j % dies.length) 0
    match s.freeRecord die with
    | some i => s.newTask die i (b.ttfirst + e.toNat % 256) li 0 (e >>> 16) none
    | none => s) s
  let counts := f.wgs.map fun w => w.places.length
  let wins := s.freeWins l.vd counts.sum
  let base := s.waves.length
  let start (i : Nat) : Nat := (counts.take i).sum
  let wgs : List Wg := (List.range f.wgs.length).map fun i =>
    let w := f.wgs.getD i default
    let r := roles.getD i 0
    { role := r, core := w.core, slot := w.slot, first := w.first, tileBase := w.base, tiles := (b.roles.getD r {}).tiles
      waves := (List.range w.places.length).map fun k => base + start i + k }
  let ws : List Wave := (List.range f.wgs.length).flatMap fun i =>
    let w := f.wgs.getD i default
    (List.range w.places.length).map fun k =>
      let p := w.places.getD k (0, 0)
      startWave b gid l.placed i k (roles.getD i 0) p.1 p.2 (wins.getD (start i + k) 0) w f.die f.cluster
  let banks : List Bank := f.banks.mapIdx fun i p =>
    { phys := p, mode := if i < b.scratchBanks then .scratch else .fifo }
  let g : Gang := { launch := li, vd := l.vd, index := l.placed, die := f.die, cluster := f.cluster
                    core0 := (f.wgs.headD default).core, wgs := wgs, banks := banks }
  let s := { s.takeBanks f.die f.cluster f.banks with gangs := s.gangs ++ [g], waves := s.waves ++ ws }
  let s := (s.freePlace gid).checkpoint gid true
  s.modLaunch li fun l => { l with placed := l.placed + 1, waitFrom := s.time, starved := false }

/-! ## Slices and the placer (R259, R402) -/

/-- The device that holds a partition's slice. -/
def State.holder (s : State) (part : Nat) : Option Nat := (s.slices.find? fun x => x.1 == part).map (·.2.1)

/-- A launch with gangs still to be placed. -/
def Launch.unplaced (l : Launch) : Bool := !l.done && l.placed < l.block.ngangs

/-- The device has a placeable launch, an entry to take, or a pre-empted gang (R402). -/
def State.wants (s : State) (d : Nat) : Bool :=
  (s.vd d).live && ((s.launches.any fun l => l.vd == d && l.unplaced) || (s.gangs.any fun g => g.vd == d && g.st == .imaged)
    || (s.vd d).lodge == 3 || (s.vd d).streams.any fun q => q.en && !q.order.isEmpty)

def State.hasPlaced (s : State) (d : Nat) : Bool := s.gangs.any fun g => g.vd == d && g.placed

/-- Devices of a partition after device d, round-robin in number order. -/
def State.roundRobin (s : State) (part : Nat) (d : Option Nat) : List Nat :=
  let all := (List.range 64).filter fun i => (s.vd i).live && (s.vd i).part == part
  match d with
  | none => all
  | some d => (all.filter fun i => d < i) ++ all.filter fun i => i ≤ d

/-- Give the slice to the next device that wants it. -/
def State.giveSlice (s : State) (part : Nat) : State :=
  match (s.roundRobin part (s.holder part)).find? s.wants with
  | some d => { s with slices := (part, d, s.time) :: s.slices.filter fun x => x.1 != part }
  | none => s

/-- The slice holder, after a slice is given where none is held or the holder has nothing to run. -/
def State.sliced (s : State) (part : Nat) : State :=
  match s.holder part with
  | none => s.giveSlice part
  | some d => if s.hasPlaced d || s.wants d then s else s.giveSlice part

/-- The priority of a launch's stream. -/
def State.prioOf (s : State) (i : Nat) : Nat := (s.stream (s.launch i).vd (s.launch i).stream).prio

/-- The launches of the slice holder with an unplaced gang, highest stream priority first, rotating among equals after
the stream of the gang of their priority that was placed last (R259). -/
def State.candidates (s : State) (d : Nat) : List Nat :=
  let next (p : Nat) : Nat := match (s.gangs.filter fun g => g.vd == d && s.prioOf g.launch == p).getLast? with
    | some g => (s.launch g.launch).stream + 1
    | none => 0
  let ls := (List.range s.launches.length).filter fun i => (s.launch i).vd == d && (s.launch i).unplaced
  let key (i : Nat) : Nat := (7 - s.prioOf i) * 16 + ((s.launch i).stream + 16 - next (s.prioOf i) % 16) % 16
  sortBy (fun a b => decide (key a ≤ key b)) ls

/-- The gang of launch j that has waited 1 ms stops every placement, in its hard partition, of gangs of equal or lower priority,
its device's or another's (R259), while its device's streams run. -/
def State.stops (s : State) (part prio j : Nat) : Bool :=
  let x := s.launch j
  x.unplaced && x.starved && (s.vd x.vd).part == part && (s.vd x.vd).runs && decide (prio ≤ s.prioOf j)

/-- The next gang of launch i may not be placed. Of two starved ones of one priority the one that has waited longer stops the
other, or neither would ever be placed: DEDUCED, log 97. -/
def State.stopped (s : State) (d i : Nat) : Bool :=
  let from_ (i : Nat) : Nat := (s.launch i).waitFrom
  (List.range s.launches.length).any fun j => j != i && s.stops (s.vd d).part (s.prioOf i) j
    && (decide (s.prioOf i < s.prioOf j) || !(s.launch i).starved || decide (from_ j < from_ i)
      || (from_ j == from_ i && decide (j < i)))

/-- The dies of a hard partition in ascending order, as the placer scans them and deals seeds to them (R259, R262). -/
def State.diesOf (s : State) (part : Nat) : List Nat := (List.range 8).filter (s.partitions.getD part []).contains

/-- What a gang of the block asks for. -/
def Block.wants (b : Block) : List Want := b.wgRoles.map fun r =>
  { waves := (b.roles.getD r {}).waves, tiles := (b.roles.getD r {}).tiles }

/-- A pre-emption of the device's gangs is under way (R402). -/
def State.ending (s : State) (d : Nat) : Bool := s.gangs.any fun g => g.vd == d && g.placed && g.preempt.isSome

/-- The placer of a hard partition places one gang. The first gang of a launch waits until every die has room for its seeds: the
spec does not say what becomes of a seed for which a task table has none (R262). DESIGN CHOICE, log 119. -/
def State.gangPlace? (s0 : State) (part : Nat) : Option State :=
  let s := s0.sliced part
  let dies := s.diesOf part
  match s.holder part with
  | none => none
  | some d =>
    if !(s.vd d).runs || s.ending d then none
    else (s.candidates d).findSome? fun i =>
      if s.stopped d i then none
      else
        let b := (s.launch i).block
        let seedsFit := (s.launch i).placed ≠ 0 ||
          dies.all fun die => (s.tasks.filter fun t => t.die == die && t.st != .free).length + b.seeds.length ≤ 65536
        if !seedsFit then none
        else (s.fitGang dies b.wants (b.scratchBanks + b.fifos)).map (s.placeNew i dies)

/-- GANG_PLACE (R259). -/
def execGangPlace (part : Nat) (s : State) : Host.Outcome State Fault Refusal := event s (s.gangPlace? part)

/-- A gang has waited 1 ms: the launch is named by its place in the list of launches (R259). -/
def State.starve? (s : State) (l : Nat) : Option State :=
  let x := s.launch l
  if x.unplaced && !x.starved && x.waitFrom + 1000000 ≤ s.time
  then some (s.modLaunch l fun y => { y with starved := true }) else none

/-- PLACEMENT_STARVATION (R259). -/
def execPlacementStarvation (gang : Nat) (s : State) : Host.Outcome State Fault Refusal := event s (s.starve? gang)

/-! ## Continuous batching (R271, R272) -/

/-- The steal engine's read of a slot snoops what the host holds EM of it (R379). -/
def State.btSnoop (s : State) (d die slot : Nat) : State :=
  match s.btSlot d die slot with
  | some a => s.engSnoop d a 32
  | none => s

/-- The 32 bytes of a slot. -/
def State.btRead (s : State) (d die slot : Nat) : Option Nat :=
  match s.btSlot d die slot with
  | some a => (s.engRead d a 32).map natOf
  | none => none

/-- Write the first bytes of a slot at their homes (R182). -/
def State.btWrite (s : State) (d die slot : Nat) (bs : List Byte) : State :=
  let ps := ((s.btLocs d die slot).getD []).zip bs
  let t := ps.foldl (fun s p => s.homePut p.1 p.2) s
  (ps.map fun p => p.1.line).eraseDups.foldl (fun s l => s.setHome { s.home l with lastStore := some s.time }) t

/-- BTBASE_SET: the supervisor sets BTBASE for one persistent launch. -/
def execBtbaseSet (die vd : Nat) (base : DWord) (launch : Nat) (s : State) : Host.Outcome State Fault Refusal :=
  event s (if (s.vd vd).live then some (s.modVd vd fun v =>
    { v with btbase := (die, base) :: v.btbase.filter fun b => b.1 != die, btlaunch := some launch }) else none)

/-- Slots of other dies of the partition that a steal may take, oldest STAMP first, lowest die and slot on ties: stamp,
die, slot. -/
def State.stealable (s : State) (d die : Nat) : List (Nat × Nat × Nat) :=
  let dies := (s.diesOf (s.vd d).part).filter (· != die)
  let all := dies.flatMap fun e => (List.range 1024).filterMap fun k =>
    match s.btRead d e k with
    | some x => if field x 0 2 = 1 && field x 2 1 = 1 && field x 192 64 + 10000 < s.time
        then some (field x 192 64, e, k) else none
    | none => none
  sortBy (fun (a b : Nat × Nat × Nat) => decide (a.1 < b.1) || (a.1 == b.1 && (decide (a.2.1 < b.2.1) ||
    (a.2.1 == b.2.1 && decide (a.2.2 ≤ b.2.2))))) all

/-- The ready lists of the die hold a task of the launch. -/
def State.btReady (s : State) (l die : Nat) : Bool :=
  s.tasks.any fun t => t.die == die && t.launch == l && t.st == .ready

/-- Keep the time since which each die's ready lists have held no task of BTLAUNCH (R272). -/
def State.btWatch (s : State) : State :=
  { s with vds := s.vds.map fun v => match v.btlaunch with
    | none => v
    | some l =>
      let dies := (s.partitions.getD v.part []).filter fun die => !s.btReady l die
      { v with btempty := dies.map fun die => (v.btempty.find? fun e => e.1 == die).getD (die, s.time) } }

/-- They have held none for 10 µs. -/
def State.btIdle (s : State) (d l die : Nat) : Bool :=
  !s.btReady l die && (s.vd d).btempty.any fun e => e.1 == die && e.2 + 10000 ≤ s.time

/-- The lowest FREE slot of the die. -/
def State.btFreeSlot (s : State) (d die : Nat) : Option Nat :=
  (List.range 1024).find? fun i => (s.btRead d die i).map (fun x => field x 0 2) == some 0

/-- The steal engine of a die sets out to take a sequence (R272). It needs a slot of its own: the spec does not say what it
does where none is FREE, and there it takes nothing. -/
def State.stealBegin? (s : State) (die : Nat) : Option State :=
  (List.range 64).findSome? fun d =>
    match (s.vd d).btlaunch with
    | none => none
    | some l =>
      if !(s.vd d).live || !s.btIdle d l die || (s.launch l).done then none
      else match s.stealable d die, s.btFreeSlot d die with
        | (_, e, k) :: _, some own =>
          let w := ((s.btRead d e k).getD 0) % 2 ^ 64
          let s := (s.btSnoop d e k).btSnoop d die own
          some { s with steals := s.steals ++ [⟨die, own, e, k, d, false, [], w⟩] }
        | _, _ => none

/-- The claim, once the leases on the records have passed: a CAS of word 0, whole as the engine read it, from IDLE to MOVING,
then the record in the die's own slot and pages for the copies. A claim that fails, or for whose copies the pool has no pages,
takes nothing (R272 steps 1 to 3). -/
def State.stealClaim? (s : State) (st : Steal) : Option State :=
  let d := st.vd
  let rest := s.steals.filter fun x => x.die != st.die
  match s.btRead d st.from_ st.fromSlot, s.btFreeSlot d st.die with
  | some x, some own =>
    if !(s.btFree d st.from_ st.fromSlot && s.btFree d st.die own) then none
    else
      let pages := match (s.vd d).rink (field x 16 16) with | some r => r.pages | none => []
      if x % 2 ^ 64 ≠ st.word || (s.vd d).pool.length < pages.length then
        some { (s.btSnoop d st.from_ st.fromSlot) with steals := rest }
      else
        let x' := x / 4 * 4 + 3
        let s := (s.btWrite d st.from_ st.fromSlot (bytesOf 8 (x' % 2 ^ 64))).btWrite d st.die own (bytesOf 32 x')
        let taken := pages.zip ((s.vd d).pool.take pages.length)
        let s := s.modVd d fun v => { v with pool := v.pool.drop pages.length }
        some { s with steals := rest ++ [{ st with slot := own, claimed := true, word := x' % 2 ^ 64
                                                   copied := taken.map fun p => (p.1.1, p.1.2.1, p.1.2.2, p.2) }] }
  | _, _ => some { s with steals := rest }

/-- STEAL (R272): the die's engine sets out, or makes its claim. -/
def State.steal? (s : State) (die : Nat) : Option State :=
  match s.steals.find? fun x => x.die == die with
  | some st => if st.claimed then none else s.stealClaim? st
  | none => s.stealBegin? die

def execSteal (die : Nat) (s : State) : Host.Outcome State Fault Refusal := event s (s.steal? die)

/-- Pages return to the device's pool that no rink ever held. -/
def State.unpage (s : State) (d : Nat) (ps : List Nat) : State := s.modVd d fun v => { v with pool := v.pool ++ ps }

/-- A page of the sequence moves: what it holds now goes to the new page, which takes its place in the map; workgroups that
have the rink pinned read the old one until they unpin; and the old one is searched for (R272 step 3, R276). -/
def State.movePage (s : State) (d h : Nat) (c : Nat × Nat × Nat × Nat) : State :=
  match (s.vd d).rink h with
  | none => s.unpage d [c.2.2.2]
  | some r =>
    let e := (c.1, c.2.1, c.2.2.1)
    if !r.pages.contains e then s.unpage d [c.2.2.2]
    else
      let s := s.engTouch c.2.2.1 65536
      let bs := s.homeBytes ⟨.phys, c.2.2.1⟩ 65536
      let readers := (List.range s.gangs.length).flatMap fun g => ((List.range (s.gang g).wgs.length).filter fun i =>
        (s.gang g).vd == d && s.wgPins g i (rkName h) && (r.oldPage (g, i) c.1 c.2.1).isNone).map fun i =>
          (⟨g, i, c.1, c.2.1, c.2.2.1⟩ : OldPage)
      let r' := { r with pages := (c.1, c.2.1, c.2.2.2) :: r.pages.erase e, old := readers ++ r.old }
      (((s.wipe c.2.2.2).putRaws ⟨.phys, c.2.2.2⟩ bs).setRink d h r').rkFree d h c.2.2.1

/-- The pages of a copy may be read and written: no request of the host is in flight for what it holds of them (R382). -/
def State.copyReady (s : State) (c : Nat × Nat × Nat × Nat) : Bool :=
  s.pageFree c.2.2.2 && (List.range 1024).all fun i => !s.snoopBlocked ⟨.phys, c.2.2.1 + 64 * i⟩ false

/-- A steal ends: a CAS of word 0, whole as the engine wrote it, takes the old slot from MOVING to FREE and the new one goes to
IDLE with a task, its rink's pages moved; or, if the old slot's word has changed, it is abandoned (R272 step 4). -/
def State.stealFinish? (s : State) (die : Nat) : Option State :=
  match s.steals.find? fun x => x.die == die && x.claimed with
  | none => none
  | some st =>
    let d := st.vd
    let t := { s with steals := s.steals.filter fun x => x.die != die }
    match s.btRead d st.from_ st.fromSlot, s.btRead d die st.slot with
    | some o, some n =>
      if !(s.btFree d st.from_ st.fromSlot && s.btFree d die st.slot && st.copied.all s.copyReady) then none
      else if o % 2 ^ 64 = st.word then
        let t := st.copied.foldl (fun t c => t.movePage d (field n 16 16) c)
          (t.btWrite d st.from_ st.fromSlot (bytesOf 8 (o % 2 ^ 64 / 4 * 4)))
        let n' := n % 2 ^ 192 / 4 * 4 + 1 + s.time % 2 ^ 64 * 2 ^ 192
        let t := t.btWrite d die st.slot (bytesOf 32 n')
        let l := ((s.vd d).btlaunch).getD 0
        match t.freeRecord die with
        | some i =>
          if (s.launch l).done then some t
          else some (t.newTask die i ((s.launch l).block.ttfirst + field n 8 8) l 0 (BitVec.ofNat 64 st.slot) none)
        | none => some t
      else
        some ((t.btWrite d die st.slot (bytesOf 8 (n % 2 ^ 64 / 4 * 4))).unpage d (st.copied.map (·.2.2.2)))
    | _, _ => some (t.unpage d (st.copied.map (·.2.2.2)))

/-- STEAL_FINISH (R272). -/
def execStealFinish (die : Nat) (s : State) : Host.Outcome State Fault Refusal := event s (s.stealFinish? die)

end Sys2Proof.Machine
end

