-- ==== Sys2Proof/Machine/Slalom.lean ====
section
/-! DEFINITION. The Slalom search trees (major 0x3B; R294-R313): operands, descent, backup, expansion, choice, re-rooting,
pruning, creation, reading and configuration. A step on one node, or one that is atomic for its tree, is performed when its
instruction issues; SLDESC, SLBACK and SLPICK then go on from node to node (R295). Results are delivered later. -/
namespace Sys2Proof.Machine

/-! ## Trees and nodes -/

def Vd.tree (v : Vd) (t : Nat) : Option Tree := (v.trees.find? fun p => p.1 == t).map (·.2)

def State.setTree (s : State) (d t : Nat) (x : Tree) : State := s.modVd d fun v =>
  { v with trees := v.trees.map fun p => if p.1 = t then (t, x) else p }

/-- Node i, unless it is free. -/
def Tree.node? (t : Tree) (i : Nat) : Option Node := (t.nodes.find? fun p => p.1 == i).map (·.2)

def Tree.modNode (t : Tree) (i : Nat) (f : Node → Node) : Tree :=
  { t with nodes := t.nodes.map fun p => if p.1 = i then (i, f p.2) else p }

/-- The children of a node that a descent may choose (R297). -/
def Tree.kids (t : Tree) (x : Node) : List (Nat × Node) :=
  (List.range x.nch).filterMap fun j => match t.node? (x.first + j) with
    | some y => if y.cut then none else some (x.first + j, y)
    | none => none

/-- The nodes of a list and all below them, down to this many levels. -/
def Tree.below (t : Tree) : Nat → List Nat → List Nat
  | 0, _ => []
  | _, [] => []
  | n + 1, xs => xs ++ t.below n (xs.flatMap fun i => match t.node? i with
      | some x => (List.range x.nch).map (x.first + ·)
      | none => [])

/-- x's subtree: no chain is longer than the number of nodes. -/
def Tree.subtree (t : Tree) (x : Nat) : List Nat := t.below (t.nodes.length + 1) [x]

/-- The lowest-indexed run of n free nodes (R305): it starts at 0 or just past an allocated node. -/
def Tree.run (t : Tree) (n : Nat) : Option Nat :=
  let free (i : Nat) : Bool := t.nodes.all fun p => p.1 < i || i + n ≤ p.1
  let starts := (0 :: t.nodes.map fun p => p.1 + 1).filter fun i => i + n ≤ t.cap && free i
  starts.min?

/-- FREE (R294). -/
def Tree.free (t : Tree) : Nat := t.cap - t.nodes.length

/-- Where the node of a tree that stands at `a` is while its page moves: the tree's place follows its first page (R403). -/
def State.nodeAt (s : State) (a : Nat) : Loc :=
  match s.moves.find? fun m => m.dst == a / 65536 with
  | some m => if m.copied.getLsbD (a / 4096 % 16) then ⟨.phys, a⟩ else ⟨.phys, m.src * 65536 + a % 65536⟩
  | none => s.fwd ⟨.phys, a⟩

/-- An uncorrectable error lies in node i (R312). -/
def State.nodeBad (s : State) (t : Tree) (i : Nat) : Bool :=
  let a := (s.nodeAt (t.base + 64 * i)).a
  s.bad.any fun k => decide (a ≤ k) && decide (k < a + 64)

/-- Allocated nodes are written whole. -/
def State.cleanNodes (s : State) (t : Tree) (i n : Nat) : State :=
  (List.range n).foldl (fun s j => s.zero (s.nodeAt (t.base + 64 * (i + j))) 64) s

/-- SLNAME(t) (R296). -/
def slName (t : Nat) : DWord := BitVec.ofNat 64 (2 ^ 57 + t)

/-! ## Operands (R298) -/

/-- A tree operand: bits 71:8 are 0. -/
def treeNo (s : State) (x : SReg) : Act Nat := do
  need (x.tag == 0 && x.val.toNat < 256) s cILL
  .ok x.val.toNat

/-- A node index: bits 63:26 are 0. -/
def nodeNo (s : State) (x : SReg) : Act Nat := do
  need (x.val.toNat < 2 ^ 26) s cILL
  .ok x.val.toNat

/-- TRAPA of SLPATH: tree in 7:0, index in 57:32. -/
def slAddr (t i : Nat) : Addr := BitVec.ofNat 72 (t + i * 2 ^ 32)

/-- The tree exists, or SLPATH. -/
def State.treeOf (s : State) (t : Nat) (i : Nat := 0) : Act Tree :=
  match s.cv.tree t with
  | some x => .ok x
  | none => fault s cSLPATH (slAddr t i)

/-- The node exists, or SLPATH. -/
def Tree.nodeOf (x : Tree) (s : State) (t i : Nat) : Act Node :=
  match x.node? i with
  | some n => if i < x.cap then .ok n else fault s cSLPATH (slAddr t i)
  | none => fault s cSLPATH (slAddr t i)

/-- PATH from depth, tree and leaf (R300). -/
def pathOf (depth t leaf : Nat) : BitVec 42 := BitVec.ofNat 42 (depth % 128 + t * 2 ^ 8 + leaf * 2 ^ 16)

/-- Results for s[sd], s[sd+1], ..., EMPTY until they are delivered, with the PATH they bring. -/
def State.slResult (s : State) (sd : Nat) (vs : List Nat) (path : Option (BitVec 42)) (ord : Order := .weak)
    (keep : Bool := false) : State :=
  let dst := s.sdst sd vs.length
  let s := (List.range vs.length).foldl (fun s i => s.emptyS (sd + i)) s
  let s := s.launchOp (some kSL) (.svalue dst (vs.map fun v => { val := BitVec.ofNat 64 v })) ord 7
  { s with flight := match s.flight.getLast? with
    | some o => s.flight.dropLast ++ [{ o with path := path, keepDepth := keep }]
    | none => s.flight }

/-- The unit starts to walk the tree; s[sd] is EMPTY until the result is delivered. -/
def State.slWalk (s : State) (sd t : Nat) (w : Walk) (ord : Order := .weak) (knobs : List Word := []) : State :=
  let u := (s.emptyS sd).launchOp (some kSL) (.slalom t w (s.sdst sd 1)) ord 7
  { u with flight := match u.flight.getLast? with
    | some o => u.flight.dropLast ++ [{ o with knobs := knobs }]
    | none => u.flight }

/-- A walk of the unit over the device's tree is under way. -/
def State.walking (s : State) (d t : Nat) : Bool :=
  s.flight.any fun o => (s.gang o.gang).vd == d && match o.kind with | .slalom u _ _ => u == t | _ => false

/-- A unit that reads a poisoned node stops the gang, and nothing else changes (R312, R358). -/
def State.slPoison (s : State) : State := s.done.engineFault s.cw.gang s.cur.wave

/-- All ones: no node. -/
def slNone : Nat := 2 ^ 64 - 1

/-! ## SLDESC (R300, R301) -/

/-- An integer as f32, by RNE (R81). -/
def intF32 (n : Nat) : Word := Num.rneF32 (Num.ofInt n)

def fdiv (a b : Word) : Word := Num.rneF32 ((Num.vf a).div (Num.vf b))
def fsqrt (a : Word) : Word := Num.rneF32 (Num.vf a).sqrt

/-- ucb of a parent and a child snapshot (R301). -/
def Tree.ucb (t : Tree) (x y : Node) : Word :=
  let n := y.n.toNat + y.vl.toNat
  let q := if n = 0 then t.fpu else fdiv (fsub y.w (fmul (intF32 y.vl.toNat) t.vloss)) (intF32 n)
  let r := fsqrt (intF32 (x.n.toNat + x.vl.toNat))
  let p : Word := y.p ++ (0 : BitVec 16)
  fadd q (fdiv (fmul (fmul t.c p) r) (intF32 (1 + n)))

/-- The order of R79 with NaN below every number. -/
def slKey (w : Word) : Int := if Num.isNan Num.f32 w.toNat then -(2 ^ 40) else Num.ordKey Num.f32 w.toNat

/-- The first of the greatest. -/
def firstBest {α : Type} (better : α → α → Bool) : List α → Option α
  | [] => none
  | x :: r => some (r.foldl (fun b y => if better y b then y else b) x)

/-- What a walk comes to: it goes on, or it has its result, with the PATH it brings. -/
inductive Walked where
  | on (w : Walk)
  | done (v : Nat) (path : Option (BitVec 42))

/-- The snapshots of a node's children with their indexes, those not CUT (R300, R307). -/
def snaps (x : Node) (kids : List Node) : List (Nat × Node) :=
  ((List.range kids.length).map fun j => (x.first + j, kids.getD j {})).filter fun y => !y.2.cut

/-- A descent at x takes its child, once all have been read: the greatest U, the lowest index among equals (R301). -/
def Tree.choose (tr : Tree) (t x depth : Nat) (sx : Node) (kids : List Node) : Walked :=
  match firstBest (fun a b => slKey (tr.ucb sx b.2) < slKey (tr.ucb sx a.2)) (snaps sx kids) with
  | some (y, _) => .on (.desc y (depth + 1) none [])
  | none => .done (x + depth * 2 ^ 32 + 2 ^ 62) (some (pathOf depth t x))

/-- The tree with C, VLOSS and FPU as a descent has them. -/
def Tree.under (tr : Tree) : List Word → Tree
  | [c, v, f] => { tr with c := c, vloss := v, fpu := f }
  | _ => tr

/-- The step of a descent at node x (R300). -/
def Tree.enter (tr : Tree) (t x depth : Nat) : Tree × Walked :=
  let tr := tr.modNode x fun n => { n with vl := if n.vl = 0xFFFF then n.vl else n.vl + 1 }
  let sx := (tr.node? x).getD {}
  (tr, if sx.nch = 0 || depth = 64
    then .done (x + depth * 2 ^ 32 + (if depth = 64 ∧ sx.nch ≠ 0 then 2 ^ 63 else 0)) (some (pathOf depth t x))
    else .on (.desc x depth (some sx) []))

/-- SLDESC sd, sa. -/
def State.sldesc (s : State) (a d : Nat) : Act State := do
  [a, d].forM s.checkS
  let x ← s.readS a
  let t ← treeNo s x
  let tr ← s.treeOf t
  s.room kSL
  let s ← s.commit
  if !tr.rootv then .ok (s.slResult d [slNone] none .acq).done
  else .ok (s.slWalk d t (.desc tr.root 0 none []) .acq [tr.c, tr.vloss, tr.fpu]).done

def execSldesc (sa d : BitVec 6) (s : State) : Host.Outcome State Fault Refusal := finish s (s.sldesc sa.toNat d.toNat)

/-! ## SLBACK (R303, R304) -/

/-- The update of a backup with value v at node x (R303). -/
def Tree.backed (tr : Tree) (v : Word) (x : Nat) : Tree :=
  tr.modNode x fun n => { n with
    n := if n.n = 0xFFFFFFFF then n.n else n.n + 1
    w := fadd n.w v
    vl := if n.vl = 0 then 0 else n.vl - 1 }

/-- Where a backup at node x goes on (R303). A node that has been freed since ends it. -/
def Tree.back (tr : Tree) (t leaf : Nat) (v : Word) (x k : Nat) (cut : Bool) : Walked :=
  let ends (k : Nat) (cut : Bool) : Walked :=
    .done (k % 2 ^ 32 + (if cut then 2 ^ 63 else 0)) (some (pathOf (min (k - 1) 64) t leaf))
  match tr.node? x with
  | none => ends k cut
  | some n =>
    let c := cut || n.unlinked || n.cut
    if n.root || n.parent = x then ends (k + 1) c else .on (.back leaf v n.parent (k + 1) c)

/-- SLBACK sd, sa, sb. -/
def State.slback (s : State) (f : X3) : Act State := do
  let sb := f.sb.toNat
  [f.d.toNat, f.sa.toNat, sb, sb + 1].forM s.checkS
  let xs ← s.readSs [f.sa.toNat, sb, sb + 1]
  let t ← treeNo s (xs.getD 0 {})
  let leaf ← nodeNo s (xs.getD 1 {})
  let v := (xs.getD 2 {}).val
  need (v.toNat < 2 ^ 32) s cILL
  let tr ← s.treeOf t leaf
  let _ ← tr.nodeOf s t leaf
  s.room kSL
  let s ← s.commit
  .ok (s.slWalk f.d.toNat t (.back leaf (v.setWidth 32) leaf 0 false)).done

def execSlback (f : X3) (s : State) : Host.Outcome State Fault Refusal := finish s (s.slback f)

/-! ## SLEXP (R305, R306) -/

/-- Child j of a record of 16 bytes. -/
def childOf (parent : Nat) (rec : List Byte) : Node :=
  let x := natOf rec
  { token := BitVec.ofNat 32 (field x 0 32), p := BitVec.ofNat 16 (field x 32 16), user := BitVec.ofNat 64 (field x 64 64)
    parent := parent }

/-- SLEXP sd, sa, sb: a release. -/
def State.slexp (s : State) (f : X3) : Act State := do
  let sb := f.sb.toNat
  let rs := [f.sa.toNat, sb, sb + 1, sb + 2]
  (f.d.toNat :: rs).forM s.checkS
  let xs ← s.readSs rs
  let t ← treeNo s (xs.getD 0 {})
  let leaf ← nodeNo s (xs.getD 1 {})
  let n := (xs.getD 2 {}).val.toNat
  let a := (xs.getD 3 {}).val
  let tr ← s.treeOf t leaf
  let ln ← tr.nodeOf s t leaf
  need (1 ≤ n && n ≤ 2048) s cILL
  needAlign s a 0 8
  let ps ← s.localWords a.toNat (16 * n)
  waitFor s.settled
  s.room kSL
  let bs := ps.flatMap fun p => match p with | .direct l => s.raws l 4 | _ => []
  let res (s : State) (v : Nat) : State := s.slResult f.d.toNat [v] (some (pathOf 0 t leaf)) .weak true
  if s.nodeBad tr leaf || bs.any (·.2) then do
    let s ← s.commit
    .ok s.slPoison
  else if ln.unlinked || ln.cut then do
    let s ← s.commit
    .ok (res s 3).done
  else if ln.nch ≠ 0 then do
    let s ← s.commit
    .ok (res s 1).done
  else match tr.run n with
    | some i => do
      let s ← s.commit
      let kids := (List.range n).map fun j => (i + j, childOf leaf (((bs.map (·.1)).drop (16 * j)).take 16))
      let tr := { tr with nodes := tr.nodes ++ kids }.modNode leaf fun x => { x with first := i, nch := n }
      let s := ((s.setTree s.cg.vd t tr).cleanNodes tr i n).modCw fun w => { w with dry := false }
      .ok (res s (i * 2 ^ 32)).done
    | none =>
      if s.cw.dry then do
        let s ← s.commit
        .ok (res (s.modCw fun w => { w with dry := false }) 2).done
      else fault s cSLNODE (BitVec.ofNat 72 (t + n * 2 ^ 16 + leaf * 2 ^ 32))

def execSlexp (f : X3) (s : State) : Host.Outcome State Fault Refusal := finish s (s.slexp f)

/-! ## SLPICK, SLREAD (R307, R310) -/

/-- The child that SLPICK chooses among those it has read: the most visits, then the greatest value, then the lowest index. -/
def picked (x : Node) (kids : List Node) : Nat :=
  let better (a b : Nat × Node) : Bool := decide (b.2.n < a.2.n) || (a.2.n == b.2.n && decide (slKey b.2.w < slKey a.2.w))
  match firstBest better (snaps x kids) with
  | none => slNone
  | some (y, n) => y + n.token.toNat * 2 ^ 32

/-- SLPICK sd, sa, sb. -/
def State.slpick (s : State) (f : X3) : Act State := do
  [f.d.toNat, f.sa.toNat, f.sb.toNat].forM s.checkS
  let xs ← s.readSs [f.sa.toNat, f.sb.toNat]
  let t ← treeNo s (xs.getD 0 {})
  let i ← nodeNo s (xs.getD 1 {})
  let tr ← s.treeOf t i
  let x ← tr.nodeOf s t i
  s.room kSL
  if s.nodeBad tr i then .ok s.slPoison
  else .ok (s.slWalk f.d.toNat t (.pick x []) .acq).done

def execSlpick (f : X3) (s : State) : Host.Outcome State Fault Refusal := finish s (s.slpick f)

/-- Bytes 0-31 and USER of a node in five words (R297). -/
def Node.words (x : Node) : List Nat :=
  let b (c : Bool) (k : Nat) : Nat := if c then 2 ^ k else 0
  [x.n.toNat + x.w.toNat * 2 ^ 32, x.p.toNat + x.vl.toNat * 2 ^ 16 + x.first * 2 ^ 32, x.nch + x.token.toNat * 2 ^ 32
    , x.parent + 2 ^ 32 + b x.root 33 + b x.cut 34 + b x.unlinked 35, x.user.toNat]

/-- SLREAD sd, sa, sb. -/
def State.slread (s : State) (f : X3) : Act State := do
  let d := f.d.toNat
  need (1 ≤ d && d ≤ 59) s cILL
  (((List.range 5).map (d + ·)) ++ [f.sa.toNat, f.sb.toNat]).forM s.checkS
  let xs ← s.readSs [f.sa.toNat, f.sb.toNat]
  let t ← treeNo s (xs.getD 0 {})
  let i ← nodeNo s (xs.getD 1 {})
  let tr ← s.treeOf t i
  let x ← tr.nodeOf s t i
  s.room kSL
  if s.nodeBad tr i then .ok s.slPoison else .ok (s.slResult d x.words none .acq).done

def execSlread (f : X3) (s : State) : Host.Outcome State Fault Refusal := finish s (s.slread f)

/-! ## SLROOT, SLPRUNE (R308) -/

/-- UNLINKED is set on these nodes. -/
def Tree.unlink (t : Tree) (is : List Nat) : Tree :=
  { t with nodes := t.nodes.map fun p => if is.contains p.1 then (p.1, { p.2 with unlinked := true }) else p }

/-- What a cut does before its search: nothing but a status, or the tree as it leaves it and the nodes it frees. -/
inductive Cut where
  | status (t : Tree) (st : Nat)
  | search (t : Tree) (gone : List Nat)

/-- SLROOT on node x. -/
def Tree.reroot (t : Tree) (x : Nat) : Cut :=
  let old := t.root
  let on := (t.node? old).getD {}
  if !t.rootv || !((t.kids on).any fun p => p.1 == x) then .status t 4
  else
    let keep := t.subtree x
    let gone := (t.subtree old).filter fun i => !keep.contains i
    .search ({ (((t.unlink gone).modNode old fun n => { n with root := false }).modNode x fun n =>
      { n with root := true, parent := x }) with root := x }) gone

/-- SLPRUNE on node x. -/
def Tree.prune (t : Tree) (x : Nat) : Cut :=
  let n := (t.node? x).getD {}
  if n.unlinked then .status t 4
  else if t.rootv && t.root = x then
    let gone := t.subtree x
    .search { (t.unlink gone).modNode x fun n => { n with root := false } with rootv := false } gone
  else if n.nch = 0 then .status (t.modNode x fun n => { n with cut := true }) 0
  else
    let gone := (t.subtree x).filter (· != x)
    .search ((t.unlink gone).modNode x fun n => { n with cut := true, nch := 0, first := 0 }) gone

/-- The step and its search: FULL undoes every change. -/
def State.slcut (s : State) (d t : Nat) (c : Cut) : Nat × State :=
  match c with
  | .status tr st => (st, s.setTree d t tr)
  | .search tr gone =>
    match (s.setTree d t tr).request d (slName t) (.nodes t gone) with
    | (.freed, u) => (1, u)
    | (.deferred, u) => (2, u)
    | (.full, _) => (3, s)

/-- The nodes that a cut reads: x, the old root of an SLROOT, and those of its walk (R308). -/
def Tree.cutReads (t : Tree) (x : Nat) (root : Bool) (c : Cut) : List Nat :=
  x :: (if root && t.rootv then [t.root] else []) ++ match c with | .status .. => [] | .search _ gone => gone

/-- SLROOT and SLPRUNE: a release, one step for the whole tree. Instructions that walk it have done so first: DEDUCED, log 59. -/
def State.slcutOp (s : State) (f : X3) (root : Bool) : Act State := do
  [f.d.toNat, f.sa.toNat, f.sb.toNat].forM s.checkS
  let xs ← s.readSs [f.sa.toNat, f.sb.toNat]
  let t ← treeNo s (xs.getD 0 {})
  let i ← nodeNo s (xs.getD 1 {})
  let tr ← s.treeOf t i
  let _ ← tr.nodeOf s t i
  waitFor (s.settled && !s.walking s.cg.vd t)
  s.room kSL
  let s ← s.commit
  let c := if root then tr.reroot i else tr.prune i
  if (tr.cutReads i root c).any fun j => s.nodeBad tr j then .ok s.slPoison
  else
    let (st, s) := s.slcut s.cg.vd t c
    .ok (s.slResult f.d.toNat [st] none).done

def execSlroot (f : X3) (s : State) : Host.Outcome State Fault Refusal := finish s (s.slcutOp f true)
def execSlprune (f : X3) (s : State) : Host.Outcome State Fault Refusal := finish s (s.slcutOp f false)

/-! ## SLNEW, SLCFG (R309, R311) -/

/-- SLNEW sd, sa, sb: a release. -/
def State.slnew (s : State) (f : X3) : Act State := do
  [f.d.toNat, f.sa.toNat, f.sb.toNat].forM s.checkS
  let xs ← s.readSs [f.sa.toNat, f.sb.toNat]
  let t ← treeNo s (xs.getD 0 {})
  let tok := (xs.getD 1 {}).val
  need (tok.toNat < 2 ^ 32) s cILL
  let tr ← s.treeOf t
  waitFor s.settled
  s.room kSL
  let s ← s.commit
  match (if tr.rootv then none else tr.run 1) with
  | none => .ok (s.slResult f.d.toNat [slNone] none).done
  | some i =>
    let n : Node := { token := tok.setWidth 32, root := true, parent := i }
    let tr := { tr with nodes := tr.nodes ++ [(i, n)], root := i, rootv := true }
    .ok (((s.setTree s.cg.vd t tr).cleanNodes tr i 1).slResult f.d.toNat [i] none).done

def execSlnew (f : X3) (s : State) : Host.Outcome State Fault Refusal := finish s (s.slnew f)

/-- SLCFG sd, sa, sb. -/
def State.slcfg (s : State) (f : X3) : Act State := do
  let sb := f.sb.toNat
  [f.d.toNat, f.sa.toNat, sb].forM s.checkS
  let xs ← s.readSs [f.sa.toNat, sb]
  let sel := (xs.getD 1 {}).val.toNat
  let write := sel < 3 || sel == 5
  let v ← (if write then do
    s.checkS (sb + 1)
    s.readS (sb + 1)
    else .ok {})
  let t ← treeNo s (xs.getD 0 {})
  need (!write || v.val.toNat < (if sel = 5 then 2 else 2 ^ 32)) s cILL
  let tr ← s.treeOf t
  need (sel < 6) s cILL
  s.room kSL
  let s ← if write then s.commit else .ok s
  let d := f.d.toNat
  let set (x : Tree) (old : Word) : State := (s.setTree s.cg.vd t x).slResult d [old.toNat] none
  let w := v.val.setWidth 32
  .ok (match sel with
    | 0 => set { tr with c := w } tr.c
    | 1 => set { tr with vloss := w } tr.vloss
    | 2 => set { tr with fpu := w } tr.fpu
    | 3 => s.slResult d [tr.free] none
    | 4 => s.slResult d [if tr.rootv then tr.root else slNone] none
    | _ => (s.modCw fun x => { x with dry := v.val == 1 }).slResult d [if s.cw.dry then 1 else 0] none).done

def execSlcfg (f : X3) (s : State) : Host.Outcome State Fault Refusal := finish s (s.slcfg f)

/-! ## The walks -/

/-- A walk has come so far. -/
def State.walked (s : State) (o : Op) (t : Nat) (w : Walked) : State :=
  match w with
  | .on w => s.setOp { o with kind := .slalom t w o.dst }
  | .done v path => s.setOp { o with kind := .svalue o.dst [{ val := BitVec.ofNat 64 v }], path := path }

/-- Another walk of the device's tree is under way. -/
def State.walkedToo (s : State) (o : Op) (t : Nat) : Bool :=
  s.flight.any fun p => p.id != o.id && (s.gang p.gang).vd == (s.gang o.gang).vd &&
    match p.kind with | .slalom u _ _ => u == t | _ => false

/-- A backup at node x: the update, and the way to the parent. Nothing is ordered across nodes (R295): where another walk could
tell, the unit may go on and update the node later, which is free. -/
def State.backStep (s : State) (o : Op) (t : Nat) (tr : Tree) (leaf : Nat) (v : Word) (x k : Nat) (cut : Bool) : State :=
  let d := (s.gang o.gang).vd
  let next := tr.back t leaf v x k cut
  let put (s : State) (o : Op) : State := match next with
    | .done r p => if o.late.isEmpty then s.walked o t next else s.walked o t (.on (.rest v r p))
    | _ => s.walked o t next
  if !s.walkedToo o t then put (s.setTree d t (tr.backed v x)) o
  else
    let u := { s with free := s.free + 1 }
    if Config.freeBit s.free then put u { o with late := o.late ++ [x] } else put (u.setTree d t (tr.backed v x)) o

/-- The unit takes one node of a walk (R295): a snapshot, or an update and a snapshot. A node with an uncorrectable error
stops the gang (R312, R358). A tree that is gone gives no node. -/
def State.walk? (s : State) (o : Op) : Option State :=
  match o.kind with
  | .slalom t w _ =>
    let d := (s.gang o.gang).vd
    match (s.vd d).tree t with
    | none => some (s.walked o t (.done slNone none))
    | some tr =>
      let take (i : Nat) (r : State) : Option State :=
        some (if s.nodeBad tr i then (s.dropOp o.id).engineFault o.gang o.wave else r)
      let put (r : Tree × Walked) : State := (s.setTree d t r.1).walked o t r.2
      let kid (x : Node) (kids : List Node) : Node := (tr.node? (x.first + kids.length)).getD { cut := true }
      match w with
      | .desc x depth none _ => take x (put (tr.enter t x depth))
      | .desc x depth (some sx) kids =>
        let ks := kids ++ [kid sx kids]
        take (sx.first + kids.length) (s.walked o t
          (if ks.length < sx.nch then .on (.desc x depth (some sx) ks) else (tr.under o.knobs).choose t x depth sx ks))
      | .back leaf v x k cut => take x (s.backStep o t tr leaf v x k cut)
      | .rest v r p =>
        match o.late with
        | [] => some (s.walked o t (.done r p))
        | x :: l => take x ((s.setTree d t (tr.backed v x)).walked { o with late := l } t
            (if l.isEmpty then .done r p else .on (.rest v r p)))
      | .pick x kids =>
        if kids.length < x.nch then take (x.first + kids.length) (s.walked o t (.on (.pick x (kids ++ [kid x kids]))))
        else some (s.walked o t (.done (picked x kids) none))
  | _ => none

/-- A result comes to its register, or a walk to its next node. -/
def State.result? (s : State) (id : Nat) : Option State :=
  match s.op? id with
  | none => none
  | some o => match o.kind with
    | .slalom .. => s.walk? o
    | _ => s.deliver? id

/-- RESULT_DELIVERY (R93); of a result that a Slalom unit still walks for, the next node (R295). -/
def execResultDelivery (id : Nat) (s : State) : Host.Outcome State Fault Refusal := event s (s.creditOp id (s.result? id))

end Sys2Proof.Machine
end

