-- ==== Sys2Proof/Machine/Pins.lean ====
section
/-! DEFINITION. Pins and deferred reclaim (major 0x38; R314-R328). -/
namespace Sys2Proof.Machine

def State.pinOf (s : State) (n : Nat) : DWord := s.cwg.pins.getD n 0

/-- Write a pin register of the unit's workgroup; a name it stops holding is released (R315, R321). -/
def State.setPin (s : State) (n : Nat) (name : DWord) : State :=
  let old := s.pinOf n
  let t := s.modCg fun g => { g with wgs := g.wgs.modify s.cw.wg fun w => { w with pins := w.pins.set n name } }
  if old = name then t else t.release s.cg.vd old

/-- PIN pnN, sa (R324). -/
def execPin (a n : BitVec 6) (s : State) : Host.Outcome State Fault Refusal :=
  finishDone s do
    let x ← s.readS a.toNat
    let s ← s.commit
    .ok (s.setPin n.toNat x.val)

/-- UNPIN pnN (R325): a release. -/
def execUnpin (n : BitVec 6) (s : State) : Host.Outcome State Fault Refusal :=
  finishDone s do
    waitFor s.settled
    let s ← s.commit
    .ok (s.setPin n.toNat 0)

/-- A name that the rink or Slalom units reclaim (R314). -/
def unitName (n : DWord) : Bool := field n.toNat 56 8 == 1 || field n.toNat 56 8 == 2

/-- RECL sd, sa, act (R326): a release, and an acquire when it frees. -/
def State.recl (s : State) (f : YF) : Act State := do
  let a := f.a.toNat
  [f.d.toNat, a, a + 1].forM s.checkS
  let xs ← s.readSs [a, a + 1]
  let n := (xs.getD 0 {}).val
  let arg := (xs.getD 1 {}).val
  need (n != 0) s cILL
  need (!unitName n) s cPROT (n.setWidth 72)
  waitFor (s.settled && !(s.flight.any fun o => o.wave == s.cur.wave && o.isStore))
  let s ← s.commit
  let (r, t) := s.request s.cg.vd n (.table f.imm.toNat arg s.cg.launch s.cw.die)
  let v := match r with | .freed => 1 | .deferred => 2 | .full => 3
  .ok ((t.emptyS f.d.toNat).launchOp none (.svalue (t.sdst f.d.toNat 1) [{ val := BitVec.ofNat 64 v }])
    (if r = .freed then .acq else .weak) 7)

def execRecl (f : YF) (s : State) : Host.Outcome State Fault Refusal := finishDone s (s.recl f)

/-- PINRD sd, pnN (R327). -/
def execPinrd (n d : BitVec 6) (s : State) : Host.Outcome State Fault Refusal :=
  finishDone s do
    s.checkS d.toNat
    .ok (s.writeS d.toNat (s.pinOf n.toNat))

/-- GROOMER_SWEEP (R321): every bucket, unless the device is lodged. -/
def execGroomerSweep (vd : Nat) (s : State) : Host.Outcome State Fault Refusal :=
  event s (if (s.vd vd).grooms then some (s.recheck vd none) else none)

end Sys2Proof.Machine
end

