-- ==== Sys2Proof/Machine/Preempt.lean ====
section
/-! DEFINITION. Saved state (R41-R46, R225, R251, R317, R356-R367, R374, R402): rewind and resumption of waves, context
images, checkpoints and REPLAY, the supervisor's answers and the watchdogs. -/
namespace Sys2Proof.Machine

/-! ## Rewinding a wave -/

/-- An operation whose context generation has passed: its result is dropped, what it does to memory is not (R124). It stays
before whatever the wave's fragments issue from then on (R46, R190). A load or shuffle that pushes to a port comes from a
committing instruction, which is never repeated: its push is made (R43, R44); an SFU entry is discarded wherever it goes
(R124). -/
def Op.orphan (o : Op) : Option Op :=
  let o' := { o with owners := List.range 8, sfr := [] }
  match o.kind with
    | .sfu .. => none
    | .load .. | .value .. | .svalue .. | .rkacq .. | .rksnap .. => if o.toPort then some o' else none
    | .atomic _ _ [] .. => none
    | .slalom t w _ => some { o' with kind := .slalom t w .none }
    | .atomic a n accs _ got far => some { o' with kind := .atomic a n accs .none got far }
    | _ => some o'

/-- No producer is outstanding for the trap bank: its registers are FULL, with the values they hold. What its registers
awaited when a rewind or rollback discards it, the spec does not restore. DESIGN CHOICE, log 94. -/
def Wave.fillTrap (w : Wave) : Wave :=
  { w with y := w.y.map fun x => if x.st = .empty then { x with st := .full } else x
           w := w.w.map fun x => { x with empty := false } }

/-- The wave's context generation advances (R124); the PATH of a Slalom result outstanding is written (R313). -/
def State.newGen (s : State) (w : Nat) : State :=
  let mine (o : Op) : Bool := o.wave == w && o.gen == (s.wave w).gen
  let t := (s.flight.filter mine).foldl State.setPath s
  ({ t with flight := t.flight.filterMap fun (o : Op) => if mine o then o.orphan else some o }).modWave w fun x =>
    { x.fillTrap with gen := x.gen + 1 }

/-- A wave without an open commit is rewound: its fragments are discarded (R44), its lane-private lines dropped
(R157). -/
def State.rewind (s : State) (w : Nat) : State :=
  ((s.newGen w).modWave w fun x => { x with mode := .stopped true, frags := List.replicate 8 {} }).dropPrivate w

/-- The wave is saved as a FULL record: suspended, or held by a HALT (R366, R374). -/
def State.full (s : State) (w : Nat) : Bool :=
  let x := s.wave w
  match x.mode with
  | .suspended .. => true
  | .stopped _ | .ended => false
  | _ => match (s.gang x.gang).halted with
    | some h => h == w || x.commit || x.handling
    | none => false

/-- The wave has still to rewind or to reach an RWP. -/
def State.running (s : State) (w : Nat) : Bool :=
  match (s.wave w).mode with
  | .stopped _ | .ended => false
  | _ => !s.full w

/-- Waves of gangs under a pre-emption request that can be rewound now: no open commit, not in a handler (R44, R354). -/
def State.rewinds (s : State) : List Nat :=
  (List.range s.gangs.length).flatMap fun g =>
    if (s.gang g).preempt.isSome && (s.gang g).st == .resident then
      (s.gang g).waves.filter fun w => s.running w && !(s.wave w).handling && !(s.wave w).commit
    else []

def State.rewindAll (s : State) : State := s.rewinds.foldl State.rewind s

/-! ## Resuming a wave -/

/-- Write deposited lanes back (R251). -/
def depositBack (v : List VReg) (ds : List (Nat × Word × List Word)) : List VReg :=
  ds.foldl (fun v d => v.modify d.1 fun r => r.write d.2.1 fun l => d.2.2.getD l 0) v

/-- The wave as its snapshot resumes it (R45): one fragment at depth 0, listed registers restored, the others 0 and
FULL, deposits written back, recompute code first if the recipe names it. PATH, TRAPC, TRAPA, TRAPL and the trap bank, which
the snapshot does not hold (R41), keep what they held before: the spec does not say. DESIGN CHOICE, log 95. -/
def Wave.restart (w : Wave) : Wave :=
  let p := w.snap
  let sr := p.sregs.foldl (fun l x => l.set x.1 x.2) (List.replicate 64 (⟨0, 0, .full⟩ : SReg))
  let vr := p.regs.foldl (fun l x => l.set x.1 x.2) (List.replicate 56 ({} : VReg))
  let f : Frag := { live := true, pc := if p.rcpc = 0 then p.next else p.rcpc, lanes := p.lanes, exm := p.exm, s := sr
                    epc := p.next }
  { w with
    frags := f :: List.replicate 7 {}, v := depositBack vr w.deps, k := p.preds, rngk := p.rngk, rngc := p.rngc
    stat := p.stat, obsd := p.obsd, piste := p.piste, dry := p.dry, commit := false
    mode := if p.rcpc = 0 then .run else .recompute }

/-- The wave's saved state holds an extended block, or none: it keeps the one it has, waits for one (R45 step 2), or
gives its own back. -/
def State.blockFor (s : State) (w : Nat) (held : Bool) : State :=
  let n := s.seq
  if !held then s.modWave w fun x => { x with xbh := 0, blk := none }
  else if (s.wave w).held then s
  else { s with seq := n + 1 }.modWave w fun x => { x with xbh := 16, blk := some n }

/-- Resume from the snapshot. -/
def State.restart (s : State) (w : Nat) : State :=
  ((s.blockFor w (s.wave w).snap.held).modWave w Wave.restart).dropPrivate w

/-! ## SLICE_END and CONTEXT_IMAGE_WRITE -/

/-- A pre-emption request reaches every gang of the device that is resident (R365). -/
def State.preemptVd (s : State) (d : Nat) : State :=
  ((List.range s.gangs.length).filter fun i =>
    let g := s.gang i
    g.vd == d && g.placed && g.preempt.isNone && !g.ovf).foldl (fun s i => s.askPreempt i) s

/-- The slice of the device ends, for another device of its partition that wants one (R402). -/
def State.sliceEnd? (s : State) (d : Nat) : Option State :=
  let v := s.vd d
  match s.slices.find? fun x => x.1 == v.part with
  | some (_, h, t) =>
    if h == d && decide (t + (v.slice - v.short) ≤ s.time) && !s.ending d && !(s.gangs.any fun g => g.vd == d && g.ovf)
        && (s.roundRobin v.part (some d)).any fun e => e != d && s.wants e
    then
      let s := (s.preemptVd d).modVd d fun v => { v with short := 0 }
      some (if s.hasPlaced d then s else s.giveSlice v.part)
    else none
  | none => none

def execSliceEnd (vd : Nat) (s : State) : Host.Outcome State Fault Refusal := event s (s.sliceEnd? vd)

def Op.isRkacq (o : Op) : Bool := match o.kind with | .rkacq .. => true | _ => false

/-- An RKACQ of a wave that has stopped at an RWP, or an access, maintenance, an RKSNAP or an engine's command that waits behind one: it may
wait for a rink that no wave of the device publishes on while its gangs are pre-empted. -/
def State.heldOff (s : State) (o : Op) : Bool :=
  let waits := o.isAccess || o.isMaint || o.kind.isEngine || match o.kind with | .rkacq .. | .rksnap .. => true | _ => false
  s.flight.any fun p => p.isRkacq && (s.wave p.wave).mode == .stopped false
    && (p.id == o.id || (waits && p.precedes o && p.holds o))

/-- The gang's image waits for the operation: its counters are drained, its results are in the saved registers and deposits
to it are delivered before anything is saved (R251, R313, R329, R365). An RKACQ of a rewound wave is withdrawn (R284), one of
a FULL wave is waited for, and one of a wave stopped at an RWP is withdrawn once nothing else is outstanding. Only a result
for a port that has no room stays on its way: its bank is saved full. DEDUCED, log 80. -/
def State.drains (s : State) (g : Nat) (o : Op) : Bool := o.gang == g && s.portRoom o && !s.heldOff o

/-- Every wave has rewound, stopped or is FULL; the gang's operations are done (R365). -/
def State.imageReady (s : State) (g : Nat) : Bool :=
  let gg := s.gang g
  gg.st == .resident && gg.preempt.isSome && gg.waves.all (fun w => !s.running w) && !s.banksRead g
    && !(s.flight.any (s.drains g))

/-- The gang's waves stopped at an RWP that have an RKACQ outstanding are to go on from their snapshots: the RKACQs end with
their context generation (R124, R284), so that what waited behind them is performed before the image is written. -/
def State.withdraw (s : State) (g : Nat) : State :=
  ((s.gang g).waves.filter fun w => s.flight.any fun o => o.wave == w && s.heldOff o).foldl
    (fun s w => (s.newGen w).modWave w fun x => { x with mode := .stopped true }) s

/-- The tiles that the image holds (R225). -/
def State.tileKept (s : State) (g i part t : Nat) : Bool :=
  ((s.gang g).wgs.getD i {}).waves.any fun w =>
    let x := s.wave w
    x.part == part && x.mode != .ended && (s.full w || x.snap.tiles.getLsbD t)

/-- The gang's pins, as entries of the overflow store. -/
def Gang.ovfEntries (gg : Gang) (g : Nat) : List OvfEnt :=
  (List.range gg.wgs.length).flatMap fun i => (List.range 8).filterMap fun r =>
    let n := ((gg.wgs.getD i {}).pins).getD r 0
    if n = 0 then none else some ⟨n, g, i, r⟩

/-- A gang whose pins do not fit is not pre-empted: rewound waves go on in place, and the supervisor is told (R317). -/
def State.pinOvf (s : State) (g : Nat) : State :=
  let gg := s.gang g
  let s := gg.waves.foldl (fun s w => match (s.wave w).mode with
    | .stopped true => s.restart w
    | .stopped false => s.modWave w fun x => { x with mode := .run }
    | _ => s) s
  (s.modGang g fun x => { x with preempt := none, ovf := true }).report g (gg.waves.headD 0) cPINOVF 0

/-- The context image is written and the placement released (R365 step 3). What is still on its way to a port no longer counts
in a counter (R329). -/
def State.saveImage (s0 : State) (g : Nat) : State :=
  let s := { s0.shorten g with flight := s0.flight.map fun (o : Op) => if o.gang == g then { o with cls := none } else o }
  let gg := s.gang g
  let tiles := s.saveTiles g fun i part t => s.tileKept g i part t
  let s := gg.waves.foldl (fun s w =>
    let held := (s.wave w).held
    let s := if s.full w then s.modWave w fun x => { x with blk := if held then some 0 else none } else s
    (s.modWave w fun x => { x with xbh := 0 }).dropPrivate w) s
  let s := (s.freePlace g).modGang g fun x => { x with
    st := .imaged, preempt := none, saved := tiles, ckptDue := false
    wgs := x.wgs.map fun w => { w with pins := List.replicate 8 0 } }
  s.modVd gg.vd fun v => { v with ovf := v.ovf ++ gg.ovfEntries g }

def State.imageWrite? (s : State) (g : Nat) : Option State :=
  let gg := s.gang g
  if !s.imageReady g then none
  else if (s.vd gg.vd).ovfCap < (s.vd gg.vd).ovf.length + (gg.ovfEntries g).length then some (s.pinOvf g)
  else if s.flight.any fun o => o.gang == g && s.heldOff o then some (s.withdraw g)
  else
    let s := s.saveImage g
    some (if s.hasPlaced gg.vd then s else s.giveSlice (s.vd gg.vd).part)

def execContextImageWrite (gang : Nat) (s : State) : Host.Outcome State Fault Refusal := event s (s.imageWrite? gang)

/-! ## GANG_RESUME -/

/-- What the resumed gang asks for: the same position in the matrix pair and the same first partitions (R209). -/
def Gang.wants (g : Gang) : List Want :=
  g.wgs.map fun w => { waves := w.waves.length, tiles := w.tiles, old := some (w.core, w.first) }

/-- The gang's waves, workgroups and banks at their new places. -/
def State.putGang (s : State) (g : Nat) (f : GangFit) : State :=
  let gg := s.gang g
  let s := s.takeBanks f.die f.cluster f.banks
  let wins := s.freeWins gg.vd gg.waves.length
  let s := (List.range gg.wgs.length).foldl (fun s i =>
    let w := gg.wgs.getD i {}
    let p := f.wgs.getD i default
    (List.range w.waves.length).foldl (fun s k =>
      let q := p.places.getD k (0, 0)
      s.modWave (w.waves.getD k 0) fun x => { x with
        win := wins.getD (gg.waves.findIdx (· == w.waves.getD k 0)) 0
        part := q.1, slot := q.2, core := p.core, cluster := f.cluster, die := f.die, wgslot := p.slot }) s) s
  s.modGang g fun x => { x with
    die := f.die, cluster := f.cluster, core0 := (f.wgs.headD default).core, st := .resident
    wgs := x.wgs.mapIdx fun i w =>
      let p := f.wgs.getD i default
      { w with core := p.core, slot := p.slot, first := p.first, tileBase := p.base }
    banks := x.banks.mapIdx fun i b => { b with phys := f.banks.getD i 0 } }

/-- Pins go back to the same register numbers (R317). -/
def State.pinsBack (s : State) (g : Nat) : State :=
  let mine := (s.vd (s.gang g).vd).ovf.filter fun e => e.gang == g
  let s := s.modGang g fun x => { x with wgs := x.wgs.mapIdx fun i w =>
    { w with pins := mine.foldl (fun l e => if e.wg = i then l.set e.reg e.name else l) w.pins } }
  s.ovfFree g false

/-- Waves go on from their snapshots; a FULL wave is as it was, with its block to acquire again (R45, R366). -/
def State.wakeWaves (s : State) (g : Nat) : State :=
  (s.gang g).waves.foldl (fun s w => match (s.wave w).mode with
    | .stopped _ => s.restart w
    | .ended => s
    | _ => s.blockFor w (s.wave w).blk.isSome) s

/-- A pre-empted gang of the slice holder is placed again (R45), unless a starved gang stops it (R259). -/
def State.gangResume? (s0 : State) (g : Nat) : Option State :=
  let gg := s0.gang g
  let part := (s0.vd gg.vd).part
  let s := s0.sliced part
  if gg.st != .imaged || s.holder part != some gg.vd || !(s.vd gg.vd).runs || s.ending gg.vd
      || (List.range s.launches.length).any (s.stops part (s.prioOf gg.launch)) then none
  else (s.fitGang (s.diesOf part) gg.wants gg.banks.length).map fun f =>
    let s := ((s.putGang g f).freePlace g).pinsBack g
    ((s.loadTiles g gg.saved).wakeWaves g).checkpoint g true

def execGangResume (gang : Nat) (s : State) : Host.Outcome State Fault Refusal := event s (s.gangResume? gang)

/-! ## REPLAY (R358-R361) -/

/-- A register restored from a checkpoint is FULL, with its poison mask or POISON (R93). -/
def SReg.restored (x : SReg) : SReg := if x.st = .empty then { x with st := .full } else x
def VReg.restored (x : VReg) : VReg := { x with empty := false }

/-- A wave goes back to the checkpoint. What a barrier checkpoint does not hold stays: arrival counters, the trap bank, port
bindings, barrier arrivals. A placement or resumption is repeated (`resume`): a FULL wave is as the image holds it, trap bank
included, and the lane-private lines are dropped (R157, R359, R366). -/
def State.rollWave (s0 : State) (w : Nat) (c : Wave) (deps : List (Nat × Word × List Word)) (resume : Bool) : State :=
  let s := (s0.newGen w).blockFor w c.held
  let t := s.modWave w fun x => { c with
    gen := x.gen, ac := x.ac, ports := x.ports, arrs := x.arrs, fragArr := x.fragArr
    y := if resume then c.y else x.y, w := if resume then c.w else x.w
    hpc := if resume || c.handling then c.hpc else x.hpc
    frags := c.frags.map fun f => { f with s := f.s.map SReg.restored }
    xbh := x.xbh, blk := x.blk, v := depositBack (c.v.map VReg.restored) deps, deps := c.deps ++ deps
    seenTime := x.seenTime, dmtStop := x.dmtStop, brk := x.brk, inject := x.inject, told := x.told }
  if resume then (t.modWave w Wave.fillTrap).dropPrivate w else t

/-- SCRATCH banks read 0 where a placement or resumption is repeated (R156). -/
def State.zeroScratch (s : State) (g : Nat) : State :=
  let gg := s.gang g
  gg.banks.foldl (fun s b => if b.mode == .scratch
    then s.zero ⟨.sram, ((gg.die * 20 + gg.cluster) * 32 + b.phys) * 2 ^ 17⟩ (2 ^ 17) else s) s

/-- The replay watchdog kills the gang, after its report (R361, R367). -/
def State.replayKill (s : State) (g : Nat) : State := (s.report g ((s.gang g).waves.headD 0) cENGINE 0).killGang g cENGINE 0 0

/-- The gang goes back to its checkpoint, or is killed: after a committing instruction, and at the eighth replay from one
checkpoint (R360, R361, R367). A placement or resumption is repeated, its banks zeroed, once no matrix operation of another
gang reads them (R213). -/
def State.replay? (s : State) (g : Nat) : Option State :=
  let gg := s.gang g
  if gg.st != .engine || (gg.ckpt.resume && s.banksRead g) then none
  else if gg.committed then some (s.killGang g cENGINE 0 0)
  else if 7 ≤ gg.replays then some (s.replayKill g)
  else
    let s := (List.range gg.waves.length).foldl (fun s i =>
      let w := gg.waves.getD i 0
      s.rollWave w (gg.ckpt.waves.getD i {}) ((gg.ckDeps.filter fun d => d.1 == w).map (·.2)) gg.ckpt.resume) s
    let s := if gg.ckpt.resume then s.zeroScratch g else s
    some ((s.loadTiles g gg.ckpt.tiles).modGang g fun x => { x with
      st := .resident, replays := x.replays + 1, halted := if gg.ckpt.resume then gg.ckpt.halted else x.halted })

def execReplay (gang : Nat) (s : State) : Host.Outcome State Fault Refusal := event s (s.replay? gang)

/-! ## Watchdogs (R356, R361, R367) -/

/-- dmt holds a wave of the gang stopped: its watchdogs do not run (R425). -/
def State.dmtHolds (s : State) (g : Nat) : Bool := (s.gang g).waves.any fun w => (s.wave w).dmtStop == some 0

/-- Some wave still runs forward this long after the request. -/
def State.overruns (s : State) (g ticks : Nat) : Bool :=
  (s.gang g).st == .resident && (s.gang g).waves.any s.running && !s.dmtHolds g &&
    match (s.gang g).preempt with | some t => decide (t + ticks ≤ s.time) | none => false

/-- The overrun watchdog at 100 µs, once: a report, and the device's next slice will be shorter. -/
def State.overrun? (s : State) (g : Nat) : Option State :=
  if s.overruns g 100000 && !(s.gang g).warned
  then some ((s.modGang g fun x => { x with warned := true }).report g ((s.gang g).waves.headD 0) 0 0) else none

/-- The overrun watchdog at 2 ms: a report and a kill. -/
def State.overrunKill? (s : State) (g : Nat) : Option State :=
  if s.overruns g 2000000 then some ((s.report g ((s.gang g).waves.headD 0) 0 0).killGang g 0 0 0) else none

/-- OVERRUN_WATCHDOG: at 100 µs, once. -/
def execOverrunWatchdog (gang : Nat) (s : State) : Host.Outcome State Fault Refusal := event s (s.overrun? gang)

/-- OVERRUN_KILL: at 2 ms. -/
def execOverrunKill (gang : Nat) (s : State) : Host.Outcome State Fault Refusal := event s (s.overrunKill? gang)

/-- The EPC of the fragment whose fault suspended the wave. -/
def Wave.suspEpc (w : Wave) : Option DWord :=
  match w.mode with | .suspended f _ => some (w.frags.getD f {}).epc | _ => none

/-- Kill the gang of a suspended wave with the fault that suspended it (R357). -/
def State.killSuspended (s : State) (w : Nat) : Option State :=
  let x := s.wave w
  x.suspEpc.map fun e => s.killGang x.gang (x.trapc.setWidth 8) x.trapa e

/-- SUSPENSION_WATCHDOG: no answer within 10 ms. -/
def State.suspDog? (s : State) (w : Nat) : Option State :=
  match (s.wave w).mode with
  | .suspended _ t =>
    if t + 10000000 ≤ s.time && !s.dmtHolds (s.wave w).gang
    then (s.report (s.wave w).gang w ((s.wave w).trapc.setWidth 8) (s.wave w).trapa).killSuspended w else none
  | _ => none

def execSuspensionWatchdog (w : Nat) (s : State) : Host.Outcome State Fault Refusal := event s (s.suspDog? w)

/-- REPLAY_WATCHDOG: the eighth replay from one checkpoint kills the gang. -/
def execReplayWatchdog (gang : Nat) (s : State) : Host.Outcome State Fault Refusal :=
  event s (if 8 ≤ (s.gang gang).replays && (s.gang gang).placed then some (s.replayKill gang) else none)

/-! ## The supervisor's and Umarek's answers (R356, R358, R374) -/

/-- POISON or FULL as the supervisor writes it; an EMPTY register stays EMPTY (R93). -/
def SReg.setPoison (x : SReg) (p : Bool) : SReg := { x with st := if x.st = .empty then .empty else if p then .poison else .full }

/-- What the supervisor reads of a wave: the whole of it, while it is suspended (R356). -/
def State.supervisorRead (s : State) (w : Nat) : Option Wave :=
  match (s.wave w).mode with
  | .suspended .. => some (s.wave w)
  | _ => none

/-- A write of the supervisor into the state of a suspended wave (R356): register 0, k0 and bit 0 of an address stay 0
or all ones, an EMPTY register stays EMPTY, as its producer is to fill it, and the active mask stays within the fragment's
lane set. -/
def Wave.edit (w : Wave) : WaveEdit → Wave
  | .scalar f r tag v => if r = 0 then w else w.modFrag f fun g => { g with s := g.s.modify r fun x => x.write v tag }
  | .vec r l v => { w with v := w.v.modify r fun x => x.write (1#32 <<< l) fun _ => v }
  | .pred k v => if k = 0 then w else { w with k := w.k.set k v }
  | .trapScalar r tag v => if r = 0 then w else { w with y := w.y.modify r fun x => x.write v tag }
  | .trapVec r l v => { w with w := w.w.modify r fun x => x.write (1#32 <<< l) fun _ => v }
  | .pc f v => w.modFrag f fun g => { g with pc := v &&& ~~~ 1 }
  | .epc f v => w.modFrag f fun g => { g with epc := v &&& ~~~ 1 }
  | .exm f v => w.modFrag f fun g => { g with exm := v &&& g.lanes }
  | .obsd v => if obsdOk v then { w with obsd := v } else w
  | .rngk v => { w with rngk := v }
  | .rngc v => { w with rngc := v }
  | .stat v => { w with stat := v }
  | .path v => { w with path := v }
  | .piste v => if [1, 2, 4, 8, 16, 32].contains v.toNat then { w with piste := v } else w
  | .lanes f v => w.modFrag f fun g => { g with lanes := v, exm := g.exm &&& v }
  | .joins f js => w.modFrag f fun g => { g with
      depth := js.length, joins := js.mapIdx fun i j => ⟨js.length - i, j.1, j.2⟩ }
  | .scalarState f r poison => if r = 0 then w else w.modFrag f fun g => { g with s := g.s.modify r fun x => x.setPoison poison }
  | .vecState r poison => { w with v := w.v.modify r fun x => { x with poison := poison } }
  | .trapScalarState r poison => if r = 0 then w else { w with y := w.y.modify r fun x => x.setPoison poison }
  | .trapVecState r poison => { w with w := w.w.modify r fun x => { x with poison := poison } }
  | .trapc v => { w with trapc := v }
  | .trapa v => { w with trapa := v }
  | .trapl v => { w with trapl := v }
  | .ac n v => { w with ac := w.ac.set n v }
  | .dry v => { w with dry := v }
  | .snap _ | .block _ | .port .. => w

/-- A register in the rewind buffer, which then holds it. -/
def putListed {α : Type} [Inhabited α] (l : List (Nat × α)) (r : Nat) (f : α → α) : List (Nat × α) :=
  if l.any fun x => x.1 == r then l.map fun x => if x.1 == r then (r, f x.2) else x else l ++ [(r, f default)]

/-- A write of the supervisor into the rewind buffer (R41, R356). -/
def Snap.edit (p : Snap) : SnapEdit → Snap
  | .vec r l v => if 56 ≤ r then p else { p with regs := putListed p.regs r fun x => x.write (1#32 <<< l) fun _ => v }
  | .vecState r m => if 56 ≤ r then p else { p with regs := putListed p.regs r fun x => { x with poison := m } }
  | .scalar r tag v => if r = 0 ∨ 64 ≤ r then p else { p with sregs := putListed p.sregs r fun x => x.write v tag }
  | .scalarState r b => if r = 0 ∨ 64 ≤ r then p else { p with sregs := putListed p.sregs r fun x => x.setPoison b }
  | .masks l e => { p with lanes := l, exm := e &&& l }
  | .pred k v => if k = 0 then p else { p with preds := p.preds.set k v }
  | .rng k c => { p with rngk := k, rngc := c }
  | .stat v => { p with stat := v }
  | .obsd v => if obsdOk v then { p with obsd := v } else p
  | .piste v => if [1, 2, 4, 8, 16, 32].contains v.toNat then { p with piste := v } else p
  | .held v => { p with held := v }
  | .dry v => { p with dry := v }
  | .tiles v => { p with tiles := v }
  | .rcpc v => { p with rcpc := v &&& ~~~ 1 }
  | .pcs a b => { p with pc := a &&& ~~~ 1, next := b &&& ~~~ 1 }

/-- A write of the supervisor that reaches beyond the wave: a block it holds or gives back, of which it takes one again where
one is free (R30, R45), and a port bound to a FIFO bank of the gang, or unbound (R233). -/
def State.editWave (s : State) (w : Nat) (e : WaveEdit) : State :=
  match e with
  | .block held => s.blockFor w held
  | .port q none => s.bindPort w q none
  | .port q (some (b, r)) =>
    let g := s.gang (s.wave w).gang
    if b < g.banks.length && (g.banks.getD b {}).mode == .fifo then s.bindPort w q (some ⟨b, r⟩) else s
  | .snap x => s.modWave w fun y => { y with snap := y.snap.edit x }
  | e => s.modWave w fun x => x.edit e

/-- SUPERVISOR_RESUME acts as RETT, after what the supervisor wrote into the wave's state. -/
def execSupervisorResume (w : Nat) (edits : List WaveEdit) (s : State) : Host.Outcome State Fault Refusal :=
  event s (match (s.wave w).mode with
    | .suspended f _ => some ((edits.foldl (fun t e => t.editWave w e) s).modWave w fun x => x.resume f)
    | _ => none)

/-- SUPERVISOR_KILL: the KILL answer to the suspension of a wave, which its entry names, or, naming no wave, to an engine
fault or a HALT (R357). -/
def State.answerKill? (s : State) (g : Nat) (w : Option Nat) : Option State :=
  let gg := s.gang g
  if gg.st == .retired then none
  else match w with
    | some w => if gg.waves.contains w then s.killSuspended w else none
    | none =>
      if gg.st == .engine then some (s.killGang g cENGINE 0 0)
      else if gg.halted.isSome then some (s.killGang g 0 0 0) else none

def execSupervisorKill (k : KillAnswer) (s : State) : Host.Outcome State Fault Refusal :=
  event s (s.answerKill? k.gang k.wave)

/-- CONTINUE: the halting wave goes on after the HALT, every other wave where it stopped (R374). -/
def execContinueHalt (gang : Nat) (s : State) : Host.Outcome State Fault Refusal :=
  event s (if (s.gang gang).halted.isSome then some (s.modGang gang fun g => { g with halted := none }) else none)

end Sys2Proof.Machine
end

