-- ==== Sys2Proof/Machine/Links.lean ====
section
/-! DEFINITION. Links (R376-R393): the host's requests for device lines and its snoops, the fabric ports with their flits,
replay and rates, peer links, and inbound peer accesses. -/
namespace Sys2Proof.Machine

/-! ## The host's requests at the directory (R379, R382) -/

/-- Leases on the line of a half have passed (R181). -/
def State.halfFree (s : State) (l : Loc) : Bool := s.leasesPast engineCore l.line && !s.busy l

/-- What a read of a half from outside returns (R378, R379, R382): 64 bytes. -/
def State.halfBytes (s : State) (l : Loc) : List Nat := (s.homeBytes l 64).map fun b => b.1.toNat

/-- A host request is served at the home, of a half whose chunk has moved at the new one (R403). The bytes of a shared read, and those of an ownership request, go back to the
host. -/
def State.hostServe (s : State) (h0 : Nat) (r : HostReq) : State :=
  let l := s.fwd (halfLoc h0)
  let h := halfOf l.a
  match r with
  | .sharedRead =>
    if s.dirOf h == some .m then s
    else { ((s.llcFill l).setDir h (some .s)).exchange .memRdS (halfLoc h) (s.dirOf h) (some .s) with reply := [s.halfBytes l] }
  | .ownership data =>
    let bs := (List.range 64).map fun i => (data.getD i 0, false)
    { ((s.putRaws ⟨.hostCopy, h * 64⟩ bs).setDir h (some .m)).exchange .memRdA (halfLoc h) (s.dirOf h) (some .m) with
      reply := [s.halfBytes l] }
  | .memWr data mask after =>
    let put (s : State) (l : Loc) : State := (List.range 64).foldl (fun s i =>
      if mask.getLsbD i then s.putRaw (l.plus i) (data.getD i 0) else s) s
    let s := s.llcFill l
    let s := (put s ⟨.llc, l.tagged⟩).llcDirty l 64
    let s := if after == some .m then put s ⟨.hostCopy, h * 64⟩ else s.zero ⟨.hostCopy, h * 64⟩ 64
    ((s.setHome { s.home (halfLoc h0).line with lastStore := some s.time }).setDir h after).exchange
      .memWr (halfLoc h) (s.dirOf h) after data

/-- A request that need not wait for leases, or no longer has to; none is served while its chunk is BUSY (R403). -/
def State.hostReady (s : State) (h : Nat) (r : HostReq) : Bool :=
  (r == .sharedRead && !s.busy (halfLoc h)) || s.halfFree (halfLoc h)

/-- The request reaches the home: it is served, or waits until the leases on the line have passed. -/
def State.hostTake (s : State) (h : Nat) (r : HostReq) : State :=
  if s.hostReady h r then s.hostServe h r else { s with hostReqs := s.hostReqs ++ [(h, r)] }

/-- The bridge by which transit traffic of an I-die reaches C-die `die`: along the die's row from the C-die of that row
that is bridged to the I-die, as R401's example of a middle column has it. Bridges as the firewall registers number
them (R12, R400). -/
def arrivalBridge (idie die : Nat) : Nat :=
  let row := die / 4
  let col := die % 4
  if idie = 0 then (if col = 0 then 10 + row else row * 3 + col - 1)
  else (if col = 3 then 12 + row else row * 3 + col)

/-- A transit flit is dropped at its die and counted, saturating (R400, R401). -/
def State.transitDrop (s : State) (idie die : Nat) : State :=
  { s with firewall := s.firewall.modify (arrivalBridge idie die) fun f =>
      { f with tdrops := if f.tdrops = 255 then 255 else f.tdrops + 1 } }

/-- A module of the I-die works: 0 and 1 are on I-die 0, 2 and 3 on I-die 1 (R376, R377). -/
def State.linkOn (s : State) (idie : Nat) : Bool := idie < 2 && (s.modules.getLsbD (2 * idie) || s.modules.getLsbD (2 * idie + 1))

/-- A host request arrives over a module of an I-die, which must work (R377). It is delivered only when its device is bound
to the partition that owns the line (R400, R401). -/
def State.hostAt? (s : State) (vd idie h : Nat) (f : State → State) : Option State :=
  if !s.linkOn idie || !hbmOk (h * 64) 64 then none
  else if (s.vd vd).live && s.inPart vd (h * 64) then some (f s)
  else some (s.transitDrop idie (h * 64 / 2 ^ 38 % 8))

def State.hostReq? (s : State) (vd idie h : Nat) (r : HostReq) : Option State := s.hostAt? vd idie h fun s => s.hostTake h r

/-- HOST_SHARED_READ (R379). -/
def execHostSharedRead (vd idie half : Nat) (s : State) : Host.Outcome State Fault Refusal :=
  event s (s.hostReq? vd idie half .sharedRead)

/-- HOST_OWNERSHIP_REQUEST (R379): `data` is what the host then holds in the half, which it may modify silently. -/
def execHostOwnershipRequest (vd idie half : Nat) (data : List Byte) (s : State) : Host.Outcome State Fault Refusal :=
  event s (s.hostReq? vd idie half (.ownership data))

/-- HOST_WRITEBACK (R379). -/
def execHostWriteback (vd idie half : Nat) (data : List Byte) (mask : DWord) (after : Option HalfSt) (s : State) :
    Host.Outcome State Fault Refusal :=
  event s (s.hostReq? vd idie half (.memWr data mask after))

/-- A host snoop of a tag 0xF0 half is answered with the bridge's data: an M half goes back to the host; an invalidating snoop
takes the half away (R381, R383). -/
def State.hostSnooped (s : State) (h : Nat) (inv : Bool) : State :=
  let old := s.bridgeOf h
  let bs := (s.raws ⟨.bridge, h * 64⟩ 64).map fun b => b.1.toNat
  let s := if s.bridgeOf h == some .m then s.putRaws ⟨.host, h * 64⟩ (s.raws ⟨.bridge, h * 64⟩ 64) else s
  let s := if inv then (s.zero ⟨.bridge, h * 64⟩ 64).setBridge h none
    else if (s.bridgeOf h).isSome then s.setBridge h (some .s) else s
  let s := if old.isSome then { s with reply := [bs] } else s
  s.exchange .hostSnoop ⟨.host, h * 64⟩ old (s.bridgeOf h) (if old == some .m then bs.map fun b => BitVec.ofNat 8 b else [])

/-- Host requests and snoops whose leases have passed are served, oldest first. -/
def State.hostTurn (s : State) : State :=
  let s := (s.hostReqs.filter fun r => s.hostReady r.1 r.2).foldl (fun (s : State) r =>
    { s.hostServe r.1 r.2 with hostReqs := s.hostReqs.erase r }) s
  (s.snoops.filter fun r => s.halfFree ⟨.host, r.1 * 64⟩).foldl (fun (s : State) r =>
    { s.hostSnooped r.1 r.2 with snoops := s.snoops.erase r }) s

/-- A back-invalidation of a half: modified data is merged; I after one that invalidates, S after one for data (R379). -/
def State.backInv (s : State) (h0 : Nat) (inv : Bool) : State :=
  let h := halfOf (s.fwd (halfLoc h0)).a
  match s.dirOf h with
  | none => s
  | some x =>
    let data := if x == .m then s.hostHalf h else []
    let s := if x == .m then s.mergeHalf h else s
    if inv then (s.setDir h none).exchange .snpInv (halfLoc h) (some x) none data
    else if x == .m then (s.setDir h (some .s)).exchange .snpData (halfLoc h) (some .m) (some .s) data else s

/-- BISNP_RETRY (R382): a back-invalidation met the host's request for the half; the request is served first, then the
back-invalidation is done. It waits with the request until the leases have passed. -/
def execBisnpRetry (half : HostHalf) (req : HostReq) (inv : Bool) (s : State) : Host.Outcome State Fault Refusal :=
  event s (s.hostAt? half.vd half.idie half.half fun s =>
    if s.hostReady half.half req then (s.hostServe half.half req).backInv half.half inv else s.hostTake half.half req)

/-- HOST_SNOOP (R381): answered after the leases on the line have passed. -/
def execHostSnoop (half : Nat) (inv : Bool) (s : State) : Host.Outcome State Fault Refusal :=
  event s (if s.modules = 0 then none
    else if s.halfFree ⟨.host, half * 64⟩ then some (s.hostSnooped half inv)
    else some { s with snoops := s.snoops ++ [(half, inv)] })

/-! ## Modules of the host link (R377, R398) -/

/-- UCIE_MODULE_FAIL: the link goes on with the others. -/
def execUcieModuleFail (m : Nat) (s : State) : Host.Outcome State Fault Refusal :=
  event s (if m < 4 then some { s with modules := s.modules &&& ~~~(1#4 <<< m) } else none)

/-- UCIE_MODULE_TRAIN. -/
def execUcieModuleTrain (m : Nat) (s : State) : Host.Outcome State Fault Refusal :=
  event s (if m < 4 then some { s with modules := s.modules ||| 1#4 <<< m } else none)

/-! ## Control flits and retraining (R387, R388) -/

/-- ACK (R387), of the virtual channel that its header names. -/
def execAck (port : Nat) (a : FlitAck) (s : State) : Host.Outcome State Fault Refusal :=
  event s ((s.port port).link.map fun l => (s.acked l a.vc.toNat a.seq).flushLink l)

/-- NAK (R387): the sender replays the channel from ACKSEQ. -/
def execNak (port : Nat) (a : FlitAck) (s : State) : Host.Outcome State Fault Refusal :=
  event s ((s.port port).link.map fun l => (s.nacked l a.vc.toNat a.seq).flushLink l)

/-- RATE (R388): flits per microsecond that the far end takes on a channel. -/
def execRate (port : Nat) (vc : BitVec 2) (rate : BitVec 16) (s : State) : Host.Outcome State Fault Refusal :=
  event s (if port < 32 then
      let t := s.modPort port fun p => { p with rates := p.rates.set vc.toNat rate }
      some (t.flush port (t.toSend port))
    else none)

/-- RATE_TIMER (R388): the port announces the rates it takes. -/
def execRateTimer (port : Nat) (s : State) : Host.Outcome State Fault Refusal :=
  event s (if port < 32 && (s.port port).up then some (s.announce port) else none)

/-- What a port that fails to retrain still has to send goes to another port of its link (R385, R387). -/
def State.handOver (s : State) (i : Nat) : State :=
  match (s.linkOf i).ports.find? fun p => p != i && (s.port p).up with
  | none => s
  | some q =>
    let p := s.port i
    let t := s.modPort q fun x => { x with replay := x.replay ++ p.replay, again := x.again ++ p.replay, out := x.out ++ p.out }
    t.modPort i fun x => { x with replay := [], again := [], out := [] }

/-- PORT_RETRAIN (R387): after 16 replays of one flit in a row; of each flit, whatever becomes of the others. What was on its way is replayed. -/
def execPortRetrain (port : Nat) (ok : Bool) (s : State) : Host.Outcome State Fault Refusal :=
  event s (if port < 32 && ((s.port port).stuck || !(s.port port).up)
    then some (if ok then s.modPort port fun p => { p with up := true, replays := [], again := p.replay }
      else (s.modPort port fun p => { p with up := false }).handOver port)
    else none)

/-! ## Peer links (R385, R393) -/

/-- PEER_LINK_JOIN (R385): 1 to 8 ports toward one remote device; not in recovery (R408). -/
def execPeerLinkJoin (link : Nat) (ports : List Nat) (s : State) : Host.Outcome State Fault Refusal :=
  event s (if !s.recovery && link < 32 && 1 ≤ ports.length && ports.length ≤ 8 && decide ports.Nodup && ports.all fun (p : Nat) =>
      p < 32 && ((s.port p).link.isNone || (s.port p).link == some link)
    then
      let s := { s with ports := s.ports.mapIdx fun i (p : Port) =>
        ({ p with link := if ports.contains i then some link else if p.link == some link then none else p.link } : Port) }
      some { s with links := s.links.set link { ports := ports } }
    else none)

/-- The peer slot of the device goes over the link. -/
def State.slotOn (s : State) (d link slot : Nat) : Bool := field ((s.vd d).peers.getD slot 0).toNat 22 5 == link

/-- The place is at a peer over the link. -/
def Place.crosses (on : Nat → Bool) : Place → Bool
  | .peer sl _ => on sl
  | _ => false

/-- What a link that goes down does to an operation in flight (R393): lanes of loads and returning atomics are lost, other
stores and atomics are dropped, an MSAVE writes nothing more there. -/
def Op.cut (o : Op) (on : Nat → Bool) : Option Op :=
  let lose (l : List Acc) : List Acc := l.map fun a => if a.place.crosses on then { a with lost := true } else a
  let keep (l : List Acc) : List Acc := l.filter fun a => !a.place.crosses on
  match o.kind with
  | .load a d e h => some { o with kind := .load (lose a) d e h }
  | .store a => if (keep a).isEmpty then none else some { o with kind := .store (keep a) }
  | .atomic p n a .none g f => if (keep a).isEmpty then none else some { o with kind := .atomic p n (keep a) .none g f }
  | .atomic p n a d g f => some { o with kind := .atomic p n (lose a) d g f }
  | .mx (.msave t dst) l st b =>
    some { o with kind := .mx (.msave t (dst.map fun p => if p.crosses on then .lane 0 else p)) l st b }
  | _ => some o

/-- The accesses that the cut drops without a register to poison: each is reported, an MSAVE once. -/
def Op.cutReports (o : Op) (on : Nat → Bool) : List (Nat × Addr) :=
  let of (l : List Acc) : List (Nat × Addr) := l.filterMap fun a => match a.place with
    | .peer sl _ => if on sl then some (sl, a.va) else none
    | _ => none
  match o.kind with
  | .store a => of a
  | .atomic _ _ a .none _ _ => of a
  | .mx (.msave _ dst) _ _ _ => (dst.findSome? fun p => match p with
    | .peer sl off => if on sl then some (sl, off.setWidth 72) else none
    | _ => none).toList
  | _ => []

/-- A command of an engine that still reads or writes over the link: a failure at a peer stops its gang (R240, R358). -/
def Op.cutEngine (o : Op) (on : Nat → Bool) : Bool :=
  match o.kind with
  | .copy _ (.coll ..) _ _ _ _ => false
  | .copy _ k _ true _ landed => (k.dst.drop (landed / 4)).any (·.crosses on)
  | .mx k _ _ _ => k.operands.any fun l => l.any (·.crosses on)
  | _ => false

/-- What waits at a link that goes down fails, and the collectives whose ring crosses it can only end ABANDONED (R393). -/
def State.cutLink (s : State) (link : Nat) : State :=
  let on (o : Op) : Nat → Bool := s.slotOn (s.gang o.gang).vd link
  let t := s.flight.foldl (fun s o => (o.cutReports (on o)).foldl (fun s r => s.faberr o.wave r.1 true r.2) s) s
  let t : State := { t with
    flight := t.flight.filterMap fun o => o.cut (on o)
    colls := t.colls.map fun c => if s.ringDown c.vd (s.collEntry c) then { c with gone := true } else c }
  (s.flight.filter fun o => o.cutEngine (on o)).foldl (fun s o => s.engineFault o.gang o.wave) t

/-- LINK_DOWN (R393): its ports all failed to retrain. What is outstanding on its slots fails, and so does every new access
until it trains again. -/
def execLinkDown (link : Nat) (s : State) : Host.Outcome State Fault Refusal :=
  event s (
    let l := s.peerLink link
    if !l.down && !l.ports.isEmpty && l.ports.all fun p => !(s.port p).up
    then some ((s.modPeerLink link fun x => { x with down := true }).cutLink link) else none)

/-- PEER_LINK_TRAIN (R393): sequence numbers go on, and what was sent and not acknowledged is replayed. -/
def execPeerLinkTrain (link : Nat) (s : State) : Host.Outcome State Fault Refusal :=
  event s (
    let l := s.peerLink link
    if l.down then
      some (l.ports.foldl (fun s p => s.modPort p fun x => { x with up := true, replays := [], again := x.replay })
        (s.modPeerLink link fun x => { x with down := false }))
    else none)

/-! ## Inbound peer accesses (R390) -/

/-- Bytes an inbound access touches. -/
def peerSize (a : PeerAcc) : Nat :=
  match a.kind with | .read n => n | .write d => d.length | .atomic _ n _ => n | .abandon _ => 0

def peerPerm (a : PeerAcc) : Perm := match a.kind with | .read _ => .r | .write _ | .abandon _ => .w | .atomic .. => .rw

/-- The source has a grant, and the device is neither lodged nor in a reset (R390, R405, R406). -/
def Vd.takes (v : Vd) (a : PeerAcc) : Bool :=
  v.live && v.resetting.isNone && v.lodge < 2 && v.grants.contains (some (a.fabid, a.vd))

/-- Where it goes in the tag 0x00 table of RVD, byte by byte; none where it is not taken, or where the translation
fails (R390). -/
def State.inbound (s : State) (a : PeerAcc) : Option (List Place) :=
  if !(s.vd a.rvd).takes a then none
  else (List.range (peerSize a)).mapM fun i =>
    match s.translate engineCore a.rvd 0 0 ((a.off + BitVec.ofNat 64 i).setWidth 72) (peerPerm a) with
    | .ok p => some p
    | .error _ => none

/-- The die that an inbound access is addressed to where the memory it needs lies in another partition: there it is dropped
(R399, R401). -/
def State.stray? (s : State) (a : PeerAcc) : Option Nat :=
  if !(s.vd a.rvd).takes a then none
  else (List.range (peerSize a)).findSome? fun i => s.foreign? engineCore a.rvd ((a.off + BitVec.ofNat 64 i).setWidth 72)

/-- The name under which the accesses of a source device stand in flight: they are of class P (R391). -/
def peerWave (a : PeerAcc) : Nat := 2 ^ 40 + a.fabid * 64 + a.vd

/-- An access of a peer enters, after those of the same source that are still to be performed, in the order and with the mask
it has there (R391). -/
def State.launchExt (s : State) (a : PeerAcc) (link : Nat) (k : OpKind) : State :=
  let w := peerWave a
  { s with seq := s.seq + 1, flight := s.flight ++
    [{ id := s.seq, wave := w, gang := 2 ^ 40, core := engineCore, kind := k, ord := orderOf a.ord, mask := a.mask
       after := (s.flight.filter fun o => o.wave == w).map (·.id), answer := some (link, a.rvd) }] }

/-- The access is performed at the home, as one of the home's own: it waits there for leases and for what its order demands,
and its response goes back on channel 1 once it has been performed (R181, R390, R391). One that is not taken is answered with
a byte 1. DESIGN CHOICE: the spec gives responses no layout, log 99. -/
def State.serveInbound (s : State) (port link : Nat) (a : PeerAcc) : State :=
  match s.inbound a with
  | none =>
    let s := match s.stray? a with
      | some die => s.transitDrop (port / 16) die
      | none => s
    s.sendLink link ⟨1, a.rvd, [1]⟩
  | some ps =>
    let one (i : Nat) (d : List Byte) : Acc := { lane := 0, place := ps.getD i zeroPlace, size := 1, data := d }
    match a.kind with
    | .read n => s.launchExt a link (.load ((List.range n).map fun i => one i []) .none .word 0)
    | .write d => s.launchExt a link (.store ((List.range d.length).map fun i => one i [d.getD i 0]))
    | .atomic aop n d => s.launchExt a link (.atomic aop n [{ one 0 d with size := n }] .none [] true)
    | .abandon _ => s

/-- An open collective sends ABANDON flits to both ring neighbours (R392, R406 step 4). DESIGN CHOICE: the payload, of
which the spec says nothing, is the group number, log 99. -/
def State.abandon (s : State) (c : OpenColl) : State :=
  let e := s.collEntry c
  [field e 9 4, field e 13 4].foldl (fun s slot =>
    s.sendLink (field ((s.vd c.vd).peers.getD slot 0).toNat 22 5) ⟨3, c.vd, [BitVec.ofNat 8 c.group]⟩) s

/-- An ABANDON flit ends the open collective of its group, and goes on to the ring's neighbours (R248, R392, R406). -/
def State.abandoned (s : State) (d g : Nat) : State :=
  match s.colls.find? fun c => c.vd == d && c.group == g && !c.gone with
  | some c =>
    let cs := s.colls.map fun (x : OpenColl) => if x.op = c.op then { x with gone := true } else x
    { s with colls := cs }.abandon c
  | none => s

/-- FLIT_RECEIVE (R387): a flit that fails its CRC, is out of its channel's sequence or finds no buffer is discarded with a
NAK; any other is performed once and acknowledged. Every good flit acknowledges what it names of its channel, and one with NAK
set asks for a replay (R386). -/
def State.flitReceive? (s : State) (i : Nat) (f : Flit) (acc : Option PeerAcc) : Option State :=
  let p := s.port i
  match p.link with
  | none => none
  | some link =>
    let c := flitVc f
    if !p.up || 32 ≤ i then none
    else
      let full := Config.freeBit s.free
      let s := { s with free := s.free + 1 }
      if !flitGood f then some (s.control i 1 c true [])
      else
        let s := if flitNak f then s.nacked link c (flitAckSeq f) else s.acked link c (flitAckSeq f)
        match flitKind f with
        | 0 =>
          if flitSeq f != (s.peerLink link).recvSeq.getD c 0 || full then some (s.control i 1 c true [])
          else
            let s := s.modPeerLink link fun l => { l with recvSeq := l.recvSeq.modify c (· + 1) }
            let s := { s with performed := (i, c, flitData f) :: s.performed }
            let s := s.control i 1 c false []
            some (match c, acc with
              | 0, some a => s.serveInbound i link a
              | 3, some a => match a.kind with | .abandon g => s.abandoned a.rvd g | _ => s
              | _, _ => s)
        | 2 => some (s.modPort i fun p => { p with
            rates := (List.range 4).map fun v => BitVec.ofNat 16 (natOf (((flitData f).drop (2 * v)).take 2)) })
        | _ => some s

def execFlitReceive (port : Nat) (flit : Flit) (acc : Option PeerAcc) (s : State) : Host.Outcome State Fault Refusal :=
  event s (s.flitReceive? port flit acc)

end Sys2Proof.Machine
end

