-- ==== Sys2Proof/Machine/Host.lean ====
section
/-! DEFINITION. The command region (R253, R394-R398), lodging and lifting (R404, R405), and the reset of a virtual device
(R406). -/
namespace Sys2Proof.Machine

/-! ## Reading the command region (R394, R395, R397) -/

/-- Header word 0 of a stream (R253). -/
def Stream.word (q : Stream) : Nat :=
  q.wridx + q.rdidx * 2 ^ 8 + q.prio * 2 ^ 16 + (if q.en then 2 ^ 24 else 0)

/-- LODGE (R395). -/
def Vd.lodgeWord (v : Vd) : Nat :=
  v.cls.toNat + (if v.auto then 4 else 0) + (if v.now then 8 else 0) + v.lodge * 16 + v.idle * 2 ^ 16

/-- INFO.MODULES: the modules that work (R377). -/
def State.moduleCount (s : State) : Nat := ((List.range 4).filter fun m => s.modules.getLsbD m).length

/-- The 8 bytes at an offset of a region, as the package holds them; region 64 is the PF's. -/
def State.regWord (s : State) (d off : Nat) : Nat :=
  let v := s.vd d
  let o := off / 8 * 8
  let bytes := natOf ((s.raws ⟨.cmd d, o⟩ 8).map (·.1))
  if o < 0x8000 then bytes
  else if d = 64 then
    match o with
    | 0x8008 => s.pfWr + s.pfRd * 2 ^ 16
    | 0x8028 => s.moduleCount + (if s.recovery then 2 ^ 8 else 0)
    | _ => 0
  else
    match o with
    | 0x8008 => v.eqwr + v.eqrd * 2 ^ 16
    | 0x8010 => v.flags.toNat
    | 0x8018 => v.lodgeWord
    | 0x8020 => v.rst * 4
    | 0x8028 => s.moduleCount
    | _ =>
      if (o - 0x8000) % 0x800 = 0 then (v.streams.getD ((o - 0x8000) / 0x800) {}).word
      else if (o - 0x8000) % 0x800 < 0x40 then 0
      else bytes

/-! ## Waking (R398, R404, R405) -/

/-- A wake write, or a read of a lodged region: a lodge under way is abandoned, a lodged device begins to lift. -/
def Vd.wake (v : Vd) (now : Nat) : Vd :=
  match v.lodge with
  | 1 => { v with lodge := 0, now := false, idleFrom := now }
  | 2 => { v with lodge := 3 }
  | _ => v

/-- A host write to a device's region reaches its home: it needs a working module (R377), and wakes the device; during
a reset it is discarded (R406). -/
def State.hostWrite? (s : State) (d : Nat) (f : State → State) : Option State :=
  if s.modules = 0 || s.recovery || !(s.vd d).live then none
  else if (s.vd d).resetting.isSome then some s
  else
    let t := f (s.modVd d (·.wake s.time))
    some (t.eqFlush d (t.vd d).eqHeld.length)

/-! ## Registers (R253, R395) -/

/-- The bytes of `old` outside the mask, those of `v` inside. -/
def mergeWord (old v : DWord) (mask : Byte) : DWord :=
  let m := (List.range 8).foldl (fun (m : DWord) i => if mask.getLsbD i then m ||| (0xFF#64 <<< (8 * i)) else m) 0
  (old &&& ~~~ m) ||| (v &&& m)

/-- The engine reads WRIDX after a write of the header: entries it has not seen are received now, in their order
(R254). -/
def Stream.receive (q : Stream) : Stream :=
  let n := (q.wridx + 31 - q.rdidx) % 31
  let host := (q.order.filter (! ·)).length
  if host ≤ n then { q with order := q.order ++ List.replicate (n - host) false }
  else { q with order := (q.order.reverse.foldl (fun (r : List Bool × Nat) x =>
    if !x && 0 < r.2 then (r.1, r.2 - 1) else (x :: r.1, r.2)) ([], host - n)).1 }

/-- A write of a stream's header word 0: a WRIDX of 31 or above discards it whole (R253). -/
def Stream.header (q : Stream) (w : Nat) : Stream :=
  if 31 ≤ field w 0 5 then q
  else { q with wridx := field w 0 5, prio := field w 16 3, en := field w 24 1 == 1 }.receive

/-- EQ.RD after a write: one beyond WR is discarded whole (R395). -/
def rdAfter (wr rd new : Nat) : Nat :=
  if (wr + 2048 - rd) % 2048 < (new + 2048 - rd) % 2048 then rd else new

/-- FLAGS is set by 1 (R395). -/
def Vd.flagsSet (v : Vd) (x : BitVec 16) : Vd := { v with flags := v.flags ||| x }

def Vd.lodgeNow (v : Vd) : Vd := { v with now := true }

/-- A write of LODGE: AUTO, NOW set by 1, IDLE unless 0 (R395). -/
def Vd.lodgeWrite (v : Vd) (w : Nat) : Vd :=
  { v with auto := field w 2 1 == 1, now := v.now || field w 3 1 == 1
           idle := if field w 16 16 = 0 then v.idle else field w 16 16 }

/-! ## The reset of a virtual device (R406) -/

/-- The device an operation belongs to. -/
def State.opVd (s : State) (o : Op) : Option Nat := if o.gang < s.gangs.length then some (s.gang o.gang).vd else none

/-- What a reset leaves of an operation of the device: stores and atomics already on their way to a home are performed,
writes to peers not yet sent are refused, and everything else is discarded (R406 steps 2, 3 and 5). -/
def Op.drained (o : Op) : Option Op :=
  let kept (a : Acc) : Bool := match a.place with | .homed .. => true | _ => false
  let o' := { o with owners := [], sfr := [], cls := none }
  match o.kind with
  | .store accs => if accs.any kept then some { o' with kind := .store (accs.filter kept) } else none
  | .atomic a n accs _ _ _ =>
    if accs.any kept then some { o' with kind := .atomic a n (accs.filter kept) .none [] true } else none
  | _ => none

/-- A gang's placement, pins and waves go, with no action and no entry (R406 steps 2 and 3). -/
def State.dropGang (s : State) (g : Nat) : State :=
  let gg := s.gang g
  if gg.st == .retired then s
  else
    let s := if gg.placed then s.freePlace g else s
    let s := gg.waves.foldl (fun s w => (s.modWave w fun x => { x with
      mode := .ended, xbh := 0, blk := none, frags := List.replicate 8 {}, fragArr := [], gen := x.gen + 1 }).dropPrivate w
      |>.dropViews w) s
    s.modGang g fun x => { x with
      st := .retired, preempt := none, halted := none, ovf := false, ckptDue := false
      wgs := x.wgs.map fun w => { w with pins := List.replicate 8 0 } }

/-- Pages of the pool that a discarded action would have returned stay held by their rink (R406). -/
def Vd.discard (v : Vd) (e : Deferred) : Vd :=
  match e.act with
  | .pages ps =>
    if v.rinks.any fun p => p.1 == e.name.toNat % 2 ^ 16 then
      { v with rinks := v.rinks.map fun p =>
          if p.1 = e.name.toNat % 2 ^ 16 then (p.1, { p.2 with kept := p.2.kept ++ ps }) else p }
    else { v with pool := v.pool ++ ps }
  | .nodes .. | .table .. => v

/-- The device's own fields when its streams stop and its slots are released. -/
def Vd.stopped (v : Vd) : Vd :=
  let w := v.deferred.foldl Vd.discard v
  { w with
    streams := w.streams.map fun q => { q with wridx := 0, rdidx := 0, prio := 0, en := false, devq := [], order := [] }
    flags := 0, lodge := 0, now := false, deferred := [], rings := [], recheck := [], ovf := [], rerun := [], btlaunch := none
    btempty := [], short := 0 }

/-- Steps 1 to 5: everything the device runs ends. -/
def State.stopVd (s : State) (d : Nat) : State :=
  let s := (s.colls.filter fun c => c.vd == d).foldl State.abandon s
  let s := { s with
    colls := s.colls.filter fun c => c.vd != d
    flight := s.flight.filterMap fun o => if s.opVd o == some d then o.drained else some o }
  let back := (s.steals.filter fun x => x.vd == d).flatMap fun x => x.copied.map fun c => c.2.2.2
  let s := { s with steals := s.steals.filter fun x => x.vd != d }
  let s := (List.range s.gangs.length).foldl (fun s g => if (s.gang g).vd = d then s.dropGang g else s) s
  let s := (s.tasks.filter fun t => t.st != .free && (s.launch t.launch).vd == d).foldl (fun s t => s.freeTask t) s
  s.modVd d fun v => { v.stopped with pool := v.stopped.pool ++ back }

/-- A reset begins: 1 soft, 2 clear; RST.STATE reads 1 (R395). -/
def State.resetBegin (s : State) (d : Nat) (clear : Bool) : State :=
  (s.stopVd d).modVd d fun v => { v with resetting := some clear, rst := 1 }

/-- Nothing of the device is on its way any more (R406 step 5). -/
def State.drainedVd (s : State) (d : Nat) : Bool := s.flight.all fun o => s.opVd o != some d

/-- HBM pages whose copies go. -/
def Loc.inPages (l : Loc) (pages : List Nat) : Bool :=
  match l.sp with
  | .phys => pages.contains (l.a / 65536)
  | .fmt => l.a / 2 ^ 74 % 2 == 0 && pages.contains (l.a / 65536 % 2 ^ 54 / 65536)
  | _ => false

/-- Every copy of a line in the pages is dropped without write-back: LLC, leases and homes, instruction-cache sectors,
the host's halves. -/
def State.dropPages (s : State) (pages : List Nat) : State :=
  let s := (s.llc.filter fun e => e.line.inPages pages).foldl (fun s e => s.llcDrop e.line) s
  let s := (s.copies.filter fun c => c.line.inPages pages).foldl (fun s c => s.dropCopy c.holder c.line) s
  let s := (s.dir.filter fun p => pages.contains (p.1 / 1024)).foldl
    (fun (s : State) (p : Nat × HalfSt) => s.zero ⟨.hostCopy, p.1 * 64⟩ 64) s
  { s with
    homes := s.homes.filter fun h => !h.line.inPages pages
    sectors := s.sectors.filter fun x => !x.2.inPages pages
    dir := s.dir.filter fun p => !pages.contains (p.1 / 1024) }

/-- Pages of HBM that a tree's nodes fill (R294). -/
def Tree.area (t : Tree) : List Nat :=
  (List.range ((t.base % 65536 + 64 * t.cap + 65535) / 65536)).map fun i => (t.base / 65536 + i) * 65536

/-- Every page of HBM that the device holds: pool pages, tree nodes, the context area and the overflow store among them
(R406). -/
def Vd.held (v : Vd) : List Nat :=
  (v.pages ++ v.context ++ v.ovfPages ++ (v.pool ++ v.nodePool ++ v.rinks.flatMap (fun (p : Nat × Rink) => p.2.held)
    ++ v.trees.flatMap fun (p : Nat × Tree) => p.2.area).map (· / 65536)).eraseDups

/-- The line's home is on a die of the device's partition. -/
def State.onDies (s : State) (d : Nat) (l : Loc) : Bool := (s.partitions.getD (s.vd d).part []).contains (llcSlice l / 64)

/-- Every page that the device holds, and where those of them that are moving go (R403). -/
def State.heldBy (s : State) (d : Nat) : List Nat :=
  let ps := (s.vd d).held
  (ps ++ (s.moves.filter fun m => ps.contains m.src).map (·.dst)).eraseDups

/-- The LLC drops the lines of tier 1 that it has for the device's partition, which are clean: which of several devices a line of
tier 1 is there for, no rule says. -/
def State.dropTier (s : State) (d : Nat) : State :=
  (s.llc.filter fun e => (e.line.sp == .tier1 || (e.line.sp == .fmt && e.line.a / 2 ^ 74 = 1)) && s.onDies d e.line).foldl
    (fun s e => s.llcDrop e.line) s

/-- Step 6 of a clear reset: a fresh key, every rink and tree destroyed, every LLC line of the device dropped and every page
marked, a moving one at both of its places. -/
def State.clearVd (s : State) (d : Nat) : State :=
  let ps := s.heldBy d
  let s := (s.dropPages ps).dropTier d
  { s with keys := s.keys + 1, tlb := s.tlb.filter fun t => t.vd != d
           marked := s.marked ++ ps.filter fun p => !s.marked.contains p }.modVd d fun v => { v with
    key := s.keys + 1, rinks := [], trees := [], log := []
    pool := v.pool ++ v.rinks.flatMap fun (p : Nat × Rink) => p.2.held
    nodePool := v.nodePool ++ v.trees.flatMap fun (p : Nat × Tree) => p.2.area }

/-- Every launch of the device that was ended enters the queue with status RESET (R258). -/
def State.endLaunches (s : State) (d : Nat) : State :=
  (List.range s.launches.length).foldl (fun s l => if (s.launch l).vd = d then s.completeLaunch l 4 else s) s

/-- Reads of a region that waited for a lift return: once the lift is complete, or the reset that came instead of it (R398). -/
def State.answerReads (s : State) (d : Nat) : State :=
  let reads := (s.vd d).reads
  if reads.isEmpty then s else { s.modVd d fun v => { v with reads := [] } with reply := reads.map fun o => [s.regWord d o] }

/-- Steps 6 and 7. -/
def State.resetEnd (s : State) (d : Nat) (clear : Bool) : State :=
  let s := if clear then (s.clearVd d).modVd d fun v => { v with eqrd := v.eqwr, eqHeld := [] } else s
  let s := s.endLaunches d
  let s := s.eqAppend d (eqEntry 6 (if clear then 2 else 1) 0 0 0 0 s.time)
  (s.modVd d fun v => { v with resetting := none, rst := if clear then 3 else 2, idleFrom := s.time }).answerReads d

/-- RESET_COMPLETE (R406). -/
def execResetComplete (vd : Nat) (s : State) : Host.Outcome State Fault Refusal :=
  event s (match (s.vd vd).resetting with
    | some c => if s.drainedVd vd then some (s.resetEnd vd c) else none
    | none => none)

/-! ## Host writes -/

/-- A host write of a word, or of some of its bytes (R394-R397). -/
def State.regWrite (s : State) (d off : Nat) (v : DWord) (mask : Byte) : State :=
  let o := off / 8 * 8
  let w := (mergeWord (BitVec.ofNat 64 (s.regWord d o)) v mask).toNat
  let ones := (mergeWord 0 v mask).toNat
  let put : State := s.putRaws ⟨.cmd d, o⟩ ((bytesOf 8 w).map fun b => (b, false))
  if o < 0x8000 then put
  else match o with
    | 0x8008 => s.modVd d fun x => { x with eqrd := rdAfter x.eqwr x.eqrd (field w 16 11) }
    | 0x8010 => s.modVd d (·.flagsSet (BitVec.ofNat 16 ones))
    | 0x8018 => s.modVd d (·.lodgeWrite (w % 2 ^ 16 / 16 * 16 + w % 8 + ones / 8 % 2 * 8 + w / 2 ^ 16 * 2 ^ 16))
    | 0x8020 => if ones % 4 = 1 then s.resetBegin d false else if ones % 4 = 2 then s.resetBegin d true else s
    | _ =>
      if 0x10000 ≤ o then s
      else if (o - 0x8000) % 0x800 = 0 then s.modStream d ((o - 0x8000) / 0x800) fun q => q.header w
      else if (o - 0x8000) % 0x800 < 0x40 then s
      else put

/-- The supervisor's queue after a write of its EQ.RD: entries held enter it. -/
def State.pfFlush (s : State) : Nat → State
  | 0 => s
  | n + 1 => match s.pfHeld with
    | e :: r => if eqCount s.pfWr s.pfRd < 1024
        then
          let t := { s with pfHeld := [] }.pfAppend e
          { t with pfHeld := r }.pfFlush n
        else s
    | [] => s

/-- A write to the PF's region: EQ.RD and the queue's own bytes; it wakes nothing (R397). -/
def State.pfWrite? (s : State) (off : Nat) (v : DWord) (mask : Byte) : Option State :=
  let o := off / 8 * 8
  let w := (mergeWord (BitVec.ofNat 64 (s.regWord 64 o)) v mask).toNat
  if s.modules = 0 then none
  else if o < 0x8000 then some (s.putRaws ⟨.cmd 64, o⟩ ((bytesOf 8 w).map fun b => (b, false)))
  else if o = 0x8008 then some ({ s with pfRd := rdAfter s.pfWr s.pfRd (field w 16 11) }.pfFlush s.pfHeld.length)
  else some s

/-- REGISTER_WRITE (R6): vd 64 is the PF's region. -/
def execRegisterWrite (vd off : Nat) (v : DWord) (mask : Byte) (s : State) : Host.Outcome State Fault Refusal :=
  event s (if vd = 64 then s.pfWrite? off v mask else s.hostWrite? vd fun s => s.regWrite vd off v mask)

/-- WRIDX_WRITE (R253): the other fields of the header keep their values. -/
def execWridxWrite (vd stream value : Nat) (s : State) : Host.Outcome State Fault Refusal :=
  event s (s.hostWrite? vd fun s => s.modStream vd stream fun q =>
    if 31 ≤ value then q else { q with wridx := value }.receive)

/-- EQ_RD_WRITE (R395, R397): none is the PF's queue. -/
def execEqRdWrite (vd : Option Nat) (value : Nat) (s : State) : Host.Outcome State Fault Refusal :=
  event s (match vd with
    | some d => s.hostWrite? d fun s => s.modVd d fun v => { v with eqrd := rdAfter v.eqwr v.eqrd (value % 2048) }
    | none => if s.modules = 0 then none
      else some ({ s with pfRd := rdAfter s.pfWr s.pfRd (value % 2048) }.pfFlush s.pfHeld.length))

/-- FLAGS_SET (R395): waiting WFEs see the flags when they are next tried (R372). -/
def execFlagsSet (vd : Nat) (v : BitVec 16) (s : State) : Host.Outcome State Fault Refusal :=
  event s (s.hostWrite? vd fun s => s.modVd vd (·.flagsSet v))

/-- LODGE_NOW (R395). -/
def execLodgeNow (vd : Nat) (s : State) : Host.Outcome State Fault Refusal :=
  event s (s.hostWrite? vd fun s => s.modVd vd (·.lodgeNow))

/-- SOFT_RESET: RST.REQ = 1 (R395, R406). -/
def execSoftReset (vd : Nat) (s : State) : Host.Outcome State Fault Refusal :=
  event s (s.hostWrite? vd fun s => s.resetBegin vd false)

/-- CLEAR_RESET: RST.REQ = 2 (R395, R406). -/
def execClearReset (vd : Nat) (s : State) : Host.Outcome State Fault Refusal :=
  event s (s.hostWrite? vd fun s => s.resetBegin vd true)

/-- FUNCTION_LEVEL_RESET (R406): a clear reset. -/
def execFunctionLevelReset (vd : Nat) (s : State) : Host.Outcome State Fault Refusal :=
  event s (if (s.vd vd).live && (s.vd vd).resetting.isNone then some (s.resetBegin vd true) else none)

/-- SUPERVISOR_RESET_REQUEST (R406). -/
def execSupervisorResetRequest (vd : Nat) (clear : Bool) (s : State) : Host.Outcome State Fault Refusal :=
  event s (if (s.vd vd).live && (s.vd vd).resetting.isNone then some (s.resetBegin vd clear) else none)

/-- COMMAND_REGION_READ (R398): of a lodged device it lifts the device first, and returns once the lift is complete. -/
def execCommandRegionRead (vd off : Nat) (s : State) : Host.Outcome State Fault Refusal :=
  event s (
    if s.modules = 0 then none
    else if vd = 64 then some { s with reply := [[s.regWord 64 off]] }
    else if s.recovery || !(s.vd vd).live then none
    else if 2 ≤ (s.vd vd).lodge then some (s.modVd vd fun v => { v.wake s.time with reads := v.reads ++ [off] })
    else some { s with reply := [[s.regWord vd off]] })

/-! ## Lodging and lifting (R404, R405) -/

/-- The device is idle: no gang, no launch in any stream, no engine command, no open collective (R404). -/
def State.idleVd (s : State) (d : Nat) : Bool :=
  !(s.gangs.any fun g => g.vd == d && g.st != .retired)
    && !(s.launches.any fun l => l.vd == d && !l.done)
    && ((s.vd d).streams.all fun q => q.order.isEmpty) && (s.vd d).rerun.isEmpty
    && !(s.flight.any fun o => s.opVd o == some d && o.kind.isEngine)
    && !(s.colls.any fun c => c.vd == d) && (s.vd d).resetting.isNone

/-- The time since which each device has been idle is kept (R404). -/
def State.idleWatch (s : State) : State :=
  { s with vds := s.vds.mapIdx fun i v => if v.live && !s.idleVd i then { v with idleFrom := s.time } else v }

/-- Something asks for the lodge: NOW, or AUTO after IDLE µs of idleness. -/
def Vd.lodges (v : Vd) (now : Nat) : Bool := v.now || (v.auto && v.idleFrom + v.idle * 1000 ≤ now)

/-- The device is alone in its partition (R404). -/
def State.alone (s : State) (d : Nat) : Bool :=
  !((List.range 64).any fun e => e != d && (s.vd e).live && (s.vd e).part == (s.vd d).part)

/-- Clusters of the device's partition. -/
def State.clustersOf (s : State) (d : Nat) : List Nat :=
  (s.partitions.getD (s.vd d).part []).flatMap fun die => (List.range 20).map fun c => die * 20 + c

/-- What a lodge of the device, alone in its partition, turns off (R404). In W1 SRAM is in retention and the LLC is kept: copies,
instruction sectors and TLBs stay. In W2 and W3 SRAM is off: they go, and the LLC's lines are written back. -/
def State.gate (s : State) (d : Nat) : State :=
  let cls := s.clustersOf d
  if (s.vd d).cls.toNat < 2 then s
  else
    let s := (s.copies.filter fun c => cls.contains (spaceCluster c.holder)).foldl (fun s c => s.dropCopy c.holder c.line) s
    let s : State := { s with
      sectors := s.sectors.filter fun x => !cls.contains (clusterOf x.1)
      tlb := s.tlb.filter fun t => match t.tlb with | .core c => !cls.contains (c / 4) | .cluster c => !cls.contains c }
    (s.llc.filter fun e => s.onDies d e.line).foldl (fun s e => (s.llcClean e.line).llcDrop e.line) s

/-- RUN to LODGING, LODGING to LODGED (R395, R404). A device that shares its partition only gives up its slices. -/
def State.lodge? (s : State) (d : Nat) : Option State :=
  let v := s.vd d
  if !v.live || v.cls = 0 || !s.idleVd d then none
  else match v.lodge with
    | 0 => if v.lodges s.time then some (s.modVd d fun v => { v with lodge := 1 }) else none
    | 1 =>
      let s := if s.alone d then s.gate d else s
      let s := s.modVd d fun v => { v with lodge := 2, now := false }
      some (if s.holder v.part == some d && !s.alone d then s.giveSlice v.part else s)
    | _ => none

/-- LODGE (R404). -/
def execLodge (vd : Nat) (s : State) : Host.Outcome State Fault Refusal := event s (s.lodge? vd)

/-- The islands of the device's partition: of its dies' clusters and B-die logic, and of their stacks' base dies (R14). -/
def State.islandsOf (s : State) (d : Nat) : List Nat :=
  (s.partitions.getD (s.vd d).part []).flatMap fun die =>
    (List.range 5).map (5 * die + ·) ++ [40 + die, 48 + 2 * die, 49 + 2 * die]

/-- Lifted islands resynchronise TIME, never below an earlier reading (R343). -/
def State.resync (s : State) (d : Nat) : State :=
  (s.islandsOf d).foldl (fun (s : State) c =>
    let old := s.offset c
    let new : Int := ((Config.freeWord s.free).toNat % 9 : Nat) - 4
    { s with free := s.free + 1, skew := (c, max old new) :: s.skew.filter fun i => i.1 != c }) s

/-- A lift ends: a device that shares its partition lifts at its slice (R404); the groomer sweeps at once (R321), and
reads of the region return (R398). -/
def State.lift? (s0 : State) (d : Nat) : Option State :=
  if !(s0.vd d).live || (s0.vd d).lodge != 3 then none
  else
    let s := s0.sliced (s0.vd d).part
    if !s.alone d && s.holder (s.vd d).part != some d then none
    else
      let s := if s.alone d && 2 ≤ (s.vd d).cls.toNat then s.resync d else s
      some (((s.modVd d fun v => { v with lodge := 0, idleFrom := s.time }).recheck d none).answerReads d)

/-- LIFT_COMPLETE (R404). -/
def execLiftComplete (vd : Nat) (s : State) : Host.Outcome State Fault Refusal := event s (s.lift? vd)

end Sys2Proof.Machine
end

