-- ==== Sys2Proof/Machine/Umarek.lean ====
section
/-! DEFINITION. What Umarek and the supervisor configure (R65, R158, R260, R273, R294, R318, R351, R389-R392, R409, R410),
translation changes (R154, R160), memory moves (R403), frequencies (R14, R15), scrubbing and errors (R148, R406), and the
starts (R408, R409). -/
namespace Sys2Proof.Machine

/-! ## Tables of a device -/

/-- A write to the tables of a live device. -/
def State.table? (s : State) (d : Nat) (f : Vd → Vd) : Option State :=
  if (s.vd d).live then some (s.modVd d f) else none

/-- The bits [lo, lo + n). -/
def bitsAt (lo n : Nat) : Nat := (2 ^ n - 1) * 2 ^ lo

/-- TRAP_VECTOR_WRITE (R351): reserved bits stay 0 (R7). -/
def execTrapVectorWrite (vd cause : Nat) (entry : BitVec 128) (s : State) : Host.Outcome State Fault Refusal :=
  event s (s.table? vd fun v => { v with vectors := v.vectors.set cause (entry &&& BitVec.ofNat 128 (bitsAt 0 66)) })

/-- RECLAIM_ACTION_WRITE (R318). -/
def execReclaimActionWrite (vd idx : Nat) (entry : BitVec 128) (s : State) : Host.Outcome State Fault Refusal :=
  event s (s.table? vd fun v => { v with
    actions := v.actions.set idx (entry &&& BitVec.ofNat 128 (bitsAt 0 3 + bitsAt 8 5 + bitsAt 16 8 + bitsAt 64 64)) })

/-- A task type as Umarek loads it (R260): reserved bits stay 0 (R7). TASK_TYPE_LOAD. -/
def Vd.typed (v : Vd) (idx : Nat) (entry : BitVec 128) : Vd :=
  { v with types := v.types.set idx (entry &&& BitVec.ofNat 128 (bitsAt 0 67 + bitsAt 72 6 + bitsAt 80 32)) }

def execTaskTypeLoad (vd idx : Nat) (entry : BitVec 128) (s : State) : Host.Outcome State Fault Refusal :=
  event s (s.table? vd fun v => v.typed idx entry)

/-- GROUP_CONFIGURE (R392): an entry with a reserved bit set counts as not configured. -/
def execGroupConfigure (vd g : Nat) (entry : DWord) (s : State) : Host.Outcome State Fault Refusal :=
  event s (s.table? vd fun v => { v with groups := v.groups.set g entry })

/-- PEER_SLOT_WRITE (R389). -/
def execPeerSlotWrite (vd slot : Nat) (entry : DWord) (s : State) : Host.Outcome State Fault Refusal :=
  event s (s.table? vd fun v => { v with
    peers := v.peers.set slot (entry &&& BitVec.ofNat 64 (bitsAt 0 1 + bitsAt 8 19)) })

/-- INBOUND_GRANT_WRITE (R390): FABID and VD of a source. -/
def execInboundGrantWrite (vd idx : Nat) (grant : Option (Nat × Nat)) (s : State) : Host.Outcome State Fault Refusal :=
  event s (s.table? vd fun v => { v with grants := v.grants.set idx grant })

/-- RANGE_ENTRY_WRITE (R158), not in recovery (R408). -/
def execRangeEntryWrite (ctrl : Option Nat) (idx : Nat) (ctl base limit : DWord) (s : State) :
    Host.Outcome State Fault Refusal :=
  event s (if !s.recovery && idx < 16 && (match ctrl with | some c => decide (c < 16) | none => true) then
      let pa := BitVec.ofNat 64 (bitsAt 7 47)
      some { s with ranges := ⟨ctrl, idx, ctl &&& 0xFFF, base &&& pa, limit &&& pa⟩ ::
        s.ranges.filter fun e => !(e.ctrl == ctrl && e.idx == idx) }
    else none)

/-! ## Rinks and trees (R273-R275, R294) -/

/-- The descriptor's fields. -/
def rinkOf (x : Nat) : Rink :=
  { fmt := field x 1 2, nlayers := field x 8 8 + 1, nheads := field x 16 6 + 1, hdim := field x 32 10
    ppplog := field x 48 4, maxpos := field x 64 24, stbase := field x 135 47 * 128, desc := BitVec.ofNat 64 x
    pub := List.replicate (field x 8 8 + 1) 0 }

/-- HBM pages that exist and lie in the stacks of a partition (R399). -/
def State.pagesIn (s : State) (part : Nat) (pages : List Nat) : Bool :=
  pages.all fun p => hbmOk (p * 65536) 65536 && s.partOf (p * 65536) == some part

/-- The pages of n bytes from an address. -/
def pagesOf (a n : Nat) : List Nat := (List.range ((a % 65536 + n + 65535) / 65536)).map (a / 65536 + ·)

/-- The limits of R273 and R274. -/
def Rink.ok (r : Rink) : Bool :=
  r.fmt < 3 && r.hdim % 2 = 0 && 2 ≤ r.hdim && r.hdim ≤ 512 && (r.fmt != 2 || r.hdim % 32 = 0) && r.ppplog ≤ 12
    && 1 ≤ r.maxpos && 2 ^ r.ppplog * r.nheads * 2 * r.vb ≤ 65536

/-- Bytes of the state region that the bit tables of R277 fill; the spec lays out no table, so the frontiers and page maps
are not counted (log 105). -/
def Rink.stBytes (r : Rink) : Nat := (r.maxpos * (2 + r.nlayers) + 7) / 8

/-- CREATE_RINK (R273): reserved bits of the descriptor are discarded (R7). -/
def execCreateRink (vd h : Nat) (desc : BitVec 512) (s : State) : Host.Outcome State Fault Refusal :=
  event s (
    let r := rinkOf desc.toNat
    let clean := BitVec.ofNat 64 (bitsAt 0 3 + bitsAt 8 14 + bitsAt 32 10 + bitsAt 48 4)
    if desc.getLsbD 0 && 1 ≤ h && h < 4096 && ((s.vd vd).rink h).isNone && r.ok
        && s.pagesIn (s.vd vd).part (pagesOf r.stbase r.stBytes) then
      s.table? vd fun v => { v with rinks := v.rinks ++ [(h, { r with desc := r.desc &&& clean })] }
    else none)

/-- DESTROY_RINK (R275, R276, R284): its pages go through one reclaim request under the rink's name; where the list is
FULL nothing changes. RKACQs outstanding are answered with POISON. -/
def State.destroyRink? (s : State) (d h : Nat) : Option State :=
  match (s.vd d).rink h with
  | none => none
  | some r =>
    match s.request d (rkName h) (.pages r.held) with
    | (.full, _) => none
    | (_, t) => some ((t.modVd d fun v => { v with rinks := v.rinks.filter fun p => p.1 != h }).rkWake)

def execDestroyRink (vd h : Nat) (s : State) : Host.Outcome State Fault Refusal := event s (s.destroyRink? vd h)

/-- CREATE_TREE (R294): CAP nodes, all free, no root; its nodes lie in the device's partition and no other tree draws on
them. -/
def execCreateTree (vd t : Nat) (desc : BitVec 512) (s : State) : Host.Outcome State Fault Refusal :=
  event s (
    let x := desc.toNat
    let e : Tree := { cap := field x 8 27, base := field x 64 47 * 128, c := BitVec.ofNat 32 (field x 192 32)
                      vloss := BitVec.ofNat 32 (field x 224 32), fpu := BitVec.ofNat 32 (field x 256 32) }
    let apart := (s.vd vd).trees.all fun p => p.2.base + 64 * p.2.cap ≤ e.base || e.base + 64 * e.cap ≤ p.2.base
    if desc.getLsbD 0 && t < 256 && !((s.vd vd).trees.any fun p => p.1 == t) && 1 ≤ e.cap && e.cap ≤ 2 ^ 26
        && s.pagesIn (s.vd vd).part (e.area.map (· / 65536)) && apart then
      s.table? vd fun v => { v with
        trees := v.trees ++ [(t, e)], nodePool := v.nodePool.filter fun p => !e.area.contains p }
    else none)

/-- DESTROY_TREE (R406): the nodes it held return to the pool. -/
def execDestroyTree (vd t : Nat) (s : State) : Host.Outcome State Fault Refusal :=
  event s (match (s.vd vd).trees.find? fun p => p.1 == t with
    | some p => s.table? vd fun v => { v with
        trees := v.trees.filter fun q => q.1 != t, nodePool := v.nodePool ++ p.2.area
        deferred := v.deferred.filter fun e => match e.act with | .nodes u _ => u != t | _ => true }
    | none => none)

/-! ## Launching, recording (R65, R410) -/

/-- UMAREK_LAUNCH: the bindings are checked before the launch is queued; a mismatch is told to the caller (status 2) and
nothing else happens. A full ring makes Umarek wait. Of a block that cannot be read it checks nothing and queues the launch: the
spec does not say. DESIGN CHOICE, log 103. -/
def State.umarek? (s : State) (d st : Nat) (block : DWord) (seq : Word) (serial : Bool) : Option State :=
  let q := s.stream d st
  if 16 ≤ st || (q.wridx + 1) % 31 = q.rdidx || s.modules = 0 || (s.vd d).resetting.isSome then none
  else
    let b := (s.engRead d block.toNat 512).map fun bs => blockOf (natOf bs)
    if (match b with | some b => !s.bindsOk d b | none => false) then some { s with reply := [[2]] }
    else
      let e := bytesOf 8 block.toNat ++ bytesOf 4 seq.toNat ++ bytesOf 52 (if serial then 1 else 0)
      let off := 0x8000 + 0x800 * st + 0x40 + 0x40 * q.wridx
      (s.hostWrite? d fun s => (s.putRaws ⟨.cmd d, off⟩ (e.map fun x => (x, false))).modStream d st fun q =>
        ({ q with wridx := (q.wridx + 1) % 31 }).receive).map fun (s : State) => { s with reply := [[0]] }

def execUmarekLaunch (vd stream : Nat) (block : DWord) (seq : Word) (serial : Bool) (s : State) :
    Host.Outcome State Fault Refusal :=
  event s (s.umarek? vd stream block seq serial)

/-- RECORDING_SET (R410). -/
def execRecordingSet (vd : Nat) (on : Bool) (s : State) : Host.Outcome State Fault Refusal :=
  event s (s.table? vd fun v => { v with recording := on })

/-- RERUN (R410): the log is submitted to one stream, each launch SERIAL, and wakes the device as a launch of the host does
(R405). -/
def execRerun (vd stream : Nat) (s : State) : Host.Outcome State Fault Refusal :=
  event s (if stream < 16 then
    s.table? vd fun v => { v.wake s.time with rerun := v.rerun ++ v.log.map fun (e : LogEnt) => { e with stream := stream } } else none)

/-! ## Translation changes (R154, R160) -/

/-- A level-3 table may stand there: 4 KiB, aligned to them, in the partition's stacks (R150, R399). -/
def State.rootIn (s : State) (part root : Nat) : Bool := root % 4096 = 0 && hbmOk root 4096 && s.partOf root == some part

/-- ROOT_CHANGE: the generation advances. -/
def execRootChange (vd : Nat) (tag : Byte) (root : Nat) (s : State) : Host.Outcome State Fault Refusal :=
  event s (if !s.rootIn (s.vd vd).part root then none else s.table? vd fun v =>
    if v.roots.any fun r => r.tag == tag
    then { v with roots := v.roots.map fun r => if r.tag == tag then { r with root := root, gen := r.gen + 1 } else r }
    else { v with roots := v.roots ++ [⟨tag, root, 0⟩] })

/-- An access of the device that may have been translated with the page's entry: one to the same 512 MiB of the tag, or
an engine's, whose places no longer name their pages. -/
def State.usesPage (s : State) (d : Nat) (tag : Byte) (off : Nat) : Bool :=
  s.flight.any fun o => s.opVd o == some d && (o.kind.isEngine || o.isMaint || o.accs.any fun a =>
    a.va.toNat / 2 ^ 64 == tag.toNat && (tag == 0x02 || a.va.toNat % 2 ^ 64 / 2 ^ 29 == off / 2 ^ 29))

/-- Moves that the leaf's new address ends: every chunk is copied (R403). -/
def State.endMove (s : State) (pa : Nat) : State :=
  { s with moves := s.moves.filter fun m => !(m.copied = 0xFFFF && m.dst == pa / 65536) }

/-- TLB_INVALIDATE: done when every access translated with the old entry is performed. -/
def State.invalidate? (s : State) (d : Nat) (tag : Byte) (off : Nat) : Option State :=
  if !(s.vd d).live || s.usesPage d tag off then none
  else
    let s : State := { s with tlb := s.tlb.filter fun t => !(t.vd == d && t.tag == tag
        && t.page == (if t.big then off / 2 ^ 29 else off / 2 ^ 16)) }
    some (match s.leaf engineCore d tag off with
      | some (1, e) => (List.range 8192).foldl (fun s i => s.endMove (ptePa e + 65536 * i)) s
      | some (_, e) => s.endMove (ptePa e)
      | none => s)

def execTlbInvalidate (vd : Nat) (tag : Byte) (off : DWord) (s : State) : Host.Outcome State Fault Refusal :=
  event s (s.invalidate? vd tag off.toNat)

/-- The address of the leaf's entry. -/
def State.leafAt (s : State) (d : Nat) (off : Nat) : List (Nat × Nat × Nat) → Nat → Option Nat
  | [], _ => none
  | (_, lo, n) :: rest, table =>
    let a := table + field off lo n * 8
    let e := s.load64 a
    if field e 0 1 = 0 then none else if field e 1 1 = 1 then some a else s.leafAt d off rest (ptePa e)

/-- Bytes of a tier-1 page as it is stored (R159). -/
def State.storedLen (s : State) (lvl e : Nat) : Nat :=
  if field e 54 1 = 0 then (if lvl = 1 then 2 ^ 29 else 65536)
  else ((s.rangeEnt none (field e 55 4)).map (s.imageLen true (ptePa e))).getD 0

/-- Is the line one of n bytes of HBM from `a`, or a decoded one of an image that may reach into them (R159)? -/
def Loc.near (l : Loc) (a n : Nat) : Bool :=
  match l.sp with
  | .phys => a < l.a + 128 && l.a < a + n
  | .fmt => let pa := l.a / 65536 % 2 ^ 54; l.a / 2 ^ 74 = 0 && pa < a + n && a < pa + 131072
  | _ => false

/-- The lines of n bytes of HBM. -/
def linesAt (a n : Nat) : List Loc := (List.range ((a % 128 + n + 127) / 128)).map fun i => ⟨.phys, (a / 128 + i) * 128⟩

/-- Bytes of HBM are about to be written behind the LLC: the host's halves come back, and what the LLC and the cores hold of the
lines, or of images that stood there, goes. -/
def State.behindWrite (s : State) (a n : Nat) : State :=
  let s := (linesAt a n).foldl (fun s l0 => let l := s.fwd l0; ((s.recall l).llcClean l).llcDrop l) s
  let s := (s.llc.filter fun e => e.line.near a n).foldl (fun s e => s.llcDrop e.line) s
  (s.copies.filter fun c => c.line.near a n).foldl (fun s c => s.dropCopy c.holder c.line) s

/-- PAGER_PROMOTE (R160): the image is copied as it is, to HBM, where the decoding of a formatted page reads it, the leaf
rewritten with TIER 0, the page invalidated, once no request of the host for what it holds there is in flight (R382). Where the range entries differ the page stays in tier 1. -/
def State.promote? (s : State) (d off newPa : Nat) : Option State :=
  match s.rootOf d 0x01 with
  | none => none
  | some rt =>
    match s.walk d 0x01 off levels rt.root, s.leafAt d off levels rt.root with
    | some (lvl, e), some a =>
      let fri := field e 55 4
      let cfg (r : Option RangeEnt) : Option (DWord × DWord × DWord) := r.map fun r => (r.ctl, r.base, r.limit)
      let same := field e 54 1 = 0 || cfg (s.rangeEnt none fri) == cfg (s.rangeEnt (some (newPa / 2 ^ 37)) fri)
      let e' := e - field e 6 48 * 64 + newPa / 128 * 128
      let n := s.storedLen lvl e
      let met := (linesAt newPa n).any fun l => s.snoopBlocked l true || s.snoopBlocked (l.plus 64) true
      if field e 6 1 = 0 || !same || !(s.vd d).live || !s.pagesIn (s.vd d).part (pagesOf newPa n) || met then none
      else
        let s := (List.range n).foldl (fun s i =>
          let b := s.homeByte ⟨.tier1, ptePa e + i⟩
          s.putHbm (s.fwd ⟨.phys, newPa + i⟩) b.1 b.2) (s.behindWrite newPa n)
        if !s.leafOk 0x01 lvl e' then none
        else (s.homePuts ⟨.phys, a⟩ ((bytesOf 8 e').map fun b => (b, false))).invalidate? d 0x01 off
    | _, _ => none

def execPagerPromote (vd : Nat) (off : DWord) (newPa : Nat) (s : State) : Host.Outcome State Fault Refusal :=
  event s (s.promote? vd off.toNat newPa)

/-- HOST_ACCESS_WINDOW_GRANT (R152): the windows, as the host grants them through CXL, not in recovery (R408). They count in whole
lines of 128 bytes, which is what the package fetches: a line that is granted in part is not. DESIGN CHOICE, log 120. -/
def execHostAccessWindowGrant (windows : List (Nat × Nat)) (s : State) : Host.Outcome State Fault Refusal :=
  event s (if s.recovery then none
    else some { s with windows := windows.map fun w => ((w.1 + 127) / 128 * 128, w.2 / 128 * 128) })

/-- FABRIC_RATE_CAP (R388, R407): lowered only. -/
def execFabricRateCap (vd cap : Nat) (s : State) : Host.Outcome State Fault Refusal :=
  event s (match (s.vd vd).cap with
    | some c => if cap ≤ c then s.table? vd fun v => { v with cap := some cap } else none
    | none => s.table? vd fun v => { v with cap := some cap })

/-! ## Partitions and virtual devices (R399, R400, R409) -/

/-- Whole dies that form a rectangle of the grid (R12, R399). -/
def rectangle (ds : List Nat) : Bool :=
  let rows := (ds.map (· / 4)).eraseDups
  let cols := (ds.map (· % 4)).eraseDups
  let lo := cols.foldl min 4
  !ds.isEmpty && decide ds.Nodup && rows.length * cols.length == ds.length
    && (List.range cols.length).all fun i => cols.contains (lo + i)

/-- The ten bridges between C-dies: rows, then columns (R12). -/
def bridges : List (Nat × Nat) :=
  [(0, 1), (1, 2), (2, 3), (4, 5), (5, 6), (6, 7), (0, 4), (1, 5), (2, 6), (3, 7)]

/-- SET_PARTITIONS (R399, R400, R409): every die in exactly one rectangle; a C-die bridge is open only inside one, and
locked until the next start. What a bridge has counted stays. -/
def execSetPartitions (parts : List (List Nat)) (s : State) : Host.Outcome State Fault Refusal :=
  event s (
    let all := parts.flatten
    if s.started && !s.recovery && s.partitions.isEmpty && parts.all rectangle && decide all.Nodup && all.length == 8
        && all.all fun (d : Nat) => d < 8 then
      some { s with partitions := parts, firewall := s.firewall.mapIdx fun i f => match bridges[i]? with
        | some b => { f with opened := parts.any fun p => p.contains b.1 && p.contains b.2, lock := true }
        | none => f }
    else none)

/-- CREATE_VD (R409 step 6): partition, wake class, slice of 250 µs to 100 ms, 2 ms where none is given (R402), key, page tables, pools, context area
and overflow store, all in the partition's stacks (R399). Its command region is as at reset. -/
def execCreateVd (p : VdParams) (s : State) : Host.Outcome State Fault Refusal :=
  event s (
    let slice := if p.slice = 0 then 2000000 else p.slice
    if s.recovery || 64 ≤ p.vd || (s.vd p.vd).live || s.partitions.length ≤ p.part || slice % 250000 ≠ 0
        || slice < 250000 || 100000000 < slice || !p.roots.all (s.rootIn p.part)
        || !s.pagesIn p.part (p.pages ++ p.context ++ p.overflowAt ++ (p.pool ++ p.nodePool).map (· / 65536))
    then none
    else
      let roots : List Root := [(0x00, 0), (0x01, 1), (0x02, 2), (0xF0, 3)].map fun (t : Byte × Nat) =>
        ⟨t.1, p.roots.getD t.2 0, 0⟩
      let v : Vd := { live := true, part := p.part, cls := p.cls, slice := slice, roots := roots, pool := p.pool
                      nodePool := p.nodePool, pages := p.pages, context := p.context, ovfPages := p.overflowAt
                      ovfCap := p.overflow, key := s.keys + 1, idleFrom := s.time }
      some { s.zero ⟨.cmd p.vd, 0⟩ 65536 with keys := s.keys + 1, vds := s.vds.set p.vd v })

/-! ## Moving memory (R403) -/

/-- The pages of a 512 MiB slice. -/
def slicePages (n : Nat) : List Nat := (List.range 8192).map (n * 8192 + ·)

/-- MEMORY_SLICE_MOVE: from a slice to a free one of another partition, which the mover's partition owns from then on.
The first page begins to drain at once, the others (chunk 17) wait. -/
def execMemorySliceMove (src dst : Nat) (s : State) : Host.Outcome State Fault Refusal :=
  event s (
    let ok (n : Nat) : Bool := hbmOk (n * 2 ^ 29) (2 ^ 29)
    let moving := s.moves.any fun m => [m.src / 8192, m.dst / 8192].any fun x => x == src || x == dst
    match s.partOf (src * 2 ^ 29), s.partOf (dst * 2 ^ 29) with
    | some p, some q =>
      if p = q || !ok src || !ok dst || moving
          || s.vds.any fun v => v.live && v.pages.any fun g => g / 8192 == dst then none
      else some { s with
        moves := s.moves ++ (slicePages src).mapIdx fun i g => ⟨g, dst * 8192 + i, 0, if i = 0 then 0 else 17, false⟩
        owners := (dst, p) :: s.owners.filter fun o => o.1 != dst }
    | _, _ => none)

/-- The lines of a chunk. -/
def chunkLines (page chunk : Nat) : List Loc := (List.range 32).map fun i => ⟨.phys, page * 65536 + chunk * 4096 + i * 128⟩

/-- CHUNK_BUSY: a draining chunk on which no lease remains; the host's halves come back to the home, once no request of the host
for one is in flight (R382). -/
def State.chunkBusy? (s : State) (page : Nat) : Option State :=
  match s.moves.find? fun m => m.src == page with
  | none => none
  | some m =>
    let ls := chunkLines page m.chunk
    let met := ls.any fun l => s.snoopBlocked l true || s.snoopBlocked (l.plus 64) true
    if m.busy || 16 ≤ m.chunk || !(ls.all fun l => s.leasesPast engineCore l) || met then none
    else
      let s := ls.foldl (fun s l => s.recall l) s
      some { s with moves := s.moves.map fun x => if x.src = page then { x with busy := true } else x }

def execChunkBusy (page : Nat) (s : State) : Host.Outcome State Fault Refusal := event s (s.chunkBusy? page)

/-- A tree's nodes lie in one slice of HBM. -/
def Tree.inSlice (t : Tree) : Bool := t.base / 2 ^ 29 == (t.base + 64 * t.cap - 1) / 2 ^ 29

/-- The tables that name HBM pages follow a page that has moved; a tree with its first page, unless it reaches beyond the slice. -/
def Vd.follow (v : Vd) (src dst : Nat) : Vd :=
  let f (a : Nat) : Nat := if a / 65536 = src then dst * 65536 + a % 65536 else a
  let page (g : Nat) : Nat := if g = src then dst else g
  { v with
    pool := v.pool.map f, nodePool := v.nodePool.map f, pages := v.pages.map page, context := v.context.map page
    ovfPages := v.ovfPages.map page, roots := v.roots.map fun r => { r with root := f r.root }
    trees := v.trees.map fun p => if p.2.inSlice then (p.1, { p.2 with base := f p.2.base }) else p
    deferred := v.deferred.map fun e => match e.act with | .pages ps => { e with act := .pages (ps.map f) } | _ => e
    rinks := v.rinks.map fun p => (p.1, { p.2 with
      pages := p.2.pages.map fun e => (e.1, e.2.1, f e.2.2), kept := p.2.kept.map f, stbase := f p.2.stbase
      stale := p.2.stale.map f, old := p.2.old.map fun o => { o with page := f o.page } }) }

/-- CHUNK_COPIED: 4 KiB stand at the new location; after the last chunk the next page begins. -/
def State.chunkCopied? (s : State) (page : Nat) : Option State :=
  match s.moves.find? fun m => m.src == page with
  | none => none
  | some m =>
    if !m.busy then none
    else
      let ls := chunkLines page m.chunk
      let s := ls.foldl (fun s l => (s.llcClean l).llcDrop l) s
      let s := (chunkLines m.dst m.chunk).foldl (fun s l => s.llcDrop l) s
      let s := (List.range 4096).foldl (fun s i =>
        let o := m.chunk * 4096 + i
        let b := s.hbm ⟨.phys, page * 65536 + o⟩
        s.putHbm ⟨.phys, m.dst * 65536 + o⟩ b.1 b.2) s
      let m' : Move := { m with copied := m.copied ||| (1#16 <<< m.chunk), chunk := m.chunk + 1, busy := false }
      let s := { s with moves := s.moves.map fun x => if x.src = page then m' else x }
      if m'.chunk < 16 then some s
      else
        let next := (s.moves.find? fun x => x.chunk == 17 && x.src / 8192 == page / 8192).map (·.src)
        some { s with
          moves := s.moves.map fun x => if some x.src = next then { x with chunk := 0 } else x
          steals := s.steals.map fun x => { x with copied := x.copied.map fun c =>
            let f (a : Nat) : Nat := if a / 65536 = page then m.dst * 65536 + a % 65536 else a
            (c.1, c.2.1, f c.2.2.1, f c.2.2.2) }
          vds := s.vds.map fun v => v.follow page m.dst }

def execChunkCopied (page : Nat) (s : State) : Host.Outcome State Fault Refusal := event s (s.chunkCopied? page)

/-! ## Scrubbing, errors, clocks -/

/-- A marked page is zero-filled and its mark cleared. -/
def State.scrub (s : State) (page : Nat) : State :=
  { s.zero ⟨.phys, page * 65536⟩ 65536 with marked := s.marked.filter (· != page) }

/-- SCRUB (R406). -/
def execScrub (page : Nat) (s : State) : Host.Outcome State Fault Refusal :=
  event s (if s.marked.contains page then some (s.scrub page) else none)

/-- An entry of a FIFO bank whose byte an uncorrectable error meets is poisoned in the byte's lane (R148). Entry i, counted from the
oldest, stands at byte 128 × i of its bank, lane by lane: the spec gives the bank no layout. DESIGN CHOICE, log 123. -/
def State.fifoError (s : State) (key : Nat) : State :=
  let a := key % 2 ^ 128
  if key / 2 ^ 128 ≠ spaceNo .sram then s
  else { s with gangs := s.gangs.map fun g =>
      if g.st == .retired || g.st == .imaged then g
      else { g with banks := g.banks.map fun k =>
        if k.mode == .fifo && (g.die * 20 + g.cluster) * 32 + k.phys == a / 2 ^ 17 then
          { k with entries := k.entries.modify (a % 2 ^ 17 / 128) fun e => { e with poison := e.poison ||| 1#32 <<< (a % 128 / 4) } }
        else k } }

/-- UNCORRECTABLE_ERROR (R148): n bytes from a key of the memory list are marked poisoned, and what of a FIFO bank they are. -/
def execUncorrectableError (key n : Nat) (s : State) : Host.Outcome State Fault Refusal :=
  let t := { s with bad := (List.range n).foldl (fun l i => keyPut l (key + i) true) s.bad }
  .next ((List.range n).foldl (fun s i => s.fifoError (key + i)) t)

/-- The clocks of some islands are set. -/
def State.setClock (s : State) (is : List Nat) (mhz : Nat) : State :=
  { s with islands := is.map (fun i => (i, mhz)) ++ s.islands.filter fun i => !is.contains i.1 }

/-- The frequencies of the cluster islands are bounded from now on: those above are lowered. -/
def State.limit (s : State) (c : Option Nat) : State :=
  match c with
  | none => s
  | some mhz =>
    let fast := (List.range 40).filter fun i => mhz < ((s.islands.find? fun x => x.1 == i).map (·.2)).getD 2250
    { s.setClock fast mhz with ceiling := some mhz }

/-- POWER_CEILING (R15): frequencies are lowered; no work is dropped. Which islands a ceiling that is reached lowers, and how
far, the spec does not say: here every cluster island is bounded by one frequency. The bound may go down and not up until the next
start, which sets it from the record (R407); in recovery nothing changes it (R408). DESIGN CHOICE, log 102. -/
def execPowerCeiling (mhz : Nat) (s : State) : Host.Outcome State Fault Refusal :=
  event s (if 500 ≤ mhz && !s.recovery && mhz ≤ s.ceiling.getD mhz then some (s.limit (some mhz)) else none)

/-- An island is gated by a lodged device alone in its partition (R404). -/
def State.gated (s : State) (island : Nat) : Bool :=
  (List.range 64).any fun d => (s.vd d).live && 2 ≤ (s.vd d).lodge && s.alone d && (s.islandsOf d).contains island

/-- ISLAND_FREQUENCY_CHANGE (R14): a cluster island, 5 × die + i with clusters 4i to 4i + 3, runs at 500 MHz to 2.25 GHz, under
the ceiling; the spec bounds no clock of the other 24 islands. -/
def execIslandFrequencyChange (island mhz : Nat) (s : State) : Host.Outcome State Fault Refusal :=
  event s (
    let ok := island < 40 && 500 ≤ mhz && mhz ≤ 2250 && mhz ≤ s.ceiling.getD 2250 || 40 ≤ island && island < 64
    if ok && !s.gated island then some (s.setClock [island] mhz) else none)

/-! ## Starts (R408, R409) -/

/-- Bytes that are not the package's own: host memory and tier 1. -/
def outside (c : Host.Cell) : Bool :=
  c.1 / 2 ^ 128 == spaceNo .host || c.1 / 2 ^ 128 == spaceNo .tier1

/-- TIME is 0 and each island's copy within 4 ticks of it (R343). -/
def State.freshSkew (s : State) : State :=
  (List.range 64).foldl (fun (s : State) c => { s with
    free := s.free + 1, skew := (c, ((Config.freeWord s.free).toNat % 9 : Nat) - 4) :: s.skew }) s

/-- The binding tables as SYSC writes them from the record: an entry for each of a die's 84 logical units that the record maps
(R270). -/
def Record.table (r : Record) : List BindEnt :=
  r.binds.filter fun b => b.die < 8 && b.unit < 84 && (20 ≤ b.unit || b.phys.toNat < 22)

/-- The bound that the record's power ceilings set (R407, R408): the lowest of them, each as the frequency of the cluster islands
that keeps to it, as the spec gives them no layout. DESIGN CHOICE, log 102. -/
def Record.bound (r : Record) : Option Nat := r.ceilings.min?

/-- POWER_GOOD (R409 steps 1-4): the record, where it and the firmware verify (R407, R408), gives the binding tables; without
one the package is in recovery. `modules`: those that train. What happens next outside and the model's own fields go on. -/
def execPowerGood (record : Option Record) (modules : BitVec 4) (s : State) : Host.Outcome State Fault Refusal :=
  .next (({ State.reset with
    pace := s.pace, inputs := s.inputs, turns := s.turns, evTurn := s.evTurn, free := s.free, seq := s.seq
    mem := s.mem.filter outside, started := record.isSome, recovery := record.isNone, modules := modules
    record := record, binding := (record.map Record.table).getD [] } : State).freshSkew.limit (record.bind Record.bound))

/-- WARM_START (R409): every device is ended as by a soft reset; power, TIME, HBM and what is marked kept stay, the binding tables
among it (R6, R270); the record is verified again and sets the power ceilings (R407), and steps 4 to 6 follow. -/
def execWarmStart (record : Option Record) (modules : BitVec 4) (s : State) : Host.Outcome State Fault Refusal :=
  .next (
    let s := (List.range 64).foldl (fun s d =>
      if (s.vd d).live then ((s.stopVd d).resetEnd d false).modVd d fun _ => {} else s) s
    let s := s.copies.foldl (fun s c => s.dropCopy c.holder c.line) s
    ({ s with started := record.isSome, recovery := record.isNone, modules := modules, record := record
              partitions := [], slices := [], pfWr := 0, pfRd := 0, pfHeld := [], firewall := State.reset.firewall
              tlb := [], sectors := [], views := [], ranges := [], owners := [], ceiling := none } : State).limit
      (record.bind Record.bound))

/-- RECOVERY_IMAGE (R408): only an image that verifies ends recovery, which goes on with the record that is then on the module:
SYSC writes the binding tables from it, unless a warm start kept them, and the power ceilings. -/
def execRecoveryImage (image : Option Record) (s : State) : Host.Outcome State Fault Refusal :=
  event s (match image with
    | some r =>
      if s.recovery then
        let t : State := { s with
          recovery := false, started := true, record := some r
          binding := if s.binding.isEmpty then Record.table r else s.binding }
        some (t.limit (Record.bound r))
      else none
    | none => none)

end Sys2Proof.Machine
end

