-- ==== Sys2Proof/Machine/Dmt.lean ====
section
/-! DEFINITION. The debugger dmt (R412, R413, R418, R421, R425, R428). What it prints goes to State.reply; a print changes
nothing else. -/
namespace Sys2Proof.Machine

/-- dmt is attached by the commands that act on the device (R352). -/
def State.attach? (s : State) (d : Nat) (f : Vd → Vd) : Option State := s.table? d fun v => f { v with dmt := true }

/-- A print. -/
def State.say (s : State) (r : List (List Nat)) : Host.Outcome State Fault Refusal := .next { s with reply := r }

/-! ## Loading and launching (R413, R418) -/

/-- Bytes written at their homes to tag-0x00 pages that allow `p`; none where one does not. -/
def State.place? (s : State) (d a : Nat) (bs : List Byte) (p : Perm) : Option State :=
  ((List.range bs.length).mapM fun i => s.engLoc d (a + i) p).map fun ls =>
    (ls.zip bs).foldl (fun s x => s.homePut x.1 x.2) s

/-- The task types of an object are loaded, and its addresses noted where its stop reports are to give offsets. -/
def Vd.loaded (v : Vd) (code : Nat) (o : DmtObject) : Vd :=
  let w := o.types.foldl (fun v t => v.typed t.1 t.2) v
  if o.offsets then { w with kernels := (code + o.first, code + o.bytes.length) :: w.kernels } else w

/-- DMT_LOAD: the object's bytes, its recipe table first, to a page with X, the data image to a page with R and W at a 128-byte
boundary; the task types to the device's table. Printed: code bytes, roles, `.regs`, tiles, bindings, recipes. -/
def execDmtLoad (vd code : Nat) (bytes : DmtObject) (data : Nat) (image : List Byte) (s : State) :
    Host.Outcome State Fault Refusal :=
  event s (if data % 128 ≠ 0 then none
    else match s.attach? vd fun v => v.loaded code bytes with
      | none => none
      | some s => match s.place? vd code bytes.bytes .x with
        | none => none
        | some s => (s.place? vd data image .rw).map fun (s : State) => { s with
            reply := [[bytes.bytes.length - bytes.first, bytes.roles, bytes.regs, bytes.tiles, bytes.bindings, bytes.recipes]] })

/-- DMT_LAUNCH: the block it has built is stored at `addr` and queued through Umarek. -/
def execDmtLaunch (vd stream : Nat) (block : List Byte) (addr : DWord) (seq : Word) (s : State) :
    Host.Outcome State Fault Refusal :=
  event s (match s.attach? vd id with
    | none => none
    | some s => match s.place? vd addr.toNat block .rw with
      | none => none
      | some s => s.umarek? vd stream addr seq false)

/-! ## Stopping and resuming waves (R413, R425) -/

/-- DMT_BREAK: for one wave, or for all. -/
def execDmtBreak (vd : Nat) (at_ : DWord) (w : Option Nat) (s : State) : Host.Outcome State Fault Refusal :=
  event s (s.attach? vd fun v => { v with breaks := v.breaks ++ [(at_, w)] })

/-- A wave that dmt holds goes on; one suspended to dmt by BKPT or WATCH resumes (R352, R356). -/
def Wave.dmtGo (w : Wave) : Wave :=
  let c : Byte := w.trapc.setWidth 8
  let x := match w.mode with
    | .suspended f _ => if c = cBKPT || c = cWATCH then w.resume f else w
    | _ => w
  { x with dmtStop := none }

/-- DMT_RUN: `run` and `cont`, of one wave or of all. -/
def execDmtRun (vd : Nat) (w : Option Nat) (s : State) : Host.Outcome State Fault Refusal :=
  event s ((s.attach? vd id).map fun (s : State) => { s with waves := s.waves.mapIdx fun i x =>
    if (s.gang x.gang).vd = vd && (w.isNone || w == some i) then x.dmtGo else x })

/-- DMT_STEP: n issue units of a stopped wave. -/
def execDmtStep (w n : Nat) (s : State) : Host.Outcome State Fault Refusal :=
  event s (if (s.wave w).dmtStop == some 0 then some (s.modWave w fun x => { x with dmtStop := some n }) else none)

/-- DMT_WATCH. -/
def execDmtWatch (vd : Nat) (addr : BitVec 72) (n : Nat) (s : State) : Host.Outcome State Fault Refusal :=
  event s (s.attach? vd fun v => { v with watches := v.watches ++ [(addr, n)] })

/-- DMT_INJECT_PREEMPT: as at a slice end (R365). -/
def execDmtInjectPreempt (vd : Nat) (s : State) : Host.Outcome State Fault Refusal :=
  event s ((s.attach? vd id).map fun s => s.preemptVd vd)

/-- A cause that a wave's unit can raise: ENGINE and PINOVF are no precise faults (R352, R355). -/
def preciseCause (c : Nat) : Bool := 1 ≤ c && c ≤ 0x1B && c != 0x14 && c != 0x15

/-- DMT_INJECT_FAULT: at the wave's next issue unit, with TRAPA = 0. -/
def execDmtInjectFault (w cause : Nat) (s : State) : Host.Outcome State Fault Refusal :=
  event s (if preciseCause cause then some (s.modWave w fun x => { x with inject := some (BitVec.ofNat 8 cause) }) else none)

/-- DMT_VECTOR (R428): ROUTE HANDLER. -/
def execDmtVector (vd cause : Nat) (addr : DWord) (s : State) : Host.Outcome State Fault Refusal :=
  event s (s.table? vd fun v => { v with vectors := v.vectors.set cause (BitVec.ofNat 128 (addr.toNat + 2 ^ 64)) })

/-! ## Registers and waves -/

/-- EMPTY, FULL, POISON as numbers. -/
def RSt.no : RSt → Nat
  | .full => 0
  | .empty => 1
  | .poison => 2

/-- A scalar as dmt prints it: tag:value and state. -/
def SReg.shown (x : SReg) : List Nat := [x.tag.toNat, x.val.toNat, x.st.no]

/-- A vector register: state, poison mask, lanes. -/
def VReg.shown (x : VReg) : List Nat := (if x.empty then 1 else 0) :: x.poison.toNat :: x.lanes.map (·.toNat)

/-- DMT_REGS: scalars 0-63, system registers from 64 on, y registers of a wave in handler mode from 256 on; vectors
0-55, w registers from 256 on. -/
def execDmtRegs (w f : Nat) (scalars vectors : List Nat) (s : State) : Host.Outcome State Fault Refusal :=
  let x := s.wave w
  let t := { s with cur := { s.cur with wave := w, frag := f } }
  let sc (n : Nat) : List Nat :=
    if 256 ≤ n then (if x.handling then (x.y.getD (n - 256) {}).shown else [])
    else if 64 ≤ n then [(t.sysReg (n - 64)).2.toNat, (t.sysReg (n - 64)).1.toNat, 0]
    else if n = 0 then (⟨0, 0, .full⟩ : SReg).shown else ((x.frags.getD f {}).s.getD n {}).shown
  let ve (n : Nat) : List Nat :=
    if 256 ≤ n then (if x.handling then (x.w.getD (n - 256) {}).shown else []) else (x.v.getD n {}).shown
  s.say (scalars.map sc ++ vectors.map ve)

/-- DMT_KPRED. -/
def execDmtKpred (w k : Nat) (s : State) : Host.Outcome State Fault Refusal := s.say [[((s.wave w).pred k).toNat]]

/-- What a parked fragment waits on: a kind, 0 where it is not parked, and the barrier, the generation read, the TIME since which,
the flag or the operation that it names. -/
def Park.shown : Park → List Nat
  | .none => [0]
  | .join => [1]
  | .nbar b => [2, b]
  | .sync g => [3, g]
  | .vx t => [4, t]
  | .wfe f t _ => [5, f, t.getD 0]
  | .task => [6]
  | .data o => [7, o]

/-- What a fragment's next unit waits on: 8, the number of scalar registers and the registers, or 9, something else. -/
def Wait.shown (w : Wait) : List Nat :=
  if w.scalars.isEmpty && w.vectors.isEmpty then [9] else 8 :: w.scalars.length :: (w.scalars ++ w.vectors)

/-- A fragment as dmt lists it: number, depth, pc, and what it waits on, its park or else its next unit's. -/
def Wave.fragShown (w : Wave) (f : Nat) : List Nat :=
  let g := w.frags.getD f {}
  [f, g.depth, (if w.handling then w.hpc else g.pc).toNat] ++ match g.park, w.waits.find? fun x => x.frag == f with
    | .none, some x => x.shown
    | p, _ => p.shown

/-- How a wave runs: 0 running, 1 in a handler, 2 in recompute code, 3 suspended, 4 stopped, 5 exited, 6 held by dmt. -/
def Wave.shown (w : Wave) : Nat :=
  if w.dmtStop == some 0 then 6
  else match w.mode with
    | .run => 0
    | .handler _ => 1
    | .recompute => 2
    | .suspended .. => 3
    | .stopped _ => 4
    | .ended => 5

/-- DMT_WAVES (R425): for each wave its gang, workgroup, index, placement and state, and then a row for each of its fragments. -/
def execDmtWaves (vd : Nat) (s : State) : Host.Outcome State Fault Refusal :=
  s.say ((s.waves.filter fun w => (s.gang w.gang).vd == vd).flatMap fun w =>
    [(s.gang w.gang).index, w.wg, w.idx, w.die, w.cluster, w.core, w.part, w.slot, w.shown] :: w.liveFrags.map w.fragShown)

/-! ## Memory (R412, R421) -/

/-- State of a line at its home: absent 0, clean 1, dirty 2. -/
def State.lineState (s : State) (l : Loc) : Nat :=
  match s.llc.find? fun e => e.line == (s.fwd l).line with
  | none => 0
  | some e => if e.dirty = 0 then 1 else 2

/-- A byte at the home, the host's half left alone. -/
def State.homeSeen (s : State) (l0 : Loc) : Byte :=
  let l := s.fwd l0
  if s.llcHas l then (s.raw ⟨.llc, l.tagged⟩).1
  else match l.sp with
    | .phys | .fmt | .tier1 => (s.behind l).1
    | _ => (s.homeByte l).1

/-- Where dmt finds a byte of a device: on any page that may be read or executed (R412). -/
def State.dmtAt (s : State) (vd : Nat) (addr : BitVec 72) : Option Loc :=
  let look (p : Perm) : Option Loc := match s.translate engineCore vd 0 0 addr p with
    | .ok (.homed l _) => some l
    | _ => none
  (look .r).or (look .x)

/-- The page holds code. -/
def State.dmtCode (s : State) (vd : Nat) (addr : BitVec 72) : Bool :=
  match s.translate engineCore vd 0 0 addr .x with | .ok _ => true | _ => false

/-- DMT_MEM: n elements from addr, each with the state of its line and the value of its bytes there; /hbm prints what HBM holds.
The b32 words of code are followed by their disassembly, which the same step reads off their bytes (`State.disassemble`). -/
def execDmtMem (vd : Nat) (addr : BitVec 72) (n : Nat) (hbm : DmtMemForm) (s : State) : Host.Outcome State Fault Refusal :=
  let at_ (i : Nat) : BitVec 72 := addr + BitVec.ofNat 72 (hbm.size * i)
  let byte (l : Loc) : Byte := if hbm.hbm then (s.hbm (s.fwd l)).1 else s.homeSeen l
  event s (((List.range n).mapM fun i => (List.range hbm.size).mapM fun j => s.dmtAt vd (at_ i + BitVec.ofNat 72 j)).map
    fun (ls : List (List Loc)) => { s with
      reply := ls.map fun e =>
        (if hbm.hbm then [] else [s.lineState (e.headD default)]) ++ [natOf (e.map byte)]
      words := if hbm.size = 4 then (ls.zipIdx.filter fun e => s.dmtCode vd (at_ e.2)).map fun e => e.1.map byte else [] })

/-- The lines of n × 128 bytes of a device, where it reaches them. -/
def State.dmtLines (s : State) (vd : Nat) (addr : BitVec 72) (n : Nat) : Option (List Loc) :=
  (List.range n).mapM fun i => (s.dmtAt vd (addr + BitVec.ofNat 72 (128 * i))).map Loc.line

/-- DMT_MEM_DIR: I 0, S 1, EM 3 of both halves of n lines. -/
def execDmtMemDir (vd : Nat) (addr : BitVec 72) (n : Nat) (s : State) : Host.Outcome State Fault Refusal :=
  event s ((s.dmtLines vd addr n).map fun ls => { s with reply := ls.map fun l =>
    let h := halfOf (s.fwd l).a
    [halfNo (s.dirOf h), halfNo (s.dirOf (h + 1))] })

/-- What caused an exchange, as numbers: 0 the package, 1 the host, 2 an instruction of a wave: wave, order, encoding. -/
def BridgeBy.shown : BridgeBy → List Nat
  | .package => [0, 0, 0, 0]
  | .host => [1, 0, 0, 0]
  | .wave w code ord => [2, w, match ord with | .weak => 0 | .x => 1 | .acq => 2 | .rel => 3 | .ar => 4 | .sc => 5, natOf code]

/-- What the exchange is: 1 host line fetched, 2 BISnpData, 3 BISnpInv, 4 MemRd.S, 5 MemRd.A, 6 MemWr, 7 host snoop. -/
def BridgeAct.no : BridgeAct → Nat
  | .fetch => 1
  | .snpData => 2
  | .snpInv => 3
  | .memRdS => 4
  | .memRdA => 5
  | .memWr => 6
  | .hostSnoop => 7

/-- A record of the trace as dmt prints it (R421): TIME, space and address of the half, cause, exchange, declared change,
directory's change, data. -/
def Exchange.shown (e : Exchange) : List Nat :=
  [e.time, spaceNo e.half.sp, e.half.a] ++ e.cause.shown
    ++ [e.act.no, halfNo e.said.1, halfNo e.said.2, halfNo e.old, halfNo e.new] ++ e.data.map (·.toNat)

/-- DMT_TRACE: it records from now on the exchanges of the lines that overlap n bytes of a device from an address; or it prints the
records (`trace show`). -/
def execDmtTrace (on : Option Nat) (lo : BitVec 72) (n : Nat) (s : State) : Host.Outcome State Fault Refusal :=
  event s (match on with
    | some d => (s.dmtLines d (lo - BitVec.ofNat 72 (lo.toNat % 128)) ((lo.toNat % 128 + n + 127) / 128)).map fun ls =>
        { s with trace := ls, exchanges := [] }
    | none => some { s with reply := s.exchanges.map Exchange.shown })

/-! ## Tables (R425, R428) -/

/-- DMT_SLALOM: the descriptor, then every node with USED = 1. -/
def execDmtSlalom (vd t : Nat) (s : State) : Host.Outcome State Fault Refusal :=
  event s (((s.vd vd).trees.find? fun p => p.1 == t).map fun (p : Nat × Tree) =>
    let b (x : Bool) (n : Nat) : Nat := if x then n else 0
    { s with reply := [p.2.cap, b p.2.rootv 1, p.2.root, p.2.cap - p.2.nodes.length, p.2.c.toNat, p.2.vloss.toNat, p.2.fpu.toNat]
      :: p.2.nodes.map fun n => [n.1, n.2.n.toNat, n.2.w.toNat, n.2.p.toNat, n.2.vl.toNat, n.2.first, n.2.nch,
          n.2.token.toNat, n.2.parent, b n.2.root 1 + b n.2.cut 2 + b n.2.unlinked 4] })

/-- An action as dmt prints it. -/
def Reclaim.shown : Reclaim → List Nat
  | .table a x _ _ => [0, a, x.toNat]
  | .pages ps => 1 :: ps
  | .nodes t is => 2 :: t :: is

/-- DMT_PINS: nonempty pin registers, the overflow store, the deferred entries with bucket, name and action. -/
def execDmtPins (vd : Nat) (s : State) : Host.Outcome State Fault Refusal :=
  let v := s.vd vd
  let pins := (s.gangs.filter fun g => g.vd == vd).flatMap fun g => (List.range g.wgs.length).flatMap fun i =>
    (List.range 8).filterMap fun r =>
      let n := (g.wgs.getD i {}).pins.getD r 0
      if n = 0 then none else some [0, g.index, i, r, n.toNat]
  s.say (pins ++ v.ovf.map (fun e => [1, e.name.toNat, e.gang, e.wg, e.reg])
    ++ v.deferred.map fun e => [2, bucketOf e.name, e.name.toNat] ++ e.act.shown)

/-- The K and V words of head 0 at a position of a layer; none where it has no page (R425). -/
def State.rinkRow (s : State) (r : Rink) (l p : Nat) : List Nat :=
  let words (v : Bool) (pg : Nat) : List Nat :=
    (List.range (r.vb / 4)).map fun j => natOf ((List.range 4).map fun i => s.homeSeen ((r.wordAt pg 0 v p j).plus i))
  [l, p] ++ match r.page l (r.pageIdx p) with
    | some pg => words false pg ++ words true pg
    | none => []

/-- DMT_RINK: the descriptor, NEXT, PAGES, the pool; F and PUB of positions 0-63 of each layer. With a layer, a position and a
count, the K and V words of head 0 at those positions. -/
def execDmtRink (vd : Nat) (h : DmtRinkForm) (s : State) : Host.Outcome State Fault Refusal :=
  event s (((s.vd vd).rink h.rink).map fun (r : Rink) => { s with reply :=
    match h.rows with
    | some (l, p, n) => (List.range n).map fun i => s.rinkRow r l (p + i)
    | none =>
      [r.fmt, r.nlayers, r.nheads, r.hdim, r.ppplog, r.maxpos, r.next, r.held.length, (s.vd vd).pool.length]
        :: (List.range r.nlayers).map fun l => [r.frontier l, r.pub.getD l 0 % 2 ^ 64] })

end Sys2Proof.Machine
end

