-- ==== Sys2Proof/Machine/Scalar.lean ====
section
/-! DEFINITION. Predicate operations and scalar arithmetic (majors 0x18 to 0x1D; R115-R120). -/
namespace Sys2Proof.Machine

/-! ## Predicate operations (R115) -/

/-- A predicate operation writes every bit of the lane set (R97). -/
def State.kop (s : State) (kd : Nat) (v : Word) : Act State := s.writeK kd s.laneSet v

/-! ## Scalar forms -/

/-- Two scalar sources, the result with its tag. -/
def State.sbin (s : State) (sd sa sb : Nat) (op : SReg → SReg → DWord × Byte) : Act State := do
  [sd, sa, sb].forM s.checkS
  let xs ← s.readSs [sa, sb]
  let r := op (xs.getD 0 {}) (xs.getD 1 {})
  .ok (s.writeS sd r.1 r.2)

/-- One scalar source. -/
def State.suna (s : State) (sd sa : Nat) (op : SReg → DWord × Byte) : Act State := do
  [sd, sa].forM s.checkS
  let x ← s.readS sa
  let r := op x
  .ok (s.writeS sd r.1 r.2)

/-- The scalar ALU: 64 bits, or 32 bits with the result sign-extended (R116). -/
def State.salu (s : State) (f : SW3) (op : DWord → DWord → DWord) (opw : Word → Word → Word) : Act State :=
  s.sbin f.sd.toNat f.sa.toNat f.sb.toNat fun a b =>
    (if f.w = 1 then (opw (a.val.setWidth 32) (b.val.setWidth 32)).signExtend 64 else op a.val b.val, 0)

/-- A compare of two scalars: 1 or 0 with tag 0 (R120). -/
def State.scmp (s : State) (f : S3) (op : SReg → SReg → Bool) : Act State :=
  s.sbin f.sd.toNat f.sa.toNat f.sb.toNat fun a b => (if op a b then 1 else 0, 0)

/-- Immediate forms of major 0x1A (R117). -/
def State.simm (s : State) (f : SI) (op : DWord → DWord) : Act State :=
  s.suna f.sd.toNat f.sa.toNat fun a => (op a.val, 0)

def sMulHiS {w : Nat} (a b : BitVec w) : BitVec w := BitVec.ofInt w (a.toInt * b.toInt / 2 ^ w)
def sMulHiZ {w : Nat} (a b : BitVec w) : BitVec w := BitVec.ofNat w (a.toNat * b.toNat / 2 ^ w)
def sMinS {w : Nat} (a b : BitVec w) : BitVec w := if a.slt b then a else b
def sMaxS {w : Nat} (a b : BitVec w) : BitVec w := if a.slt b then b else a
/-- All ones when the divisor is 0. -/
def sDivZ {w : Nat} (a b : BitVec w) : BitVec w := if b = 0 then BitVec.allOnes w else a / b
/-- a when the divisor is 0. -/
def sRemZ {w : Nat} (a b : BitVec w) : BitVec w := if b = 0 then a else a % b
/-- Shift counts are b[5:0], or b[4:0] at width 32. -/
def sShl {w : Nat} (a b : BitVec w) : BitVec w := a <<< (b.toNat % w)
def sShrZ {w : Nat} (a b : BitVec w) : BitVec w := a >>> (b.toNat % w)
def sShrS {w : Nat} (a b : BitVec w) : BitVec w := a.sshiftRight (b.toNat % w)
/-- Leading zeros: the width less the place of the highest 1 bit. -/
def sClz {w : Nat} (a : BitVec w) : BitVec w := BitVec.ofNat w (w - (if a.toNat = 0 then 0 else a.toNat.log2 + 1))

/-- Replace 16 bits at `lo` (SMOVH16, SMOVH32, SMOVH48). -/
def place16 (v : DWord) (lo : Nat) (i : BitVec 16) : DWord :=
  (v &&& ~~~ (0xFFFF#64 <<< lo)) ||| (i.setWidth 64 <<< lo)

/-! ## The instructions -/

/-- KAND kd, ka, kb (R115). -/
def execKand (f : S3) (s : State) : Host.Outcome State Fault Refusal :=
  finishDone s (
    let a := s.cw.pred f.sa.toNat
    let b := s.cw.pred f.sb.toNat
    s.kop f.sd.toNat (a &&& b))

/-- KOR kd, ka, kb (R115). -/
def execKor (f : S3) (s : State) : Host.Outcome State Fault Refusal :=
  finishDone s (
    let a := s.cw.pred f.sa.toNat
    let b := s.cw.pred f.sb.toNat
    s.kop f.sd.toNat (a ||| b))

/-- KXOR kd, ka, kb (R115). -/
def execKxor (f : S3) (s : State) : Host.Outcome State Fault Refusal :=
  finishDone s (
    let a := s.cw.pred f.sa.toNat
    let b := s.cw.pred f.sb.toNat
    s.kop f.sd.toNat (a ^^^ b))

/-- KANDN kd, ka, kb (R115). -/
def execKandn (f : S3) (s : State) : Host.Outcome State Fault Refusal :=
  finishDone s (
    let a := s.cw.pred f.sa.toNat
    let b := s.cw.pred f.sb.toNat
    s.kop f.sd.toNat (a &&& ~~~ b))

/-- KNOT kd, ka (R115). -/
def execKnot (f : S2) (s : State) : Host.Outcome State Fault Refusal :=
  finishDone s (s.kop f.sd.toNat (~~~ s.cw.pred f.sa.toNat))

/-- KFROMS kd, sa (R115). -/
def execKfroms (f : S2) (s : State) : Host.Outcome State Fault Refusal :=
  finishDone s do
    need (!s.cw.handling) s cILL
    let x ← s.readS f.sa.toNat
    s.kop f.sd.toNat (x.val.setWidth 32)

/-- KTOS sd, ka (R115). -/
def execKtos (f : S2) (s : State) : Host.Outcome State Fault Refusal :=
  finishDone s do
    s.checkS f.sd.toNat
    .ok (s.writeS f.sd.toNat ((s.cw.pred f.sa.toNat).setWidth 64))

/-- KPOPC sd, ka (R115). -/
def execKpopc (f : S2) (s : State) : Host.Outcome State Fault Refusal :=
  finishDone s do
    s.checkS f.sd.toNat
    .ok (s.writeS f.sd.toNat (BitVec.ofNat 64 (popcount (s.cw.pred f.sa.toNat))))

/-- SADD sd, sa, sb and its .w form (R116). -/
def execSadd (f : SW3) (s : State) : Host.Outcome State Fault Refusal :=
  finishDone s (s.salu f (· + ·) (· + ·))

/-- SSUB sd, sa, sb and its .w form (R116). -/
def execSsub (f : SW3) (s : State) : Host.Outcome State Fault Refusal :=
  finishDone s (s.salu f (· - ·) (· - ·))

/-- SMUL sd, sa, sb and its .w form (R116). -/
def execSmul (f : SW3) (s : State) : Host.Outcome State Fault Refusal :=
  finishDone s (s.salu f (· * ·) (· * ·))

/-- SMULHS sd, sa, sb and its .w form (R116). -/
def execSmulhs (f : SW3) (s : State) : Host.Outcome State Fault Refusal :=
  finishDone s (s.salu f sMulHiS sMulHiS)

/-- SMULHZ sd, sa, sb and its .w form (R116). -/
def execSmulhz (f : SW3) (s : State) : Host.Outcome State Fault Refusal :=
  finishDone s (s.salu f sMulHiZ sMulHiZ)

/-- SAND sd, sa, sb and its .w form (R116). -/
def execSand (f : SW3) (s : State) : Host.Outcome State Fault Refusal :=
  finishDone s (s.salu f (· &&& ·) (· &&& ·))

/-- SOR sd, sa, sb and its .w form (R116). -/
def execSor (f : SW3) (s : State) : Host.Outcome State Fault Refusal :=
  finishDone s (s.salu f (· ||| ·) (· ||| ·))

/-- SXOR sd, sa, sb and its .w form (R116). -/
def execSxor (f : SW3) (s : State) : Host.Outcome State Fault Refusal :=
  finishDone s (s.salu f (· ^^^ ·) (· ^^^ ·))

/-- SSHL sd, sa, sb and its .w form (R116). -/
def execSshl (f : SW3) (s : State) : Host.Outcome State Fault Refusal :=
  finishDone s (s.salu f sShl sShl)

/-- SSHRZ sd, sa, sb and its .w form (R116). -/
def execSshrz (f : SW3) (s : State) : Host.Outcome State Fault Refusal :=
  finishDone s (s.salu f sShrZ sShrZ)

/-- SSHRS sd, sa, sb and its .w form (R116). -/
def execSshrs (f : SW3) (s : State) : Host.Outcome State Fault Refusal :=
  finishDone s (s.salu f sShrS sShrS)

/-- SMINS sd, sa, sb and its .w form (R116). -/
def execSmins (f : SW3) (s : State) : Host.Outcome State Fault Refusal :=
  finishDone s (s.salu f sMinS sMinS)

/-- SMAXS sd, sa, sb and its .w form (R116). -/
def execSmaxs (f : SW3) (s : State) : Host.Outcome State Fault Refusal :=
  finishDone s (s.salu f sMaxS sMaxS)

/-- SDIVZ sd, sa, sb and its .w form (R116). -/
def execSdivz (f : SW3) (s : State) : Host.Outcome State Fault Refusal :=
  finishDone s (s.salu f sDivZ sDivZ)

/-- SREMZ sd, sa, sb and its .w form (R116). -/
def execSremz (f : SW3) (s : State) : Host.Outcome State Fault Refusal :=
  finishDone s (s.salu f sRemZ sRemZ)

/-- SCLZ sd, sa and its .w form (R116). -/
def execSclz (f : SW2) (s : State) : Host.Outcome State Fault Refusal :=
  finishDone s (s.suna f.sd.toNat f.sa.toNat fun a =>
    (if f.w = 1 then (sClz (a.val.setWidth 32)).signExtend 64 else sClz a.val, 0))

/-- SADDI sd, sa, imm (R117). -/
def execSaddi (f : SI) (s : State) : Host.Outcome State Fault Refusal :=
  finishDone s (
    let i := s.immSI f.imm
    s.simm f fun a => a + i)

/-- SANDI sd, sa, imm (R117). -/
def execSandi (f : SI) (s : State) : Host.Outcome State Fault Refusal :=
  finishDone s (
    let i := s.immSIz f.imm
    s.simm f fun a => a &&& i)

/-- SORI sd, sa, imm (R117). -/
def execSori (f : SI) (s : State) : Host.Outcome State Fault Refusal :=
  finishDone s (
    let i := s.immSIz f.imm
    s.simm f fun a => a ||| i)

/-- SXORI sd, sa, imm (R117). -/
def execSxori (f : SI) (s : State) : Host.Outcome State Fault Refusal :=
  finishDone s (
    let i := s.immSIz f.imm
    s.simm f fun a => a ^^^ i)

/-- SSHLI sd, sa, imm (R117). -/
def execSshli (f : SI) (s : State) : Host.Outcome State Fault Refusal :=
  finishDone s (
    let i := s.immSIz f.imm
    s.simm f fun a => sShl a i)

/-- SSHRZI sd, sa, imm (R117). -/
def execSshrzi (f : SI) (s : State) : Host.Outcome State Fault Refusal :=
  finishDone s (
    let i := s.immSIz f.imm
    s.simm f fun a => sShrZ a i)

/-- SSHRSI sd, sa, imm (R117). -/
def execSshrsi (f : SI) (s : State) : Host.Outcome State Fault Refusal :=
  finishDone s (
    let i := s.immSIz f.imm
    s.simm f fun a => sShrS a i)

/-- SMULI sd, sa, imm (R117). -/
def execSmuli (f : SI) (s : State) : Host.Outcome State Fault Refusal :=
  finishDone s (
    let i := s.immSI f.imm
    s.simm f fun a => a * i)

/-- SMOVI sd, imm (R118). -/
def execSmovi (f : SL) (s : State) : Host.Outcome State Fault Refusal :=
  finishDone s do
    s.checkS f.sd.toNat
    .ok (s.writeS f.sd.toNat (s.immSL f.imm))

/-- SMOVIZ sd, imm (R118). -/
def execSmoviz (f : SL) (s : State) : Host.Outcome State Fault Refusal :=
  finishDone s do
    s.checkS f.sd.toNat
    .ok (s.writeS f.sd.toNat (s.immSLz f.imm))

/-- SMOVH16 sd, imm16: the tag and the other bits are kept (R118). -/
def execSmovh16 (f : SL) (s : State) : Host.Outcome State Fault Refusal :=
  finishDone s (s.suna f.sd.toNat f.sd.toNat fun x => (place16 x.val 16 f.imm, x.tag))

/-- SMOVH32 sd, imm16: the tag and the other bits are kept (R118). -/
def execSmovh32 (f : SL) (s : State) : Host.Outcome State Fault Refusal :=
  finishDone s (s.suna f.sd.toNat f.sd.toNat fun x => (place16 x.val 32 f.imm, x.tag))

/-- SMOVH48 sd, imm16: the tag and the other bits are kept (R118). -/
def execSmovh48 (f : SL) (s : State) : Host.Outcome State Fault Refusal :=
  finishDone s (s.suna f.sd.toNat f.sd.toNat fun x => (place16 x.val 48 f.imm, x.tag))

/-- STAGI sd, imm: the value is kept (R118). -/
def execStagi (tag : BitVec 8) (sd : BitVec 6) (s : State) : Host.Outcome State Fault Refusal :=
  finishDone s (s.suna sd.toNat sd.toNat fun x => (x.val, tag))

/-- SADDI16 sd, imm: the tag is kept (R118). -/
def execSaddi16 (f : SL) (s : State) : Host.Outcome State Fault Refusal :=
  finishDone s (
    let i := s.immSL f.imm
    s.suna f.sd.toNat f.sd.toNat fun x => (x.val + i, x.tag))

/-- ADDA sd, sa, sb: the tag of sa (R119). -/
def execAdda (f : S3) (s : State) : Host.Outcome State Fault Refusal :=
  finishDone s (s.sbin f.sd.toNat f.sa.toNat f.sb.toNat fun a b => (a.val + b.val, a.tag))

/-- SUBA sd, sa, sb: the tag of sa (R119). -/
def execSuba (f : S3) (s : State) : Host.Outcome State Fault Refusal :=
  finishDone s (s.sbin f.sd.toNat f.sa.toNat f.sb.toNat fun a b => (a.val - b.val, a.tag))

/-- GETTAG sd, sa (R119). -/
def execGettag (f : S2) (s : State) : Host.Outcome State Fault Refusal :=
  finishDone s (s.suna f.sd.toNat f.sa.toNat fun a => (a.tag.setWidth 64, 0))

/-- SETTAG sd, sa, sb (R119). -/
def execSettag (f : S3) (s : State) : Host.Outcome State Fault Refusal :=
  finishDone s (s.sbin f.sd.toNat f.sa.toNat f.sb.toNat fun a b => (a.val, b.val.setWidth 8))

/-- SEQ sd, sa, sb (R120). -/
def execSeq (f : S3) (s : State) : Host.Outcome State Fault Refusal :=
  finishDone s (s.scmp f fun a b => a.val == b.val && a.tag == b.tag)

/-- SNE sd, sa, sb (R120). -/
def execSne (f : S3) (s : State) : Host.Outcome State Fault Refusal :=
  finishDone s (s.scmp f fun a b => !(a.val == b.val && a.tag == b.tag))

/-- SLTS sd, sa, sb (R120). -/
def execSlts (f : S3) (s : State) : Host.Outcome State Fault Refusal :=
  finishDone s (s.scmp f fun a b => ltS a.val b.val)

/-- SLES sd, sa, sb (R120). -/
def execSles (f : S3) (s : State) : Host.Outcome State Fault Refusal :=
  finishDone s (s.scmp f fun a b => leS a.val b.val)

/-- SLTZ sd, sa, sb (R120). -/
def execSltz (f : S3) (s : State) : Host.Outcome State Fault Refusal :=
  finishDone s (s.scmp f fun a b => ltZ a.val b.val)

/-- SLEZ sd, sa, sb (R120). -/
def execSlez (f : S3) (s : State) : Host.Outcome State Fault Refusal :=
  finishDone s (s.scmp f fun a b => leZ a.val b.val)

end Sys2Proof.Machine
end

