-- ==== Sys2Proof/Machine/Dispatch.lean ====
section
/-! DEFINITION. The one match over instructions: one arm per constructor, one call of its meaning. -/
namespace Sys2Proof.Machine

/-- The meaning of an instruction. -/
def exec (i : Instr) (s : State) : Host.Outcome State Fault Refusal :=
  match i with
  | .cMov f => Sys2Proof.Machine.execCMov f s
  | .cAdd f => Sys2Proof.Machine.execCAdd f s
  | .cSub f => Sys2Proof.Machine.execCSub f s
  | .cMul f => Sys2Proof.Machine.execCMul f s
  | .cAnd f => Sys2Proof.Machine.execCAnd f s
  | .cOr f => Sys2Proof.Machine.execCOr f s
  | .cXor f => Sys2Proof.Machine.execCXor f s
  | .cShl f => Sys2Proof.Machine.execCShl f s
  | .cShrz f => Sys2Proof.Machine.execCShrz f s
  | .cAddi f => Sys2Proof.Machine.execCAddi f s
  | .cShli f => Sys2Proof.Machine.execCShli f s
  | .cFadd f => Sys2Proof.Machine.execCFadd f s
  | .cFsub f => Sys2Proof.Machine.execCFsub f s
  | .cFmul f => Sys2Proof.Machine.execCFmul f s
  | .cFmax f => Sys2Proof.Machine.execCFmax f s
  | .cFmin f => Sys2Proof.Machine.execCFmin f s
  | .immx payload => Sys2Proof.Machine.execImmx payload s
  | .obs ord mask => Sys2Proof.Machine.execObs ord mask s
  | .hint h => Sys2Proof.Machine.execHint h s
  | .rep stepB stepA stride cnt => Sys2Proof.Machine.execRep stepB stepA stride cnt s
  | .role r => Sys2Proof.Machine.execRole r s
  | .predx neg k => Sys2Proof.Machine.execPredx neg k s
  | .vadd f => Sys2Proof.Machine.execVadd f s
  | .vsub f => Sys2Proof.Machine.execVsub f s
  | .vaddss f => Sys2Proof.Machine.execVaddss f s
  | .vaddsz f => Sys2Proof.Machine.execVaddsz f s
  | .vmul f => Sys2Proof.Machine.execVmul f s
  | .vmulhs f => Sys2Proof.Machine.execVmulhs f s
  | .vmulhz f => Sys2Proof.Machine.execVmulhz f s
  | .vmad f => Sys2Proof.Machine.execVmad f s
  | .vand f => Sys2Proof.Machine.execVand f s
  | .vor f => Sys2Proof.Machine.execVor f s
  | .vxor f => Sys2Proof.Machine.execVxor f s
  | .vandn f => Sys2Proof.Machine.execVandn f s
  | .vshl f => Sys2Proof.Machine.execVshl f s
  | .vshrz f => Sys2Proof.Machine.execVshrz f s
  | .vshrs f => Sys2Proof.Machine.execVshrs f s
  | .vrot f => Sys2Proof.Machine.execVrot f s
  | .vcmpeq f => Sys2Proof.Machine.execVcmpeq f s
  | .vcmplts f => Sys2Proof.Machine.execVcmplts f s
  | .vcmpltz f => Sys2Proof.Machine.execVcmpltz f s
  | .vcmples f => Sys2Proof.Machine.execVcmples f s
  | .vmins f => Sys2Proof.Machine.execVmins f s
  | .vmaxs f => Sys2Proof.Machine.execVmaxs f s
  | .vminz f => Sys2Proof.Machine.execVminz f s
  | .vmaxz f => Sys2Proof.Machine.execVmaxz f s
  | .vsel f => Sys2Proof.Machine.execVsel f s
  | .vbcst kp sa vd => Sys2Proof.Machine.execVbcst kp sa vd s
  | .vlane kp vd => Sys2Proof.Machine.execVlane kp vd s
  | .vpopc f => Sys2Proof.Machine.execVpopc f s
  | .vaddi f => Sys2Proof.Machine.execVaddi f s
  | .vandi f => Sys2Proof.Machine.execVandi f s
  | .vshli f => Sys2Proof.Machine.execVshli f s
  | .vshrzi f => Sys2Proof.Machine.execVshrzi f s
  | .vmovi imm kp vd => Sys2Proof.Machine.execVmovi imm kp vd s
  | .vmuli f => Sys2Proof.Machine.execVmuli f s
  | .vshrsi f => Sys2Proof.Machine.execVshrsi f s
  | .vxori f => Sys2Proof.Machine.execVxori f s
  | .vdot4 f => Sys2Proof.Machine.execVdot4 f s
  | .vdot8 f => Sys2Proof.Machine.execVdot8 f s
  | .vdot4s f => Sys2Proof.Machine.execVdot4s f s
  | .vdot8s f => Sys2Proof.Machine.execVdot8s f s
  | .vcmpeqi f => Sys2Proof.Machine.execVcmpeqi f s
  | .vcmpltsi f => Sys2Proof.Machine.execVcmpltsi f s
  | .vcmpltzi f => Sys2Proof.Machine.execVcmpltzi f s
  | .vcmpgtsi f => Sys2Proof.Machine.execVcmpgtsi f s
  | .vfadd f => Sys2Proof.Machine.execVfadd f s
  | .vfsub f => Sys2Proof.Machine.execVfsub f s
  | .vfmul f => Sys2Proof.Machine.execVfmul f s
  | .vfma f => Sys2Proof.Machine.execVfma f s
  | .vfmin f => Sys2Proof.Machine.execVfmin f s
  | .vfmax f => Sys2Proof.Machine.execVfmax f s
  | .vfabs f => Sys2Proof.Machine.execVfabs f s
  | .vfneg f => Sys2Proof.Machine.execVfneg f s
  | .vfcmpeq f => Sys2Proof.Machine.execVfcmpeq f s
  | .vfcmplt f => Sys2Proof.Machine.execVfcmplt f s
  | .vfcmple f => Sys2Proof.Machine.execVfcmple f s
  | .vfcmpun f => Sys2Proof.Machine.execVfcmpun f s
  | .vhfma f => Sys2Proof.Machine.execVhfma f s
  | .vbfma f => Sys2Proof.Machine.execVbfma f s
  | .vhmul f => Sys2Proof.Machine.execVhmul f s
  | .vbmul f => Sys2Proof.Machine.execVbmul f s
  | .vhadd f => Sys2Proof.Machine.execVhadd f s
  | .vbadd f => Sys2Proof.Machine.execVbadd f s
  | .vhmax f => Sys2Proof.Machine.execVhmax f s
  | .vbmax f => Sys2Proof.Machine.execVbmax f s
  | .vmovw f => Sys2Proof.Machine.execVmovw f s
  | .vmovwz f => Sys2Proof.Machine.execVmovwz f s
  | .vfmovb f => Sys2Proof.Machine.execVfmovb f s
  | .vmovhi f => Sys2Proof.Machine.execVmovhi f s
  | .vcvt f => Sys2Proof.Machine.execVcvt f s
  | .vsfu f => Sys2Proof.Machine.execVsfu f s
  | .vrand kp vd => Sys2Proof.Machine.execVrand kp vd s
  | .vrandf kp vd => Sys2Proof.Machine.execVrandf kp vd s
  | .vgumb f => Sys2Proof.Machine.execVgumb f s
  | .vradv sa => Sys2Proof.Machine.execVradv sa s
  | .vshfl f => Sys2Proof.Machine.execVshfl f s
  | .vshflx f => Sys2Proof.Machine.execVshflx f s
  | .vshflup f => Sys2Proof.Machine.execVshflup f s
  | .vshfldn f => Sys2Proof.Machine.execVshfldn f s
  | .vredadd f => Sys2Proof.Machine.execVredadd f s
  | .vredmaxs f => Sys2Proof.Machine.execVredmaxs f s
  | .vredfadd f => Sys2Proof.Machine.execVredfadd f s
  | .vredfmax f => Sys2Proof.Machine.execVredfmax f s
  | .vballot f => Sys2Proof.Machine.execVballot f s
  | .vany f => Sys2Proof.Machine.execVany f s
  | .vall f => Sys2Proof.Machine.execVall f s
  | .vfirst f => Sys2Proof.Machine.execVfirst f s
  | .kand f => Sys2Proof.Machine.execKand f s
  | .kor f => Sys2Proof.Machine.execKor f s
  | .kxor f => Sys2Proof.Machine.execKxor f s
  | .kandn f => Sys2Proof.Machine.execKandn f s
  | .knot f => Sys2Proof.Machine.execKnot f s
  | .kfroms f => Sys2Proof.Machine.execKfroms f s
  | .ktos f => Sys2Proof.Machine.execKtos f s
  | .kpopc f => Sys2Proof.Machine.execKpopc f s
  | .sadd f => Sys2Proof.Machine.execSadd f s
  | .ssub f => Sys2Proof.Machine.execSsub f s
  | .smul f => Sys2Proof.Machine.execSmul f s
  | .smulhs f => Sys2Proof.Machine.execSmulhs f s
  | .smulhz f => Sys2Proof.Machine.execSmulhz f s
  | .sand f => Sys2Proof.Machine.execSand f s
  | .sor f => Sys2Proof.Machine.execSor f s
  | .sxor f => Sys2Proof.Machine.execSxor f s
  | .sshl f => Sys2Proof.Machine.execSshl f s
  | .sshrz f => Sys2Proof.Machine.execSshrz f s
  | .sshrs f => Sys2Proof.Machine.execSshrs f s
  | .smins f => Sys2Proof.Machine.execSmins f s
  | .smaxs f => Sys2Proof.Machine.execSmaxs f s
  | .sdivz f => Sys2Proof.Machine.execSdivz f s
  | .sremz f => Sys2Proof.Machine.execSremz f s
  | .sclz f => Sys2Proof.Machine.execSclz f s
  | .saddi f => Sys2Proof.Machine.execSaddi f s
  | .sandi f => Sys2Proof.Machine.execSandi f s
  | .sori f => Sys2Proof.Machine.execSori f s
  | .sxori f => Sys2Proof.Machine.execSxori f s
  | .sshli f => Sys2Proof.Machine.execSshli f s
  | .sshrzi f => Sys2Proof.Machine.execSshrzi f s
  | .sshrsi f => Sys2Proof.Machine.execSshrsi f s
  | .smuli f => Sys2Proof.Machine.execSmuli f s
  | .smovi f => Sys2Proof.Machine.execSmovi f s
  | .smoviz f => Sys2Proof.Machine.execSmoviz f s
  | .smovh16 f => Sys2Proof.Machine.execSmovh16 f s
  | .smovh32 f => Sys2Proof.Machine.execSmovh32 f s
  | .smovh48 f => Sys2Proof.Machine.execSmovh48 f s
  | .stagi tag sd => Sys2Proof.Machine.execStagi tag sd s
  | .saddi16 f => Sys2Proof.Machine.execSaddi16 f s
  | .adda f => Sys2Proof.Machine.execAdda f s
  | .suba f => Sys2Proof.Machine.execSuba f s
  | .gettag f => Sys2Proof.Machine.execGettag f s
  | .settag f => Sys2Proof.Machine.execSettag f s
  | .seq f => Sys2Proof.Machine.execSeq f s
  | .sne f => Sys2Proof.Machine.execSne f s
  | .slts f => Sys2Proof.Machine.execSlts f s
  | .sles f => Sys2Proof.Machine.execSles f s
  | .sltz f => Sys2Proof.Machine.execSltz f s
  | .slez f => Sys2Proof.Machine.execSlez f s
  | .bz f => Sys2Proof.Machine.execBz f s
  | .bnz f => Sys2Proof.Machine.execBnz f s
  | .blz f => Sys2Proof.Machine.execBlz f s
  | .bgez f => Sys2Proof.Machine.execBgez f s
  | .bkany f => Sys2Proof.Machine.execBkany f s
  | .bkall f => Sys2Proof.Machine.execBkall f s
  | .bknone f => Sys2Proof.Machine.execBknone f s
  | .brv f => Sys2Proof.Machine.execBrv f s
  | .jmp disp => Sys2Proof.Machine.execJmp disp s
  | .call disp => Sys2Proof.Machine.execCall disp s
  | .jr sa => Sys2Proof.Machine.execJr sa s
  | .callr sa => Sys2Proof.Machine.execCallr sa s
  | .ret => Sys2Proof.Machine.execRet s
  | .join => Sys2Proof.Machine.execJoin s
  | .exit => Sys2Proof.Machine.execExit s
  | .yield => Sys2Proof.Machine.execYield s
  | .nop32 => Sys2Proof.Machine.execNop32 s
  | .bkpt code => Sys2Proof.Machine.execBkpt code s
  | .elect sd => Sys2Proof.Machine.execElect sd s
  | .vldB32 f => Sys2Proof.Machine.execVldB32 f s
  | .vldB64 f => Sys2Proof.Machine.execVldB64 f s
  | .vldB128 f => Sys2Proof.Machine.execVldB128 f s
  | .vldB16z f => Sys2Proof.Machine.execVldB16z f s
  | .vldB8z f => Sys2Proof.Machine.execVldB8z f s
  | .vldB8s f => Sys2Proof.Machine.execVldB8s f s
  | .vldB16s f => Sys2Proof.Machine.execVldB16s f s
  | .vstB32 f => Sys2Proof.Machine.execVstB32 f s
  | .vstB64 f => Sys2Proof.Machine.execVstB64 f s
  | .vstB128 f => Sys2Proof.Machine.execVstB128 f s
  | .vstB16 f => Sys2Proof.Machine.execVstB16 f s
  | .vstB8 f => Sys2Proof.Machine.execVstB8 f s
  | .vldlB32 f => Sys2Proof.Machine.execVldlB32 f s
  | .vldlB128 f => Sys2Proof.Machine.execVldlB128 f s
  | .vstlB32 f => Sys2Proof.Machine.execVstlB32 f s
  | .vstlB128 f => Sys2Proof.Machine.execVstlB128 f s
  | .sldB64 f => Sys2Proof.Machine.execSldB64 f s
  | .sldB32z f => Sys2Proof.Machine.execSldB32z f s
  | .sldB32s f => Sys2Proof.Machine.execSldB32s f s
  | .sldB8z f => Sys2Proof.Machine.execSldB8z f s
  | .sstB64 f => Sys2Proof.Machine.execSstB64 f s
  | .sstB32 f => Sys2Proof.Machine.execSstB32 f s
  | .sstB8 f => Sys2Proof.Machine.execSstB8 f s
  | .slda f => Sys2Proof.Machine.execSlda f s
  | .ssta f => Sys2Proof.Machine.execSsta f s
  | .sldl f => Sys2Proof.Machine.execSldl f s
  | .sstl f => Sys2Proof.Machine.execSstl f s
  | .clean f => Sys2Proof.Machine.execClean f s
  | .inval f => Sys2Proof.Machine.execInval f s
  | .clninv f => Sys2Proof.Machine.execClninv f s
  | .pref sb sa => Sys2Proof.Machine.execPref sb sa s
  | .bankmode mode sa d => Sys2Proof.Machine.execBankmode mode sa d s
  | .l1drop => Sys2Proof.Machine.execL1drop s
  | .msvaddBf16 f => Sys2Proof.Machine.execMsvaddBf16 f s
  | .msvaddF32 f => Sys2Proof.Machine.execMsvaddF32 f s
  | .msvmulBf16 f => Sys2Proof.Machine.execMsvmulBf16 f s
  | .msvfill f => Sys2Proof.Machine.execMsvfill f s
  | .msvcopy f => Sys2Proof.Machine.execMsvcopy f s
  | .atom f => Sys2Proof.Machine.execAtom f s
  | .atom64 f => Sys2Proof.Machine.execAtom64 f s
  | .atompk f => Sys2Proof.Machine.execAtompk f s
  | .satom f => Sys2Proof.Machine.execSatom f s
  | .atomicPerform id k => Sys2Proof.Machine.execAtomicPerform id k s
  | .fence ord mask => Sys2Proof.Machine.execFence ord mask s
  | .oprdy => Sys2Proof.Machine.execOprdy s
  | .fencei => Sys2Proof.Machine.execFencei s
  | .waitc n cls => Sys2Proof.Machine.execWaitc n cls s
  | .waitr scalar d => Sys2Proof.Machine.execWaitr scalar d s
  | .waita f => Sys2Proof.Machine.execWaita f s
  | .mma f => Sys2Proof.Machine.execMma f s
  | .mzero t => Sys2Proof.Machine.execMzero t s
  | .mldt f => Sys2Proof.Machine.execMldt f s
  | .mstt f => Sys2Proof.Machine.execMstt f s
  | .msave sa t => Sys2Proof.Machine.execMsave sa t s
  | .mrest sa t => Sys2Proof.Machine.execMrest sa t s
  | .mscale f => Sys2Proof.Machine.execMscale f s
  | .matrixOpStart id => Sys2Proof.Machine.execMatrixOpStart id s
  | .matrixOpRetire id => Sys2Proof.Machine.execMatrixOpRetire id s
  | .cpyg2l f => Sys2Proof.Machine.execCpyg2l f s
  | .cpyl2g f => Sys2Proof.Machine.execCpyl2g f s
  | .cpyg2g f => Sys2Proof.Machine.execCpyg2g f s
  | .cpygath f => Sys2Proof.Machine.execCpygath f s
  | .cpyl2l f => Sys2Proof.Machine.execCpyl2l f s
  | .cpyrk f => Sys2Proof.Machine.execCpyrk f s
  | .collared f => Sys2Proof.Machine.execCollared f s
  | .collbc f => Sys2Proof.Machine.execCollbc f s
  | .copyCommandStart id => Sys2Proof.Machine.execCopyCommandStart id s
  | .copyPartLand id => Sys2Proof.Machine.execCopyPartLand id s
  | .collectiveComplete id members => Sys2Proof.Machine.execCollectiveComplete id members s
  | .syncinit a d => Sys2Proof.Machine.execSyncinit a d s
  | .syncwait a d => Sys2Proof.Machine.execSyncwait a d s
  | .syncadd a d => Sys2Proof.Machine.execSyncadd a d s
  | .barwarr f => Sys2Proof.Machine.execBarwarr f s
  | .barwwait a d => Sys2Proof.Machine.execBarwwait a d s
  | .nbarinit b d => Sys2Proof.Machine.execNbarinit b d s
  | .nbararr b => Sys2Proof.Machine.execNbararr b s
  | .nbarwait b => Sys2Proof.Machine.execNbarwait b s
  | .nbarsync b => Sys2Proof.Machine.execNbarsync b s
  | .qcfg a d => Sys2Proof.Machine.execQcfg a d s
  | .qtry sd q d => Sys2Proof.Machine.execQtry sd q d s
  | .qpeek sd q d => Sys2Proof.Machine.execQpeek sd q d s
  | .qclose q => Sys2Proof.Machine.execQclose q s
  | .cqfence all n => Sys2Proof.Machine.execCqfence all n s
  | .rdep n sa d => Sys2Proof.Machine.execRdep n sa d s
  | .depositDelivery id => Sys2Proof.Machine.execDepositDelivery id s
  | .tasknew f => Sys2Proof.Machine.execTasknew f s
  | .taskdep f => Sys2Proof.Machine.execTaskdep f s
  | .taskget d => Sys2Proof.Machine.execTaskget d s
  | .taskdone sa d => Sys2Proof.Machine.execTaskdone sa d s
  | .lnch f => Sys2Proof.Machine.execLnch f s
  | .vpart n => Sys2Proof.Machine.execVpart n s
  | .vxacq => Sys2Proof.Machine.execVxacq s
  | .vxrel => Sys2Proof.Machine.execVxrel s
  | .xwait w => Sys2Proof.Machine.execXwait w s
  | .setobs ord mask => Sys2Proof.Machine.execSetobs ord mask s
  | .rwp r => Sys2Proof.Machine.execRwp r s
  | .exmask mode a => Sys2Proof.Machine.execExmask mode a s
  | .setrng a d => Sys2Proof.Machine.execSetrng a d s
  | .pin a n => Sys2Proof.Machine.execPin a n s
  | .unpin n => Sys2Proof.Machine.execUnpin n s
  | .recl f => Sys2Proof.Machine.execRecl f s
  | .pinrd n d => Sys2Proof.Machine.execPinrd n d s
  | .groomerSweep vd => Sys2Proof.Machine.execGroomerSweep vd s
  | .rkldK f => Sys2Proof.Machine.execRkldK f s
  | .rkldV f => Sys2Proof.Machine.execRkldV f s
  | .rkstK f => Sys2Proof.Machine.execRkstK f s
  | .rkstV f => Sys2Proof.Machine.execRkstV f s
  | .rkalloc f => Sys2Proof.Machine.execRkalloc f s
  | .rkpub f => Sys2Proof.Machine.execRkpub f s
  | .rkacq f => Sys2Proof.Machine.execRkacq f s
  | .rksnap f => Sys2Proof.Machine.execRksnap f s
  | .rkvoid f => Sys2Proof.Machine.execRkvoid f s
  | .rkpage f => Sys2Proof.Machine.execRkpage f s
  | .rkinfo f => Sys2Proof.Machine.execRkinfo f s
  | .sldesc sa d => Sys2Proof.Machine.execSldesc sa d s
  | .slexp f => Sys2Proof.Machine.execSlexp f s
  | .slback f => Sys2Proof.Machine.execSlback f s
  | .slpick f => Sys2Proof.Machine.execSlpick f s
  | .slroot f => Sys2Proof.Machine.execSlroot f s
  | .slprune f => Sys2Proof.Machine.execSlprune f s
  | .slread f => Sys2Proof.Machine.execSlread f s
  | .slnew f => Sys2Proof.Machine.execSlnew f s
  | .slcfg f => Sys2Proof.Machine.execSlcfg f s
  | .trap code => Sys2Proof.Machine.execTrap code s
  | .rett => Sys2Proof.Machine.execRett s
  | .srd r d => Sys2Proof.Machine.execSrd r d s
  | .swr r a => Sys2Proof.Machine.execSwr r a s
  | .wfe f => Sys2Proof.Machine.execWfe f s
  | .wfeTimeout w f => Sys2Proof.Machine.execWfeTimeout w f s
  | .evsig code a => Sys2Proof.Machine.execEvsig code a s
  | .time sd => Sys2Proof.Machine.execTime sd s
  | .halt code => Sys2Proof.Machine.execHalt code s
  | .resultDelivery id => Sys2Proof.Machine.execResultDelivery id s
  | .sfuResult id => Sys2Proof.Machine.execSfuResult id s
  | .storePerform id k => Sys2Proof.Machine.execStorePerform id k s
  | .ownLeaseReturn line => Sys2Proof.Machine.execOwnLeaseReturn line s
  | .leaseRequestRetry line core => Sys2Proof.Machine.execLeaseRequestRetry line core s
  | .leaseSweep core => Sys2Proof.Machine.execLeaseSweep core s
  | .maintenanceDone id => Sys2Proof.Machine.execMaintenanceDone id s
  | .msvComplete id => Sys2Proof.Machine.execMsvComplete id s
  | .tlbInvalidate vd tag off => Sys2Proof.Machine.execTlbInvalidate vd tag off s
  | .pagerPromote vd off newPa => Sys2Proof.Machine.execPagerPromote vd off newPa s
  | .wridxWrite vd stream value => Sys2Proof.Machine.execWridxWrite vd stream value s
  | .launchTake vd stream dev => Sys2Proof.Machine.execLaunchTake vd stream dev s
  | .gangPlace part => Sys2Proof.Machine.execGangPlace part s
  | .placementStarvation gang => Sys2Proof.Machine.execPlacementStarvation gang s
  | .eqRdWrite vd value => Sys2Proof.Machine.execEqRdWrite vd value s
  | .flagsSet vd v => Sys2Proof.Machine.execFlagsSet vd v s
  | .lodgeNow vd => Sys2Proof.Machine.execLodgeNow vd s
  | .softReset vd => Sys2Proof.Machine.execSoftReset vd s
  | .clearReset vd => Sys2Proof.Machine.execClearReset vd s
  | .functionLevelReset vd => Sys2Proof.Machine.execFunctionLevelReset vd s
  | .supervisorResetRequest vd clear => Sys2Proof.Machine.execSupervisorResetRequest vd clear s
  | .resetComplete vd => Sys2Proof.Machine.execResetComplete vd s
  | .registerWrite vd off v mask => Sys2Proof.Machine.execRegisterWrite vd off v mask s
  | .commandRegionRead vd off => Sys2Proof.Machine.execCommandRegionRead vd off s
  | .liftComplete vd => Sys2Proof.Machine.execLiftComplete vd s
  | .lodge vd => Sys2Proof.Machine.execLodge vd s
  | .sliceEnd vd => Sys2Proof.Machine.execSliceEnd vd s
  | .contextImageWrite gang => Sys2Proof.Machine.execContextImageWrite gang s
  | .gangResume gang => Sys2Proof.Machine.execGangResume gang s
  | .overrunWatchdog gang => Sys2Proof.Machine.execOverrunWatchdog gang s
  | .overrunKill gang => Sys2Proof.Machine.execOverrunKill gang s
  | .suspensionWatchdog w => Sys2Proof.Machine.execSuspensionWatchdog w s
  | .replayWatchdog gang => Sys2Proof.Machine.execReplayWatchdog gang s
  | .supervisorResume w edits => Sys2Proof.Machine.execSupervisorResume w edits s
  | .supervisorKill k => Sys2Proof.Machine.execSupervisorKill k s
  | .replay gang => Sys2Proof.Machine.execReplay gang s
  | .continueHalt gang => Sys2Proof.Machine.execContinueHalt gang s
  | .umarekLaunch vd stream block seq serial => Sys2Proof.Machine.execUmarekLaunch vd stream block seq serial s
  | .createRink vd h desc => Sys2Proof.Machine.execCreateRink vd h desc s
  | .destroyRink vd h => Sys2Proof.Machine.execDestroyRink vd h s
  | .createTree vd t desc => Sys2Proof.Machine.execCreateTree vd t desc s
  | .trapVectorWrite vd cause entry => Sys2Proof.Machine.execTrapVectorWrite vd cause entry s
  | .rangeEntryWrite ctrl idx ctl base limit => Sys2Proof.Machine.execRangeEntryWrite ctrl idx ctl base limit s
  | .reclaimActionWrite vd idx entry => Sys2Proof.Machine.execReclaimActionWrite vd idx entry s
  | .taskTypeLoad vd idx entry => Sys2Proof.Machine.execTaskTypeLoad vd idx entry s
  | .groupConfigure vd g entry => Sys2Proof.Machine.execGroupConfigure vd g entry s
  | .peerSlotWrite vd slot entry => Sys2Proof.Machine.execPeerSlotWrite vd slot entry s
  | .inboundGrantWrite vd idx grant => Sys2Proof.Machine.execInboundGrantWrite vd idx grant s
  | .peerLinkJoin link ports => Sys2Proof.Machine.execPeerLinkJoin link ports s
  | .setPartitions parts => Sys2Proof.Machine.execSetPartitions parts s
  | .createVd p => Sys2Proof.Machine.execCreateVd p s
  | .memorySliceMove src dst => Sys2Proof.Machine.execMemorySliceMove src dst s
  | .chunkBusy page => Sys2Proof.Machine.execChunkBusy page s
  | .chunkCopied page => Sys2Proof.Machine.execChunkCopied page s
  | .btbaseSet die vd base launch => Sys2Proof.Machine.execBtbaseSet die vd base launch s
  | .steal die => Sys2Proof.Machine.execSteal die s
  | .stealFinish die => Sys2Proof.Machine.execStealFinish die s
  | .recordingSet vd on => Sys2Proof.Machine.execRecordingSet vd on s
  | .rerun vd stream => Sys2Proof.Machine.execRerun vd stream s
  | .hostSharedRead vd idie half => Sys2Proof.Machine.execHostSharedRead vd idie half s
  | .hostOwnershipRequest vd idie half data => Sys2Proof.Machine.execHostOwnershipRequest vd idie half data s
  | .hostWriteback vd idie half data mask after => Sys2Proof.Machine.execHostWriteback vd idie half data mask after s
  | .bisnpRetry half req inv => Sys2Proof.Machine.execBisnpRetry half req inv s
  | .hostSnoop half inv => Sys2Proof.Machine.execHostSnoop half inv s
  | .ucieModuleFail m => Sys2Proof.Machine.execUcieModuleFail m s
  | .ucieModuleTrain m => Sys2Proof.Machine.execUcieModuleTrain m s
  | .flitReceive port flit acc => Sys2Proof.Machine.execFlitReceive port flit acc s
  | .ack port a => Sys2Proof.Machine.execAck port a s
  | .nak port a => Sys2Proof.Machine.execNak port a s
  | .rate port vc rate => Sys2Proof.Machine.execRate port vc rate s
  | .rateTimer port => Sys2Proof.Machine.execRateTimer port s
  | .portRetrain port ok => Sys2Proof.Machine.execPortRetrain port ok s
  | .linkDown link => Sys2Proof.Machine.execLinkDown link s
  | .scrub page => Sys2Proof.Machine.execScrub page s
  | .powerCeiling mhz => Sys2Proof.Machine.execPowerCeiling mhz s
  | .islandFrequencyChange island mhz => Sys2Proof.Machine.execIslandFrequencyChange island mhz s
  | .powerGood record modules => Sys2Proof.Machine.execPowerGood record modules s
  | .warmStart record modules => Sys2Proof.Machine.execWarmStart record modules s
  | .recoveryImage image => Sys2Proof.Machine.execRecoveryImage image s
  | .dmtLoad vd code bytes data image => Sys2Proof.Machine.execDmtLoad vd code bytes data image s
  | .dmtLaunch vd stream block addr seq => Sys2Proof.Machine.execDmtLaunch vd stream block addr seq s
  | .dmtBreak vd at_ w => Sys2Proof.Machine.execDmtBreak vd at_ w s
  | .dmtRun vd w => Sys2Proof.Machine.execDmtRun vd w s
  | .dmtStep w n => Sys2Proof.Machine.execDmtStep w n s
  | .dmtRegs w f scalars vectors => Sys2Proof.Machine.execDmtRegs w f scalars vectors s
  | .dmtKpred w k => Sys2Proof.Machine.execDmtKpred w k s
  | .dmtWaves vd => Sys2Proof.Machine.execDmtWaves vd s
  | .dmtMem vd addr n hbm => Sys2Proof.Machine.execDmtMem vd addr n hbm s
  | .dmtMemDir vd addr n => Sys2Proof.Machine.execDmtMemDir vd addr n s
  | .dmtTrace on lo n => Sys2Proof.Machine.execDmtTrace on lo n s
  | .dmtWatch vd addr n => Sys2Proof.Machine.execDmtWatch vd addr n s
  | .dmtInjectPreempt vd => Sys2Proof.Machine.execDmtInjectPreempt vd s
  | .dmtInjectFault w cause => Sys2Proof.Machine.execDmtInjectFault w cause s
  | .dmtVector vd cause addr => Sys2Proof.Machine.execDmtVector vd cause addr s
  | .dmtSlalom vd t => Sys2Proof.Machine.execDmtSlalom vd t s
  | .dmtPins vd => Sys2Proof.Machine.execDmtPins vd s
  | .dmtRink vd h => Sys2Proof.Machine.execDmtRink vd h s
  | .peerLinkTrain link => Sys2Proof.Machine.execPeerLinkTrain link s
  | .uncorrectableError key n => Sys2Proof.Machine.execUncorrectableError key n s
  | .destroyTree vd t => Sys2Proof.Machine.execDestroyTree vd t s
  | .rootChange vd tag root => Sys2Proof.Machine.execRootChange vd tag root s
  | .hostAccessWindowGrant windows => Sys2Proof.Machine.execHostAccessWindowGrant windows s
  | .fabricRateCap vd cap => Sys2Proof.Machine.execFabricRateCap vd cap s

end Sys2Proof.Machine
end

