-- ==== Sys2Proof/Machine/Events.lean ====
section
/-! DEFINITION. What the package does on its own between two issue units: time and its periodic work (R178, R321, R343,
R388), the events that may happen next, in one fixed order, and the upkeep that follows every step. -/
namespace Sys2Proof.Machine

/-! ## Time -/

/-- A boundary of every `n` ticks lies in (a, b]. -/
def crosses (n a b : Nat) : Bool := a / n < b / n

/-- While dmt holds a wave of a gang stopped, the overrun and suspension watchdogs do not run for it (R425). -/
def State.holdDogs (s : State) (n : Nat) : State :=
  if s.waves.all fun w => w.dmtStop != some 0 then s
  else { s with
    gangs := s.gangs.mapIdx fun g x => if s.dmtHolds g then { x with preempt := x.preempt.map (· + n) } else x
    waves := s.waves.map fun w => match w.mode with
      | .suspended f t => if s.dmtHolds w.gang then { w with mode := .suspended f (t + n) } else w
      | _ => w }

/-- TIME passes. Copies are swept every 2^16 ticks, and none outlives 2^17 + 2^16 (R178); the groomer sweeps every
millisecond (R321); ports announce their rates every 10 µs (R388). -/
def State.pass (s : State) (n : Nat) : State :=
  let t := { s with time := s.time + n }.holdDogs n
  if !crosses 10000 s.time t.time then
    (if crosses 65536 s.time t.time then t.sweep fun _ => true else t)
  else
    let u := if 262144 ≤ n then t.copies.foldl (fun s c => s.dropCopy c.holder c.line) t
      else if crosses 65536 s.time t.time then t.sweep fun _ => true else t
    let u := if crosses 1000000 s.time t.time then (List.range 64).foldl (fun s d =>
        if (s.vd d).grooms && !(s.vd d).deferred.isEmpty then s.recheck d none else s) u else u
    (List.range 32).foldl (fun s p => if (s.port p).link.isSome && (s.port p).up then s.announce p else s) u

/-- The ticks before this step: the head of pace, or 1. -/
def State.tickTime (s : State) : State := { s with pace := s.pace.tail }.pass (s.pace.headD 1)

/-! ## Events that may happen next -/

/-- The first answer of a list of questions. -/
def firstOf (qs : List (Unit → Option State)) : Option State := qs.findSome? fun q => q ()

/-- What an operation in flight can do next. -/
def State.opEvent? (s : State) (o : Op) : Option State := s.creditOp o.id <|
  match o.kind with
  | .load .. | .value .. | .svalue .. => s.deliver? o.id
  | .sfu .. => s.sfu? o.id
  | .store accs => (List.range accs.length).findSome? (s.store? o.id)
  | .atomic _ _ [] .. => s.deliver? o.id
  | .atomic _ _ accs .. => (List.range accs.length).findSome? (s.atomic? o.id)
  | .rkacq .. | .rksnap .. => none
  | .slalom .. => s.walk? o
  | .copy _ (.marker _) .. => none
  | .copy _ _ _ false .. => s.copyStart? o.id
  | .copy .. => s.copyLand? o.id
  | .mx _ _ false _ => s.mxStart? o.id
  | .mx .. => s.mxRetire? o.id
  | .msv _ => s.msv? o.id
  | .maint .. => s.maint? o.id
  | .deposit .. => s.deposit? o.id

/-- Devices that exist. -/
def State.liveVds (s : State) : List Nat := (List.range 64).filter fun d => (s.vd d).live

/-- Streams: launches to take. -/
def State.streamEvent? (s : State) : Option State :=
  s.liveVds.findSome? fun d => (List.range 16).findSome? fun st =>
    [false, true].findSome? fun dev => s.launchTake? d st dev

/-- Placement: gangs to place or to resume, and gangs that have waited too long. -/
def State.placeEvent? (s : State) : Option State :=
  firstOf [
    fun _ => (List.range s.gangs.length).findSome? s.gangResume?,
    fun _ => (List.range s.partitions.length).findSome? s.gangPlace?,
    fun _ => (List.range s.launches.length).findSome? s.starve?]

/-- Saved state: images, overruns, watchdogs. -/
def State.savedEvent? (s : State) : Option State :=
  firstOf [
    fun _ => (List.range s.gangs.length).findSome? s.imageWrite?,
    fun _ => s.liveVds.findSome? s.sliceEnd?,
    fun _ => (List.range s.gangs.length).findSome? s.overrunKill?,
    fun _ => (List.range s.gangs.length).findSome? s.overrun?,
    fun _ => (List.range s.waves.length).findSome? s.suspDog?,
    fun _ => (List.range s.waves.length).findSome? s.xwait?,
    fun _ => (List.range s.waves.length).findSome? fun w => (List.range 8).findSome? (s.wfeOut? w)]

/-- Devices and memory: resets, lodging and lifting, moves, scrubbing, steals. -/
def State.deviceEvent? (s : State) : Option State :=
  firstOf [
    fun _ => s.liveVds.findSome? fun d => match (s.vd d).resetting with
      | some c => if s.drainedVd d then some (s.resetEnd d c) else none
      | none => none,
    fun _ => s.liveVds.findSome? s.lift?,
    fun _ => s.liveVds.findSome? s.lodge?,
    fun _ => (s.moves.map (·.src)).findSome? s.chunkCopied?,
    fun _ => (s.moves.map (·.src)).findSome? s.chunkBusy?,
    fun _ => (List.range 8).findSome? s.stealFinish?,
    fun _ => (List.range 8).findSome? s.steal?,
    fun _ => (List.range s.homes.length).findSome? s.leaseReturn?,
    fun _ => s.marked.head?.map s.scrub]

/-- The next event of the package. Which of those that may happen comes first is not the spec's to say: one order is
taken here, and any other is a list of inputs. -/
def State.event? (s : State) : Option State :=
  firstOf [
    fun _ => s.flight.findSome? s.opEvent?,
    fun _ => s.savedEvent?,
    fun _ => s.placeEvent?,
    fun _ => s.streamEvent?,
    fun _ => s.deviceEvent?]

/-! ## Upkeep -/

/-- Fold over the numbers below n. -/
def State.each (s : State) (n : Nat) (f : State → Nat → State) : State := (List.range n).foldl f s

/-- What follows every step of itself: readers in flight look again at what they read, and requests that had only to wait
are served. -/
def State.settle (s : State) : State :=
  let s := s.dropOld.rkLook.rkWake.lookAll.sweepMarkers.rewindAll.grantBlocks.hostTurn.btWatch.idleWatch
  let s := s.each s.gangs.length State.dueCkpt
  let s := s.each s.waves.length fun s w => if (s.wave w).mode == .ended then s.endTasks w else s
  let s := s.each s.gangs.length State.closeRoles
  let s := s.each s.gangs.length State.retireGang
  let s := s.each 64 State.groom
  let s := s.each 64 State.ringTurn
  let s := s.each 64 fun s d => s.eqFlush d (s.vd d).eqHeld.length
  s.each 32 fun s p => s.flush p (s.toSend p)

end Sys2Proof.Machine
end

