-- ==== Sys2Proof/Machine/Issue.lean ====
section
/-! DEFINITION. Issue: which fragments may issue and in what order (R38, R269), and one issue unit from its first byte to
its end (R47, R48, R54, R55, R144), with dmt's breakpoints and injected faults (R413). -/
namespace Sys2Proof.Machine

/-! ## Who may issue -/

/-- The fragment is not parked, or its wait is tried again by executing its instruction again. -/
def Frag.tries (f : Frag) : Bool :=
  f.live && match f.park with
    | .none | .nbar _ | .vx _ | .sync _ | .wfe .. | .task => true
    | .join | .data _ => false

/-- The wave's gang is resident and nothing holds the wave. -/
def State.mayIssue (s : State) (w : Wave) : Bool :=
  let g := s.gang w.gang
  g.st == .resident && g.halted.isNone && w.blk.isNone && w.dmtStop != some 0
    && match w.mode with | .run | .handler _ | .recompute => true | _ => false

/-- The fragments of a wave that may issue: in a handler only the one that faulted (R350). -/
def Wave.candidates (w : Wave) : List Nat :=
  match w.mode with
  | .handler f => [f]
  | _ => (List.range 8).filter fun f => (w.frags.getD f {}).tries

/-- The units that may issue: wave and fragment. -/
def State.units (s : State) : List (Nat × Nat) :=
  (List.range s.waves.length).flatMap fun w =>
    if s.mayIssue (s.wave w) then (s.wave w).candidates.map fun f => (w, f) else []

/-- Does unit a go before unit b? On a partition the oldest last issue goes first, ties to the lower slot and then to the
lower fragment (R269); between partitions the turn of `turns` decides, then the same order. -/
def State.before (s : State) (a b : Nat × Nat) : Bool :=
  let key (u : Nat × Nat) : List Nat :=
    let w := s.wave u.1
    [if s.turns.head? == some w.partNo then 0 else 1, (w.frags.getD u.2 {}).lastIssue, w.slot, u.2, u.1]
  decide (key a ≤ key b)

def State.order (s : State) : List (Nat × Nat) := sortBy s.before s.units

/-! ## One unit -/

/-- The major of an encoded 32-bit instruction; 0 for a compact one. -/
def majorOf (i : Instr) : Nat := if i.compact then 0 else field (encodeWord i) 1 6

/-- The prefix and the election of the unit accept the instruction (R54, R55, R144). -/
def State.accepts (s : State) (i : Instr) : Bool :=
  (match s.cur.pfx with
    | none => true
    | some (.immx p) => i.takesImmx p
    | some (.obs ord _) => i.takesObs ord
    | some (.hint _) => i.takesHint
    | some (.rep stepB _ _ _) => i.takesRep stepB
    | some (.role _) => i.takesRole
    | some (.predx _ _) => i.takesPredx)
  && (s.cur.elect.isNone || !(majorOf i == 0x1E || majorOf i == 0x1F || majorOf i == 0x20))

/-- The program counter of a unit. -/
def Wave.pcOf (w : Wave) (f : Nat) : DWord := if w.handling then w.hpc else (w.frags.getD f {}).pc

/-- The cursor at the start of a unit. -/
def State.aim (s : State) (w f : Nat) : State :=
  let pc := (s.wave w).pcOf f
  { s with cur := { wave := w, frag := f, start := pc, pc := pc, nxt := pc } }

/-- The bytes at the cursor, and the cursor moved past them: a fault of the fetch names its lowest address (R47). -/
def State.fetchCur (s : State) : Except Trap (List Byte × State) :=
  match s.fetch s.cur.wave s.cg.vd s.cur.pc with
  | .error (c, a) => .error ⟨c, BitVec.ofNat 72 a.toNat, 0, false⟩
  | .ok (bs, t) => .ok (bs, { t with cur := { t.cur with nxt := t.cur.pc + BitVec.ofNat 64 bs.length, opened := false, code := bs } })

/-- Run the unit at the cursor: a prefix or an ELECT opens it, and it goes on with the next instruction (R48, R144). What
does not decode, or what the prefix or the election does not accept, raises ILL. -/
noncomputable def State.runUnit (s : State) : Nat → Host.Outcome State Fault Refusal
  | 0 => .next (s.takeTrap ⟨cILL, 0, 0, false⟩)
  | n + 1 =>
    match s.fetchCur with
    | .error t => .next (s.takeTrap t)
    | .ok (bs, t) =>
      match decode bs with
      | none => .next (t.takeTrap ⟨cILL, 0, 0, false⟩)
      | some i =>
        if t.accepts i then
          match exec i t with
          | .next u => if u.cur.opened then u.runUnit n else .next u
          | .fault r => .fault r
          | .refused r => .refused r
        else .next (t.takeTrap ⟨cILL, 0, 0, false⟩)

/-! ## dmt (R413) -/

/-- A breakpoint stops the unit's wave before the instruction at its address. -/
def State.breaks (s : State) (w f : Nat) : Bool :=
  let v := s.vd (s.gang (s.wave w).gang).vd
  (s.wave w).brk != some f && v.breaks.any fun b => b.1 == (s.wave w).pcOf f && (b.2.isNone || b.2 == some w)

/-- dmt counts a unit that has issued. -/
def State.counted (s : State) (w f : Nat) : State :=
  s.modWave w fun x => { x with
    brk := if x.brk == some f then none else x.brk
    dmtStop := x.dmtStop.map (· - 1) }

/-- A stop report (R413). -/
def State.stopNote (s : State) (w : Nat) (pc : DWord) : Note :=
  let x := s.wave w
  let k := (s.vd (s.gang x.gang).vd).kernels.find? fun k => k.1 ≤ pc.toNat && pc.toNat < k.2
  .stop s.time w pc (if x.told then [] else [x.die, x.cluster, x.core, x.part, x.slot]) (k.map fun k => pc.toNat - k.1)

/-- dmt reports that the wave has stopped. -/
def State.stopReport (s : State) (w : Nat) (pc : DWord) : State :=
  { s with notes := s.notes ++ [s.stopNote w pc] }.modWave w fun x => { x with told := true }

/-- What of a list of registers differs afterwards: each one's number and what dmt prints of it. -/
def changed {α : Type} [DecidableEq α] (shown : α → List Nat) (base : Nat) (a b : List α) : List (List Nat) :=
  ((a.zip b).zipIdx.filter fun p => p.1.1 != p.1.2).map fun p => (base + p.2) :: shown p.1.2

/-- dmt reports a unit of a step (R413): s is the machine before it, t after it. -/
noncomputable def State.unitNote (s t : State) (w f : Nat) : Note :=
  let a := s.wave w
  let b := t.wave w
  .unit t.time w f (a.pcOf f) (decode t.cur.code)
    (changed SReg.shown 0 (a.frags.getD f {}).s (b.frags.getD f {}).s ++ changed SReg.shown 256 a.y b.y)
    (changed VReg.shown 0 a.v b.v ++ changed VReg.shown 256 a.w b.w)
    (changed (fun k : Word => [k.toNat]) 0 a.k b.k)
    (a.waits.find? fun x => x.frag == f)

/-- BKPT or WATCH has just suspended the wave to dmt (R352). -/
def Wave.caught (a b : Wave) : Bool :=
  let c : Byte := b.trapc.setWidth 8
  (c == cBKPT || c == cWATCH) && match a.mode, b.mode with
    | .suspended .., _ => false
    | _, .suspended .. => true
    | _, _ => false

/-- What follows a unit that has issued from s: dmt counts it and, where it is attached, reports it. -/
noncomputable def State.after (s t0 : State) (w f : Nat) : State :=
  let t := (t0.credit s.exchanges.length (.wave w t0.cur.code .weak)).counted w f
  if !(s.vd (s.gang (s.wave w).gang).vd).dmt then t
  else
    let t := t.modWave w fun x => { x with waits := x.waits.filter fun y => y.frag != f }
    let t := if (s.wave w).dmtStop.isSome then { t with notes := t.notes ++ [s.unitNote t w f] } else t
    if (s.wave w).caught (t.wave w) then t.stopReport w ((t.wave w).suspEpc.getD 0) else t

/-- Issue a unit: none if it waits. -/
noncomputable def State.issue? (s : State) (u : Nat × Nat) : Option (Host.Outcome State Fault Refusal) :=
  let w := u.1
  let f := u.2
  if s.breaks w f then
    some (.next ((s.modWave w fun x => { x with dmtStop := some 0, brk := some f }).stopReport w ((s.wave w).pcOf f)))
  else match (s.wave w).inject with
    | some c =>
      some (.next (((s.modWave w fun x => { x with inject := none }).aim w f).takeTrap ⟨c, 0, 0, false⟩))
    | none => match (s.aim w f).runUnit 4 with
      | .next t => if t.cur.stalled then none else some (.next (s.after t w f))
      | o => some o

/-! ## What a unit waits on (R425) -/

/-- The wave's registers all FULL but these. -/
def Wave.filled (w : Wave) (f : Nat) (scalars vectors : List Nat) : Wave :=
  let sc (base : Nat) (rs : List SReg) : List SReg :=
    rs.mapIdx fun i x => if x.st == .empty && !scalars.contains (base + i) then { x with st := .full } else x
  let ve (base : Nat) (rs : List VReg) : List VReg :=
    rs.mapIdx fun i x => if vectors.contains (base + i) then x else { x with empty := false }
  { w.modFrag f fun g => { g with s := sc 0 g.s } with y := sc 256 w.y, v := ve 0 w.v, w := ve 256 w.w }

/-- The wave's EMPTY registers: scalars and vectors. -/
def Wave.empties (w : Wave) (f : Nat) : List Nat × List Nat :=
  let sc (base : Nat) (rs : List SReg) : List Nat := (rs.zipIdx.filter fun p => p.1.st == .empty).map fun p => base + p.2
  let ve (base : Nat) (rs : List VReg) : List Nat := (rs.zipIdx.filter fun p => p.1.empty).map fun p => base + p.2
  (sc 0 (w.frags.getD f {}).s ++ sc 256 w.y, ve 0 w.v ++ ve 256 w.w)

/-- The unit would wait if of the EMPTY registers only these were. -/
noncomputable def State.waitsWith (s : State) (w f : Nat) (scalars vectors : List Nat) : Bool :=
  match ((s.modWave w fun x => x.filled f scalars vectors).aim w f).runUnit 4 with
  | .next t => t.cur.stalled
  | _ => false

/-- What the unit waits on: the EMPTY registers of which each alone makes it wait, or something else; none if it would issue. -/
noncomputable def State.waitOf (s : State) (w f : Nat) : Option Wait :=
  let x := s.wave w
  let (es, ev) := x.empties f
  if !s.waitsWith w f es ev then none
  else
    let t := ((x.waits.find? fun y => y.frag == f).map (·.since)).getD s.time
    some (if s.waitsWith w f [] [] then ⟨f, t, [], []⟩
      else ⟨f, t, es.filter fun n => s.waitsWith w f [n] [], ev.filter fun n => s.waitsWith w f [] [n]⟩)

/-- dmt, where it is attached, sees which of a device's units wait. -/
noncomputable def State.watchWaits (s : State) : State :=
  if s.vds.all fun v => !v.dmt then s
  else { s with waves := s.waves.mapIdx fun i w =>
    if (s.vd (s.gang w.gang).vd).dmt && s.mayIssue w then { w with waits := w.candidates.filterMap fun f => s.waitOf i f } else w }

/-- The instructions of a word of code: one of 32 bits, or compact ones of 16. -/
noncomputable def disassembly (b : List Byte) : List (Option Instr) :=
  let compact (b : List Byte) : Bool := (b.headD 0).toNat % 2 == 0
  if !compact b then [decode b]
  else decode (b.take 2) :: if compact (b.drop 2) then [decode (b.drop 2)] else [none]

/-- dmt prints the disassembly of the words of code it has printed (R412). -/
noncomputable def State.disassemble (s : State) : State :=
  if s.words.isEmpty then s else { s with words := [], listing := s.words.map disassembly }

/-- The first of some units that issues. -/
noncomputable def State.unit? (s : State) (us : List (Nat × Nat)) : Option (Host.Outcome State Fault Refusal) :=
  us.findSome? fun u => s.issue? u

/-! ## Placing an instruction where the next unit fetches it -/

/-- Store bytes at the addresses wave n's unit fetches from; the core's copies of their sectors go, and what the wave has
fetched. -/
def State.placeAt (s : State) (n d : Nat) (pc : DWord) (bs : List Byte) : Option State :=
  let w := s.wave n
  ((List.range bs.length).mapM fun i => (s.fetchByte w d (pc + BitVec.ofNat 64 i)).toOption).map fun ls =>
    let t := ((ls.zip bs).foldl (fun s x => s.homePut x.1 x.2) s).dropViews n
    { t with sectors := t.sectors.filter fun x => !(x.1 == w.coreNo && ls.any fun l => l.sp == x.2.sp && l.a / 32 * 32 == x.2.a) }

/-- A word as the page tables below hold it. -/
def State.putPte (s : State) (a e : Nat) : State := s.homePuts ⟨.phys, a⟩ ((bytesOf 8 e).map fun b => (b, false))

/-- A device, a launch, a gang and a wave that runs at address 0 of a page of code: what a supervisor, a host and the
placer would have set up. Tables of levels 3 to 0 at 0x10000 to 0x40000, the page at 0x50000. -/
def State.install (s : State) : State :=
  let d := ((List.range 64).find? fun i => !(s.vd i).live).getD 0
  let r : Role := { entry := 0, regs := 40, waves := 1, wgs := 1, tiles := 16 }
  let b : Block := { ngangs := 1, roles := [r] }
  let l := s.launches.length
  let g := s.gangs.length
  let w := s.waves.length
  let t := (((s.putPte 0x10000 0x20001).putPte 0x20000 0x30001).putPte 0x30000 0x40001).putPte 0x40000 0x5001F
  { t with
    partitions := if t.partitions.isEmpty then [[0, 1, 2, 3, 4, 5, 6, 7]] else t.partitions
    vds := t.vds.set d { live := true, roots := [⟨0, 0x10000, 0⟩] }
    launches := t.launches ++ [{ vd := d, block := b, placed := 1 }]
    gangs := t.gangs ++ [{ launch := l, vd := d, wgs := [{ waves := [w], tiles := 16 }] }]
    waves := t.waves ++ [startWave b g 0 0 0 0 0 0 0 { core := 0, slot := 0, first := 0, base := 0, places := [(0, 0)] } 0 0] }

/-- The bytes stand where the first unit in order fetches; a machine with no such unit gets one. -/
def State.placeWord (s : State) (bs : List Byte) : State :=
  let try1 (s : State) : Option State := match s.order with
    | u :: _ => s.placeAt u.1 (s.gang (s.wave u.1).gang).vd ((s.wave u.1).pcOf u.2) bs
    | [] => none
  match try1 s with
  | some t => t
  | none => (try1 s.install).getD s

end Sys2Proof.Machine
end

