-- ==== Sys2Proof/Machine/Step.lean ====
section
/-! DEFINITION. One step of the package, and the placing of an instruction where the next step fetches. -/
namespace Sys2Proof.Machine

/-- Apply the upkeep to a next state. -/
noncomputable def settled (o : Host.Outcome State Fault Refusal) : Host.Outcome State Fault Refusal :=
  match o with
  | .next t => .next t.settle.watchWaits.disassemble
  | o => o

/-- One step: time passes; then what happens outside, if anything does; else a unit issues or the package does something
of its own, by turns, whichever is possible. -/
noncomputable def step (s : State) : Host.Outcome State Fault Refusal :=
  let s := s.tickTime
  settled <| match s.inputs with
    | i :: r => if i.encoded then .next { s with inputs := r } else exec i { s with inputs := r }
    | [] =>
      let t := { s with turns := s.turns.tail, evTurn := !s.evTurn }
      if s.evTurn then
        match t.event? with
        | some u => .next u
        | none => (t.unit? s.order).getD (.next t)
      else (t.unit? s.order).getD (.next ((t.event?).getD t))

/-- The instruction whose bits are w, where the very next step fetches and runs it. -/
noncomputable def State.withFetchWord (s : State) (nbits w : Nat) : State :=
  { s with inputs := [], evTurn := false, turns := [] }.placeWord (bytesOf 4 (w % 2 ^ nbits))

end Sys2Proof.Machine
end

