-- ==== Sys2Proof/Safety.lean ====
section
/-! DEFINITION. What the statements mean by a safe state: the memory list and the list of poisoned bytes are in their
canonical form, so that equal memories are equal data. -/
namespace Sys2Proof.Machine

/-- Keys rising strictly from `lo` on. -/
def risingFrom (lo : Nat) : List Nat → Bool
  | [] => true
  | a :: r => lo ≤ a && risingFrom (a + 1) r

def rising (l : List Nat) : Bool := risingFrom 0 l

/-- The memory list rises strictly and lists nothing that reads as unlisted; the marks of poisoned bytes rise
strictly. -/
def State.canon (s : State) : Prop := Memory.wf s.mem = true ∧ rising s.bad = true

end Sys2Proof.Machine
end

