-- ==== Sys2Proof/Certificates/Slice0/Obligations.lean ====
section
/-! DEFINITION. The statements about the model, with the tables they are stated by. A table gives, for each instruction of
a group, what the spec's entry says of it: its operands and the value it computes, written from the rules and not
through the meanings. -/
namespace Sys2Proof.Claims
open Sys2Proof.Machine

/-! ## Conditions of issue -/

/-- The act is one that goes through. -/
def good {α : Type} (a : Act α) : Bool := match a with | .ok _ => true | .error _ => false

/-- The unit may name vector register r: w0-w7 in a handler, v40-v55 with a block held, no port in recompute code
(R30, R56, R350, R364). -/
def vOk (s : State) (r : Nat) : Bool :=
  (!s.cw.handling || r < 8) && (r < 40 || 56 ≤ r || s.cw.held) && (r < 56 || s.cw.mode != .recompute)

/-- The unit may name scalar register r: y0-y15 in a handler (R350). -/
def sOk (s : State) (r : Nat) : Bool := !s.cw.handling || r < 16

/-- Scalar r is FULL. -/
def sFull (s : State) (r : Nat) : Bool := (s.sreg r).st == .full

/-- Scalar sources the unit may name and that are FULL. -/
def sReady (s : State) (rs : List Nat) : Bool := rs.all fun r => sOk s r && sFull s r

/-- Source r can be read: a register that is FULL, a port with an entry left after `seen` pops of the unit. -/
def srcOk (s : State) (seen r : Nat) : Bool :=
  if r < 56 then !(s.vreg r).empty
  else match s.portBank r with
    | none => false
    | some b => seen < b.2.entries.length

/-- All the sources, read in order. -/
def srcsOk (s : State) : List Nat → List Nat → Bool
  | [], _ => true
  | r :: rs, seen => srcOk s (seen.count r) r && srcsOk s rs (r :: seen)

/-- What source r gives after `seen` pops of the unit (R101, R230). -/
def valOf (s : State) (seen r : Nat) : VReg :=
  if r < 56 then s.vreg r
  else match s.portBank r with
    | none => {}
    | some b => b.2.entries.getD seen {}

def valsOf (s : State) : List Nat → List Nat → List VReg
  | [], _ => []
  | r :: rs, seen => valOf s (seen.count r) r :: valsOf s rs (r :: seen)

/-- The state once the sources are read: each port has lost as many entries as the unit names it (R101). -/
def popAll (s : State) (rs : List Nat) : State := rs.foldl (fun s r => (s.takeSrc r).2) s

/-- The destination can be written: a register, or a bound port that is closed or has room, after the fragment's earlier
accesses (R231, R236). -/
def dstOk (s : State) (r : Nat) : Bool :=
  if r < 56 then true
  else match s.portBank r with
    | none => false
    | some b => (b.2.closed || b.2.entries.length < 1024) && s.settled

/-- The unit has no REP prefix. -/
def noRep (s : State) : Bool := match s.cur.pfx with | some (.rep ..) => false | _ => true

/-- No lane of the mask is poisoned in the sources. -/
def clean (vs : List VReg) (m : Word) : Bool := vs.all fun v => v.poison &&& m == 0

/-! ## Values of one lane -/

def clampS (i : Int) : Word :=
  BitVec.ofInt 32 (if i < -2147483648 then -2147483648 else if 2147483647 < i then 2147483647 else i)

/-- Element j of n in a lane, signed or not (R114). -/
def elt (n : Nat) (sg : Bool) (x : Word) (j : Nat) : Int :=
  let e : BitVec (32 / n) := x.extractLsb' (32 / n * j) (32 / n)
  if sg then e.toInt else e.toNat

/-- d + the sum of the products of n elements (R114). -/
def dot (n : Nat) (sat ga gb : Bool) (a b d : Word) : Word :=
  let t := ((List.range n).map fun j => elt n ga a j * elt n gb b j).sum + d.toInt
  if sat then clampS t else BitVec.ofInt 32 t

/-- Both 16-bit elements of a lane, each apart (R112). -/
def both (f : Nat → Nat → Nat → Nat) (a b d : Word) : Word :=
  let e (x : Word) (i : Nat) : Nat := (x.extractLsb' (16 * i) 16).toNat
  (BitVec.ofNat 16 (f (e a 1) (e b 1) (e d 1)) ++ BitVec.ofNat 16 (f (e a 0) (e b 0) (e d 0)) : BitVec 32)

/-- An exact result rounded once to a format (R80, R87). -/
def rnd (f : Num.Fmt) (x : Num.Ex) : Nat := Num.round f .rne x
def f32 (a : Word) : Num.Ex := Num.val Num.f32 a.toNat
def rnd32 (x : Num.Ex) : Word := BitVec.ofNat 32 (rnd Num.f32 x)

/-! ## Vector instructions that compute in each lane -/

/-- A vector instruction of this kind: registers, active lanes, and the value of a lane from the sources' values in the
lane, in the order va, vb, vd. -/
structure LaneOp where
  regs : VSpec
  act : Word
  val : List Word → Word
  h : BitVec 1 := 0
  va : BitVec 6 := 0

def LaneOp.srcs (p : LaneOp) : List Nat := p.regs.srcs.map (·.1)

def two (g : Word → Word → Word) : List Word → Word | [a, b] => g a b | _ => 0
def three (g : Word → Word → Word → Word) : List Word → Word | [a, b, d] => g a b d | _ => 0
def one (g : Word → Word) : List Word → Word | [a] => g a | _ => 0

/-- Formats V, VI and VL. -/
def opV (s : State) (f : VF) (g : Word → Word → Word) : LaneOp :=
  ⟨⟨f.vd.toNat, some (f.va.toNat, f.ta == 1), some (f.vb.toNat, f.tb == 1), false⟩, s.active f.kp, two g, f.h, f.va⟩
def opVd (s : State) (f : VF) (g : Word → Word → Word → Word) : LaneOp :=
  ⟨⟨f.vd.toNat, some (f.va.toNat, f.ta == 1), some (f.vb.toNat, f.tb == 1), true⟩, s.active f.kp, three g, f.h, f.va⟩
def opDot (s : State) (f : VDot) (n : Nat) (sat : Bool) : LaneOp :=
  ⟨⟨f.vd.toNat, some (f.va.toNat, f.ta == 1), some (f.vb.toNat, f.tb == 1), true⟩, s.exm,
    three (dot n sat (f.ga == 1) (f.gb == 1)), f.h, f.va⟩
def opU (s : State) (f : VU) (g : Word → Word) : LaneOp :=
  ⟨⟨f.vd.toNat, some (f.va.toNat, f.ta == 1), none, false⟩, s.active f.kp, one g, f.h, f.va⟩
def opVI (s : State) (f : VI) (g : Word → Word) : LaneOp :=
  ⟨⟨f.vd.toNat, some (f.va.toNat, f.ta == 1), none, false⟩, s.active f.kp, one g, f.h, f.va⟩
/-- A compact form: vd is the destination and the first source (R50). -/
def opC (s : State) (f : CReg) (g : Word → Word → Word) : LaneOp :=
  ⟨⟨f.vd.toNat, some (f.vd.toNat, false), some (f.vs.toNat, false), false⟩, s.active 0, two g, 0, 0⟩
def opCI (s : State) (f : CImm) (g : Word → Word) : LaneOp :=
  ⟨⟨f.vd.toNat, some (f.vd.toNat, false), none, false⟩, s.active 0, one g, 0, 0⟩
def opVL (s : State) (f : VL) (w : Word) : LaneOp := ⟨⟨f.vd.toNat, none, none, false⟩, s.exm, fun _ => w, 0, 0⟩

/-- An immediate of format VI with the payload of an IMMX prefix as its high bits, sign- or zero-extended (R54, R57). -/
def immV (s : State) (sg : Bool) (i : BitVec 7) : Word :=
  match s.cur.pfx with
  | some (.immx p) => if sg then (p ++ i).signExtend 32 else (p ++ i).setWidth 32
  | _ => if sg then i.signExtend 32 else i.setWidth 32

/-- The value of VMOVW and its kin: 32 bits of payload and immediate, or `d` without IMMX (R109). -/
def immL (s : State) (i : BitVec 16) (d : Word) : Word :=
  match s.cur.pfx with
  | some (.immx p) => (p.setWidth 16 ++ i : BitVec 32)
  | _ => d

def min2 (le : Word → Word → Bool) (a b : Word) : Word := if le a b then a else b

/-- R104, R106, R107, R109, R110, R112-R114 and the compact forms of R50, row by row. -/
def laneOp (s : State) : Instr → Option LaneOp
  | .cMov f => some ⟨⟨f.vd.toNat, some (f.vs.toNat, false), some (f.vs.toNat, false), false⟩, s.active 0, two fun a _ => a, 0, 0⟩
  | .cAdd f => some (opC s f fun a b => a + b)
  | .cSub f => some (opC s f fun a b => a - b)
  | .cMul f => some (opC s f fun a b => a * b)
  | .cAnd f => some (opC s f fun a b => a &&& b)
  | .cOr f => some (opC s f fun a b => a ||| b)
  | .cXor f => some (opC s f fun a b => a ^^^ b)
  | .cShl f => some (opC s f fun a b => a <<< (b &&& 31))
  | .cShrz f => some (opC s f fun a b => a >>> (b &&& 31))
  | .cAddi f => some (opCI s f fun a => a + f.imm.signExtend 32)
  | .cShli f => some (opCI s f fun a => a <<< f.imm)
  | .cFadd f => some (opC s f fun a b => rnd32 ((f32 a).add (f32 b)))
  | .cFsub f => some (opC s f fun a b => rnd32 ((f32 a).add (f32 b).neg))
  | .cFmul f => some (opC s f fun a b => rnd32 ((f32 a).mul (f32 b)))
  | .cFmax f => some (opC s f fun a b => BitVec.ofNat 32 (Num.maxnum Num.f32 a.toNat b.toNat))
  | .cFmin f => some (opC s f fun a b => BitVec.ofNat 32 (Num.minnum Num.f32 a.toNat b.toNat))
  | .vadd f => some (opV s f fun a b => a + b)
  | .vsub f => some (opV s f fun a b => a - b)
  | .vaddss f => some (opV s f fun a b => clampS (a.toInt + b.toInt))
  | .vaddsz f => some (opV s f fun a b => if a.toNat + b.toNat < 2 ^ 32 then a + b else 0xFFFFFFFF)
  | .vmul f => some (opV s f fun a b => a * b)
  | .vmulhs f => some (opV s f fun a b => (a.signExtend 64 * b.signExtend 64).extractLsb' 32 32)
  | .vmulhz f => some (opV s f fun a b => (a.setWidth 64 * b.setWidth 64).extractLsb' 32 32)
  | .vmad f => some (opVd s f fun a b d => a * b + d)
  | .vand f => some (opV s f fun a b => a &&& b)
  | .vor f => some (opV s f fun a b => a ||| b)
  | .vxor f => some (opV s f fun a b => a ^^^ b)
  | .vandn f => some (opV s f fun a b => a &&& ~~~b)
  | .vshl f => some (opV s f fun a b => a <<< (b &&& 31))
  | .vshrz f => some (opV s f fun a b => a >>> (b &&& 31))
  | .vshrs f => some (opV s f fun a b => a.sshiftRight (b &&& 31).toNat)
  | .vrot f => some (opV s f fun a b => a <<< (b &&& 31) ||| a >>> ((32 - (b &&& 31)) : Word))
  | .vmins f => some (opV s f (min2 fun a b => a.toInt ≤ b.toInt))
  | .vmaxs f => some (opV s f (min2 fun a b => b.toInt ≤ a.toInt))
  | .vminz f => some (opV s f (min2 fun a b => a.toNat ≤ b.toNat))
  | .vmaxz f => some (opV s f (min2 fun a b => b.toNat ≤ a.toNat))
  | .vpopc f => some (opU s f fun a => BitVec.ofNat 32 ((List.range 32).countP a.getLsbD))
  | .vaddi f => some (opVI s f fun a => a + immV s true f.imm)
  | .vandi f => some (opVI s f fun a => a &&& immV s false f.imm)
  | .vshli f => some (opVI s f fun a => a <<< (immV s false f.imm &&& 31))
  | .vshrzi f => some (opVI s f fun a => a >>> (immV s false f.imm &&& 31))
  | .vmovi imm kp vd => some ⟨⟨vd.toNat, none, none, false⟩, s.active kp, fun _ => immV s true imm, 0, 0⟩
  | .vmuli f => some (opVI s f fun a => a * immV s true f.imm)
  | .vshrsi f => some (opVI s f fun a => a.sshiftRight (immV s false f.imm &&& 31).toNat)
  | .vxori f => some (opVI s f fun a => a ^^^ immV s false f.imm)
  | .vdot4 f => some (opDot s f 4 false)
  | .vdot8 f => some (opDot s f 8 false)
  | .vdot4s f => some (opDot s f 4 true)
  | .vdot8s f => some (opDot s f 8 true)
  | .vfadd f => some (opV s f fun a b => rnd32 ((f32 a).add (f32 b)))
  | .vfsub f => some (opV s f fun a b => rnd32 ((f32 a).add (f32 b).neg))
  | .vfmul f => some (opV s f fun a b => rnd32 ((f32 a).mul (f32 b)))
  | .vfma f => some (opVd s f fun a b d => rnd32 (((f32 a).mul (f32 b)).add (f32 d)))
  | .vfmin f => some (opV s f fun a b => BitVec.ofNat 32 (Num.minnum Num.f32 a.toNat b.toNat))
  | .vfmax f => some (opV s f fun a b => BitVec.ofNat 32 (Num.maxnum Num.f32 a.toNat b.toNat))
  | .vfabs f => some (opU s f fun a => if Num.isNan Num.f32 a.toNat then 0x7FC00000 else a &&& 0x7FFFFFFF)
  | .vfneg f => some (opU s f fun a => if Num.isNan Num.f32 a.toNat then 0x7FC00000 else a ^^^ 0x80000000)
  | .vhfma f => some (opVd s f (both fun a b d => rnd Num.h16 (((Num.val Num.h16 a).mul (Num.val Num.h16 b)).add (Num.val Num.h16 d))))
  | .vbfma f => some (opVd s f (both fun a b d => rnd Num.bf16 (((Num.val Num.bf16 a).mul (Num.val Num.bf16 b)).add (Num.val Num.bf16 d))))
  | .vhmul f => some (opV s f fun x y => both (fun a b _ => rnd Num.h16 ((Num.val Num.h16 a).mul (Num.val Num.h16 b))) x y 0)
  | .vbmul f => some (opV s f fun x y => both (fun a b _ => rnd Num.bf16 ((Num.val Num.bf16 a).mul (Num.val Num.bf16 b))) x y 0)
  | .vhadd f => some (opV s f fun x y => both (fun a b _ => rnd Num.h16 ((Num.val Num.h16 a).add (Num.val Num.h16 b))) x y 0)
  | .vbadd f => some (opV s f fun x y => both (fun a b _ => rnd Num.bf16 ((Num.val Num.bf16 a).add (Num.val Num.bf16 b))) x y 0)
  | .vhmax f => some (opV s f fun x y => both (fun a b _ => Num.maxnum Num.h16 a b) x y 0)
  | .vbmax f => some (opV s f fun x y => both (fun a b _ => Num.maxnum Num.bf16 a b) x y 0)
  | .vmovw f => some (opVL s f (immL s f.imm (f.imm.signExtend 32)))
  | .vmovwz f => some (opVL s f (immL s f.imm (f.imm.setWidth 32)))
  | .vfmovb f => some (opVL s f (let w := immL s f.imm (f.imm ++ (0 : BitVec 16))
      if Num.isNan Num.f32 w.toNat then 0x7FC00000 else w))
  | .vmovhi f => some ⟨⟨f.vd.toNat, none, none, true⟩, s.exm, one fun d => f.imm ++ d.extractLsb' 0 16, 0, 0⟩
  | .vcvt f => some ⟨⟨f.vd.toNat, some (f.va.toNat, f.ta == 1), none, cvtUsesVd f.sel.toNat⟩, s.active f.kp,
      fun | [a, d] => cvtLane f.sel.toNat (modeOf f.rm) a d | [a] => cvtLane f.sel.toNat (modeOf f.rm) a 0 | _ => 0, f.h, f.va⟩
  | _ => none

/-- The unit has written the result and goes on. -/
def LaneOp.result (p : LaneOp) (s : State) : State :=
  let vs := valsOf s p.srcs []
  (((popAll s p.srcs).writeV p.regs.vd p.act fun l => p.val (vs.map fun v => v.lane l)).latchVa p.h p.va).done

/-- Nothing holds the unit up and nothing faults. -/
def LaneOp.ready (p : LaneOp) (s : State) : Bool :=
  p.regs.regs.all (vOk s) && dstOk s p.regs.vd && srcsOk s p.srcs [] && clean (valsOf s p.srcs []) p.act

end Sys2Proof.Claims

open Sys2Proof Sys2Proof.Machine Sys2Proof.Claims

/-- Integer, immediate, floating-point, conversion and dot-product instructions and the compact forms complete, and write
the value of their entries in every active lane. -/
def Sys2Proof.Claims.VectorLanes : Prop :=
  ∀ (s : State) (i : Instr) (p : LaneOp), laneOp s i = some p → noRep s = true → p.ready s = true →
    exec i s = .next (p.result s)

namespace Sys2Proof.Claims

/-! ## Compares, selections, predicates -/

/-- A compare: its sources, the active lanes, and the test of a lane. -/
structure CmpOp where
  kd : Nat
  srcs : List Nat
  act : Word
  test : List Word → Bool
  h : BitVec 1
  va : BitVec 6

def cmpV (s : State) (f : VF) (t : Word → Word → Bool) : CmpOp :=
  ⟨f.vd.toNat, [f.va.toNat, f.vb.toNat], s.active f.kp, fun | [a, b] => t a b | _ => false, f.h, f.va⟩
def cmpI (s : State) (f : VI) (t : Word → Word → Bool) : CmpOp :=
  ⟨f.vd.toNat, [f.va.toNat], s.active f.kp, fun | [a] => t a (immV s true f.imm) | _ => false, f.h, f.va⟩

/-- R105, R108, R111. -/
def cmpOp (s : State) : Instr → Option CmpOp
  | .vcmpeq f => some (cmpV s f fun a b => a.toNat = b.toNat)
  | .vcmplts f => some (cmpV s f fun a b => a.toInt < b.toInt)
  | .vcmpltz f => some (cmpV s f fun a b => a.toNat < b.toNat)
  | .vcmples f => some (cmpV s f fun a b => a.toInt ≤ b.toInt)
  | .vcmpeqi f => some (cmpI s f fun a b => a.toNat = b.toNat)
  | .vcmpltsi f => some (cmpI s f fun a b => a.toInt < b.toInt)
  | .vcmpltzi f => some (cmpI s f fun a b => a.toNat < b.toNat)
  | .vcmpgtsi f => some (cmpI s f fun a b => b.toInt < a.toInt)
  | .vfcmpeq f => some (cmpV s f fun a b => (f32 a).eq (f32 b))
  | .vfcmplt f => some (cmpV s f fun a b => (f32 a).lt (f32 b))
  | .vfcmple f => some (cmpV s f fun a b => (f32 a).lt (f32 b) || (f32 a).eq (f32 b))
  | .vfcmpun f => some (cmpV s f fun a b => f32 a == .nan || f32 b == .nan)
  | _ => none

/-- Predicate k with new bits in the lanes of the fragment's lane set; k0 does not change (R97). -/
def setPred (s : State) (k : Nat) (bits : Word) : State :=
  if k = 0 then s
  else s.modCw fun w => { w with k := w.k.modify k fun old => (bits &&& s.laneSet) ||| (old &&& ~~~ s.laneSet) }

/-- The bits a compare gives: the test in active lanes, 0 elsewhere. -/
def CmpOp.bits (p : CmpOp) (s : State) : Word :=
  mask32 fun l => p.act.getLsbD l && p.test ((valsOf s p.srcs []).map fun v => v.lane l)

def CmpOp.ready (p : CmpOp) (s : State) : Bool :=
  !s.cw.handling && p.srcs.all (vOk s) && srcsOk s p.srcs [] && clean (valsOf s p.srcs []) p.act

/-- R115: the new value of kd. -/
def predOp (s : State) : Instr → Option (Nat × Word)
  | .kand f => some (f.sd.toNat, s.cw.pred f.sa.toNat &&& s.cw.pred f.sb.toNat)
  | .kor f => some (f.sd.toNat, s.cw.pred f.sa.toNat ||| s.cw.pred f.sb.toNat)
  | .kxor f => some (f.sd.toNat, s.cw.pred f.sa.toNat ^^^ s.cw.pred f.sb.toNat)
  | .kandn f => some (f.sd.toNat, s.cw.pred f.sa.toNat &&& ~~~ s.cw.pred f.sb.toNat)
  | .knot f => some (f.sd.toNat, ~~~ s.cw.pred f.sa.toNat)
  | .kfroms f => if sFull s f.sa.toNat then some (f.sd.toNat, (s.sreg f.sa.toNat).val.extractLsb' 0 32) else none
  | _ => none

/-! ## Scalar instructions that compute -/

/-- A scalar instruction: sources, destination, its value and tag. -/
structure ScalarOp where
  srcs : List Nat
  sd : Nat
  val : DWord
  tag : Byte := 0

/-- The value of scalar r. -/
def sv (s : State) (r : BitVec 6) : DWord := (s.sreg r.toNat).val

/-- A 64-bit operation, or its 32-bit form with the result sign-extended (R116). -/
def alu (s : State) (f : SW3) (g : (n : Nat) → BitVec n → BitVec n → BitVec n) : ScalarOp :=
  ⟨[f.sa.toNat, f.sb.toNat], f.sd.toNat,
    if f.w = 1 then (g 32 ((sv s f.sa).extractLsb' 0 32) ((sv s f.sb).extractLsb' 0 32)).signExtend 64
    else g 64 (sv s f.sa) (sv s f.sb), 0⟩

/-- The imm10 of SI, or payload ++ imm10 with IMMX, sign- or zero-extended; the same for the imm16 of SL (R54, R57). -/
def immS {n : Nat} (s : State) (sg : Bool) (i : BitVec n) : DWord :=
  match s.cur.pfx with
  | some (.immx p) => if sg then (p ++ i).signExtend 64 else (p ++ i).setWidth 64
  | _ => if sg then i.signExtend 64 else i.setWidth 64

def aluI (s : State) (f : SI) (sg : Bool) (g : DWord → DWord → DWord) : ScalarOp :=
  ⟨[f.sa.toNat], f.sd.toNat, g (sv s f.sa) (immS s sg f.imm), 0⟩

/-- A compare: 1 or 0 (R120). -/
def test2 (_s : State) (f : S3) (b : Bool) : ScalarOp :=
  ⟨[f.sa.toNat, f.sb.toNat], f.sd.toNat, if b then 1 else 0, 0⟩

/-- sd keeps its tag and every bit but 16 (R118). -/
def placed16 (s : State) (f : SL) (v : DWord) : ScalarOp := ⟨[f.sd.toNat], f.sd.toNat, v, (s.sreg f.sd.toNat).tag⟩

/-- Number of leading zeros of n bits. -/
def lead0 {n : Nat} (a : BitVec n) : Nat := ((List.range n).find? fun i => a.getLsbD (n - 1 - i)).getD n

def scalarOp (s : State) : Instr → Option ScalarOp
  | .sadd f => some (alu s f fun _ a b => a + b)
  | .ssub f => some (alu s f fun _ a b => a - b)
  | .smul f => some (alu s f fun _ a b => a * b)
  | .smulhs f => some (alu s f fun n a b => (a.signExtend (2 * n) * b.signExtend (2 * n)).extractLsb' n n)
  | .smulhz f => some (alu s f fun n a b => (a.setWidth (2 * n) * b.setWidth (2 * n)).extractLsb' n n)
  | .sand f => some (alu s f fun _ a b => a &&& b)
  | .sor f => some (alu s f fun _ a b => a ||| b)
  | .sxor f => some (alu s f fun _ a b => a ^^^ b)
  | .sshl f => some (alu s f fun n a b => a <<< (b.toNat % n))
  | .sshrz f => some (alu s f fun n a b => a >>> (b.toNat % n))
  | .sshrs f => some (alu s f fun n a b => a.sshiftRight (b.toNat % n))
  | .smins f => some (alu s f fun _ a b => if a.toInt ≤ b.toInt then a else b)
  | .smaxs f => some (alu s f fun _ a b => if b.toInt ≤ a.toInt then a else b)
  | .sdivz f => some (alu s f fun n a b => if b.toNat = 0 then BitVec.ofNat n (2 ^ n - 1) else BitVec.ofNat n (a.toNat / b.toNat))
  | .sremz f => some (alu s f fun n a b => if b.toNat = 0 then a else BitVec.ofNat n (a.toNat % b.toNat))
  | .sclz f => some ⟨[f.sa.toNat], f.sd.toNat, if f.w = 1 then BitVec.ofNat 64 (lead0 ((sv s f.sa).extractLsb' 0 32))
      else BitVec.ofNat 64 (lead0 (sv s f.sa)), 0⟩
  | .saddi f => some (aluI s f true fun a i => a + i)
  | .sandi f => some (aluI s f false fun a i => a &&& i)
  | .sori f => some (aluI s f false fun a i => a ||| i)
  | .sxori f => some (aluI s f false fun a i => a ^^^ i)
  | .sshli f => some (aluI s f false fun a i => a <<< (i.toNat % 64))
  | .sshrzi f => some (aluI s f false fun a i => a >>> (i.toNat % 64))
  | .sshrsi f => some (aluI s f false fun a i => a.sshiftRight (i.toNat % 64))
  | .smuli f => some (aluI s f true fun a i => a * i)
  | .smovi f => some ⟨[], f.sd.toNat, immS s true f.imm, 0⟩
  | .smoviz f => some ⟨[], f.sd.toNat, immS s false f.imm, 0⟩
  | .smovh16 f => some (placed16 s f ((sv s f.sd).extractLsb' 32 32 ++ f.imm ++ (sv s f.sd).extractLsb' 0 16))
  | .smovh32 f => some (placed16 s f ((sv s f.sd).extractLsb' 48 16 ++ f.imm ++ (sv s f.sd).extractLsb' 0 32))
  | .smovh48 f => some (placed16 s f (f.imm ++ (sv s f.sd).extractLsb' 0 48))
  | .stagi tag sd => some ⟨[sd.toNat], sd.toNat, sv s sd, tag⟩
  | .saddi16 f => some ⟨[f.sd.toNat], f.sd.toNat, sv s f.sd + immS s true f.imm, (s.sreg f.sd.toNat).tag⟩
  | .adda f => some ⟨[f.sa.toNat, f.sb.toNat], f.sd.toNat, sv s f.sa + sv s f.sb, (s.sreg f.sa.toNat).tag⟩
  | .suba f => some ⟨[f.sa.toNat, f.sb.toNat], f.sd.toNat, sv s f.sa - sv s f.sb, (s.sreg f.sa.toNat).tag⟩
  | .gettag f => some ⟨[f.sa.toNat], f.sd.toNat, (s.sreg f.sa.toNat).tag.setWidth 64, 0⟩
  | .settag f => some ⟨[f.sa.toNat, f.sb.toNat], f.sd.toNat, sv s f.sa, (sv s f.sb).extractLsb' 0 8⟩
  | .seq f => some (test2 s f ((s.sreg f.sa.toNat).tag = (s.sreg f.sb.toNat).tag ∧ sv s f.sa = sv s f.sb))
  | .sne f => some (test2 s f ((s.sreg f.sa.toNat).tag ≠ (s.sreg f.sb.toNat).tag ∨ sv s f.sa ≠ sv s f.sb))
  | .slts f => some (test2 s f ((sv s f.sa).toInt < (sv s f.sb).toInt))
  | .sles f => some (test2 s f ((sv s f.sa).toInt ≤ (sv s f.sb).toInt))
  | .sltz f => some (test2 s f ((sv s f.sa).toNat < (sv s f.sb).toNat))
  | .slez f => some (test2 s f ((sv s f.sa).toNat ≤ (sv s f.sb).toNat))
  | .ktos f => some ⟨[], f.sd.toNat, (s.cw.pred f.sa.toNat).setWidth 64, 0⟩
  | .kpopc f => some ⟨[], f.sd.toNat, BitVec.ofNat 64 ((List.range 32).countP (s.cw.pred f.sa.toNat).getLsbD), 0⟩
  | .pinrd n d => some ⟨[], d.toNat, s.cwg.pins.getD n.toNat 0, 0⟩
  | _ => none

/-- The unit may name the registers and its sources are FULL. -/
def ScalarOp.ready (p : ScalarOp) (s : State) : Bool := sOk s p.sd && sReady s p.srcs

/-! ## Frames -/

/-- Only registers of the unit's wave have changed: memory, the operations in flight and everything outside the wave are
as before, and every byte reads as before. -/
structure RegsOnly (s t : State) : Prop where
  rest : t = { s with waves := t.waves, cur := t.cur, seq := t.seq, latches := t.latches }
  waves : ∀ w, w ≠ s.cur.wave → t.wave w = s.wave w
  bytes : ∀ l, t.raw l = s.raw l
  /-- of the wave: only fragment state, predicates, vector registers and the trap bank -/
  wave : t.cw = { s.cw with frags := t.cw.frags, k := t.cw.k, v := t.cw.v, y := t.cw.y, w := t.cw.w, hpc := t.cw.hpc }
  /-- of the fragments: only this one, and there only scalars, the program counter and the place in the issue order -/
  frags : ∀ f, f ≠ s.cur.frag → t.cw.frags.getD f {} = s.cw.frags.getD f {}
  frag : t.cf = { s.cf with s := t.cf.s, pc := t.cf.pc, lastIssue := t.cf.lastIssue, park := t.cf.park }

/-- Every scalar but sd is as before, in both files. -/
def scalarsBut (s t : State) (sd : Option Nat) : Prop :=
  ∀ r, some r ≠ sd → t.cf.s.getD r {} = s.cf.s.getD r {} ∧ t.cw.y.getD r {} = s.cw.y.getD r {}

/-- Every vector register but vd is as before, in both files. -/
def vectorsBut (s t : State) (vd : Option Nat) : Prop :=
  ∀ r, some r ≠ vd → t.cw.v.getD r {} = s.cw.v.getD r {} ∧ t.cw.w.getD r {} = s.cw.w.getD r {}

end Sys2Proof.Claims

/-- R105, R108, R111, R97: a compare writes the test in active lanes and 0 in the other lanes of the lane set; k0
discards it. -/
def Sys2Proof.Claims.VectorCompares : Prop :=
  ∀ (s : State) (i : Instr) (p : CmpOp), cmpOp s i = some p → p.ready s = true →
    exec i s = .next (((setPred (popAll s p.srcs) p.kd (p.bits s)).latchVa p.h p.va).done)

/-- R106: VSEL, VBCST and VLANE. -/
def Sys2Proof.Claims.VectorMoves : Prop :=
  (∀ (s : State) (f : VF), noRep s = true → [f.vd, f.va, f.vb].all (vOk s ·.toNat) = true →
    dstOk s f.vd.toNat = true → srcsOk s [f.va.toNat, f.vb.toNat] [] = true →
    clean (valsOf s [f.va.toNat, f.vb.toNat] []) s.exm = true →
    exec (.vsel f) s = .next ((((popAll s [f.va.toNat, f.vb.toNat]).writeV f.vd.toNat s.exm fun l =>
      ((valsOf s [f.va.toNat, f.vb.toNat] []).getD (if (s.kpMask f.kp).getLsbD l then 0 else 1) {}).lane l).latchVa
        f.h f.va).done)) ∧
  (∀ (s : State) (kp : BitVec 2) (sa vd : BitVec 6), vOk s vd.toNat = true → dstOk s vd.toNat = true →
    sReady s [sa.toNat] = true →
    exec (.vbcst kp sa vd) s = .next (s.writeV vd.toNat (s.active kp) fun _ => (sv s sa).extractLsb' 0 32).done) ∧
  (∀ (s : State) (kp : BitVec 2) (vd : BitVec 6), vOk s vd.toNat = true → dstOk s vd.toNat = true →
    exec (.vlane kp vd) s = .next (s.writeV vd.toNat (s.active kp) fun l => BitVec.ofNat 32 l).done)

/-- R115, R97: predicate operations write every bit of the lane set. -/
def Sys2Proof.Claims.PredicateOps : Prop :=
  ∀ (s : State) (i : Instr) (kd : Nat) (v : Word), predOp s i = some (kd, v) → s.cw.handling = false →
    exec i s = .next (setPred s kd v).done

/-- R115-R120, R327: scalar instructions write the value and tag of their entries. R344: TIME writes the island's copy; it
waits for nothing, sends nothing and commits nothing. That it writes never less than the wave has read before is an inference,
log 106. -/
def Sys2Proof.Claims.ScalarValues : Prop :=
  (∀ (s : State) (i : Instr) (p : ScalarOp), scalarOp s i = some p → p.ready s = true →
    exec i s = .next (s.writeS p.sd p.val p.tag).done) ∧
  ∀ (s : State) (d : BitVec 6), sOk s d.toNat = true →
    let n := max (s.islandTime s.cw.clusterNo) s.cw.seenTime
    exec (.time d) s = .next ((s.writeS d.toNat (BitVec.ofNat 64 n) 0).modCw fun w => { w with seenTime := n }).done

/-- R93, R96: an ordinary write stores value and tag, POISON becomes FULL, EMPTY stays EMPTY; register 0 stays 0. -/
def Sys2Proof.Claims.ScalarWriteBack : Prop :=
  ∀ (s : State) (sd : Nat) (v : DWord) (tag : Byte), s.cur.wave < s.waves.length → s.cur.frag < s.cw.frags.length →
    (if s.cw.handling then sd < s.cw.y.length else sd < s.cf.s.length) →
    (s.writeS sd v tag).done.sreg sd =
      if sd = 0 then {} else { val := v, tag := tag, st := if sFull s sd || (s.sreg sd).st == .poison then .full else .empty }

/-- Frame of every instruction that computes into a scalar register: in a next state only that register, the program
counter and the issue order of its fragment differ, and no byte of memory; TIME also remembers its reading. -/
def Sys2Proof.Claims.ScalarFrame : Prop :=
  (∀ (s t : State) (i : Instr) (p : ScalarOp), scalarOp s i = some p → p.ready s = true → exec i s = .next t →
    RegsOnly s t ∧ scalarsBut s t (if p.sd = 0 then none else some p.sd) ∧ vectorsBut s t none ∧ t.cw.k = s.cw.k) ∧
  ∀ (s t : State) (d : BitVec 6), sOk s d.toNat = true → exec (.time d) s = .next t →
    RegsOnly s { t with waves := t.waves.modify s.cur.wave fun w => { w with seenTime := s.cw.seenTime } } ∧
    scalarsBut s t (if d = 0 then none else some d.toNat) ∧ vectorsBut s t none ∧ t.cw.k = s.cw.k

/-- Frame of predicate operations and compares of registers: only predicate kd differs, and only in the lane set. -/
def Sys2Proof.Claims.PredicateFrame : Prop :=
  ∀ (s t : State) (i : Instr) (kd : Nat),
    ((∃ p, cmpOp s i = some p ∧ p.ready s = true ∧ p.kd = kd ∧ p.srcs.all (· < 56) = true) ∨
     (∃ v, predOp s i = some (kd, v) ∧ s.cw.handling = false)) → exec i s = .next t →
    RegsOnly s t ∧ scalarsBut s t none ∧ vectorsBut s t none ∧
    ∀ k, t.cw.k.getD k 0 &&& (if k = kd then ~~~ s.laneSet else 0xFFFFFFFF) =
      s.cw.k.getD k 0 &&& (if k = kd then ~~~ s.laneSet else 0xFFFFFFFF)

/-- Frame of the vector instructions between registers: only vd differs, and there only the active lanes and their
poison bits. -/
def Sys2Proof.Claims.VectorFrame : Prop :=
  ∀ (s t : State) (i : Instr) (p : LaneOp), laneOp s i = some p → noRep s = true → p.ready s = true →
    (p.regs.vd :: p.srcs).all (· < 56) = true → exec i s = .next t →
    RegsOnly s t ∧ scalarsBut s t none ∧ vectorsBut s t (some p.regs.vd) ∧ t.cw.k = s.cw.k ∧
    (t.vreg p.regs.vd).empty = (s.vreg p.regs.vd).empty ∧
    (t.vreg p.regs.vd).poison = (s.vreg p.regs.vd).poison &&& ~~~ p.act ∧
    ∀ l, l < 32 → p.act.getLsbD l = false → (t.vreg p.regs.vd).lane l = (s.vreg p.regs.vd).lane l

namespace Sys2Proof.Claims

/-! ## REP -/

/-- Source or destination r in repetition i: a field that steps moves by the stride (R54). -/
def LaneOp.at (p : LaneOp) (stepA stepB : Bool) (stride i : Nat) : LaneOp :=
  { p with regs := ⟨p.regs.vd + i * stride, p.regs.va.map fun x => (if stepA then x.1 + i * stride else x.1, x.2),
                    p.regs.vb.map fun x => (if stepB then x.1 + i * stride else x.1, x.2), p.regs.d⟩ }

/-- The registers after one repetition. -/
def LaneOp.round (p : LaneOp) (s : State) : State :=
  s.writeV p.regs.vd p.act fun l => p.val (p.srcs.map fun r => (s.vreg r).lane l)

/-! ## Instructions that work across lanes -/

/-- First lane of lane l's piste. -/
def base (w l : Nat) : Nat := l / w * w

/-- The pairwise tree of R87 over 2^n neighbours from lane b on. -/
def pairwise {α : Type} (op : α → α → α) (f : Nat → α) : Nat → Nat → α
  | 0, b => f b
  | n + 1, b => op (pairwise op f n b) (pairwise op f n (b + 2 ^ n))

/-- One of two, or what there is of them. -/
def joined (op : Word → Word → Word) : Option Word → Option Word → Option Word
  | some a, some b => some (op a b)
  | some a, none => some a
  | none, o => o

def canon (x : Word) : Word := if f32 x == .nan then 0x7FC00000 else x

/-- The result of a piste of width w from lane b on: a is the source, A its active lanes (R128, R129). -/
def pisteVal (w b : Nat) (a : Nat → Word) (A : Nat → Bool) : Instr → Option (VU × Word)
  | .vredadd f => some (f, (((List.range w).filter fun j => A (b + j)).map fun j => a (b + j)).sum)
  | .vredmaxs f => some (f, BitVec.ofInt 32 (((List.range w).filter fun j => A (b + j)).foldl
      (fun m j => max m (a (b + j)).toInt) (-2147483648)))
  | .vredfadd f => some (f, canon (pairwise (fun x y => rnd32 ((f32 x).add (f32 y)))
      (fun l => if A l then a l else 0x80000000) w.log2 b))
  | .vredfmax f => some (f, canon ((pairwise (joined fun x y => BitVec.ofNat 32 (Num.maxnum Num.f32 x.toNat y.toNat))
      (fun l => if A l then some (a l) else none) w.log2 b).getD 0))
  | .vballot f => some (f, mask32 fun j => j < w && A (b + j) && a (b + j) != 0)
  | .vany f => some (f, if (List.range w).any fun j => A (b + j) && a (b + j) != 0 then 1 else 0)
  | .vall f => some (f, if (List.range w).all fun j => !A (b + j) || a (b + j) != 0 then 1 else 0)
  | .vfirst f => some (f, match (List.range w).find? fun j => A (b + j) && a (b + j) != 0 with
      | some j => BitVec.ofNat 32 j
      | none => 0xFFFFFFFF)
  | _ => none

/-- A shuffle: its fields, the source lane of lane l given the index value of the lane, and whether vd is written at
once (R126, R127). -/
structure ShufOp where
  vd : Nat
  va : BitVec 6
  idx : Option Nat
  act : Word
  now : Bool
  src : Nat → Word → Nat
  h : BitVec 1

def shufX (s : State) (f : VX) (now : Bool) (src : Nat → Nat) : ShufOp :=
  ⟨f.vd.toNat, f.va, none, s.active f.kp, now, fun l _ => src l, f.h⟩

def shufOp (s : State) : Instr → Option ShufOp
  | .vshfl f => let w := s.cw.piste.toNat
    some ⟨f.vd.toNat, f.va, some f.vb.toNat, s.active f.kp, false,
      fun l x => if (x &&& 31).toNat < w then base w l + (x &&& 31).toNat else l, f.h⟩
  | .vshflx f => some (shufX s f (f.imm == 0 || f.imm == 1) fun l =>
      if f.imm.toNat < s.cw.piste.toNat then l ^^^ f.imm.toNat else l)
  | .vshflup f => some (shufX s f (f.imm == 0) fun l =>
      if base s.cw.piste.toNat l + f.imm.toNat ≤ l then l - f.imm.toNat else l)
  | .vshfldn f => some (shufX s f (f.imm == 0) fun l =>
      if l + f.imm.toNat < base s.cw.piste.toNat l + s.cw.piste.toNat then l + f.imm.toNat else l)
  | _ => none

def ShufOp.srcs (p : ShufOp) : List Nat := p.va.toNat :: p.idx.toList

/-- The source lane of lane l. -/
def ShufOp.lane (p : ShufOp) (s : State) (l : Nat) : Nat :=
  p.src l (((valsOf s p.srcs []).getD 1 {}).lane l)

/-- Nothing holds the shuffle up; no lane that is read is poisoned. -/
def ShufOp.ready (p : ShufOp) (s : State) : Bool :=
  (p.vd :: p.srcs).all (vOk s) && dstOk s p.vd && srcsOk s p.srcs [] &&
  (List.range 32).all fun l => !p.act.getLsbD l ||
    (!((valsOf s p.srcs []).getD 0 {}).poison.getLsbD (p.lane s l) && !((valsOf s p.srcs []).getD 1 {}).poison.getLsbD l)

/-- What each lane gets. -/
def ShufOp.vals (p : ShufOp) (s : State) (l : Nat) : Word := ((valsOf s p.srcs []).getD 0 {}).lane (p.lane s l)

/-- A long-latency producer of a vector result has issued: vd is EMPTY, or a port will be pushed, and the operation is
in flight (R93, R101). -/
def pendV (s : State) (vd : Nat) (cls : Option Nat) (k : OpKind) (ord : Order := .weak) (mask : BitVec 5 := 0) : State :=
  (if 56 ≤ vd then s.commitMark else s.modV vd fun x => { x with empty := true }).launchOp cls k ord mask

/-! ## Random draws -/

/-- out(l) of R345. -/
def rngOf (key : DWord) (ctr : BitVec 96) (l : Nat) : Word :=
  let x : DWord := key ^^^ ((ctr.extractLsb' 64 32).setWidth 64 * 0x9E3779B97F4A7C15)
    ^^^ (BitVec.ofNat 64 l * 0xD1B54A32D192ED03)
  let x := x + (ctr.extractLsb' 24 40 ++ ctr.extractLsb' 0 24 : BitVec 64) * 0xA0761D6478BD642F
  let x := (x ^^^ (x >>> 30)) * 0xBF58476D1CE4E5B9
  let x := (x ^^^ (x >>> 27)) * 0x94D049BB133111EB
  (x ^^^ (x >>> 31)).extractLsb' 32 32

/-- A draw: vd, the source of VGUMB, active lanes, and the value from a and out(l). u(l) is the odd number
2 (out >> 8) + 1 times 2^-25. -/
def drawOp (s : State) : Instr → Option (Nat × Option (BitVec 6 × BitVec 1) × Word × (Word → Word → Word))
  | .vrand kp vd => some (vd.toNat, none, s.active kp, fun _ o => o)
  | .vrandf kp vd => some (vd.toNat, none, s.active kp, fun _ o =>
      BitVec.ofNat 32 (Num.round Num.f32 .rz (.fin false (2 * (o >>> 8).toNat + 1) (-25))))
  | .vgumb f => some (f.vd.toNat, some (f.va, f.h), s.active f.kp, fun a o => rnd32 ((f32 a).add (f32 (gumbel o))))
  | _ => none

end Sys2Proof.Claims

/-- R54, R100: under REP a vector instruction runs count times, each repetition reading what the one before has
written. -/
def Sys2Proof.Claims.VectorRep : Prop :=
  ∀ (s : State) (i : Instr) (p : LaneOp) (stepB stepA : BitVec 1) (stride : BitVec 2) (cnt : BitVec 6),
    laneOp s i = some p → i.takesRep stepB = true → s.cur.pfx = some (.rep stepB stepA stride cnt) →
    let reps := (List.range (cnt.toNat + 1)).map (p.at (stepA == 1) (stepB == 1) (stride.toNat + 1))
    (∀ q ∈ reps, ∀ r ∈ q.regs.vd :: q.srcs, r < 56 ∧ vOk s r = true) →
    (∀ q ∈ reps, ∀ r ∈ q.srcs, (s.vreg r).empty = false ∧ (s.vreg r).poison &&& p.act = 0) →
    exec i s = .next ((reps.foldl (fun t q => q.round t) s).latchVa p.h p.va).done

/-- R54: before any repetition a register number above 55 raises ILL, and v40-v55 without a block XBLK; nothing is
written. -/
def Sys2Proof.Claims.VectorRepChecks : Prop :=
  ∀ (s : State) (i : Instr) (p : LaneOp) (stepB stepA : BitVec 1) (stride : BitVec 2) (cnt : BitVec 6),
    laneOp s i = some p → i.takesRep stepB = true → s.cur.pfx = some (.rep stepB stepA stride cnt) →
    s.cw.handling = false →
    let reps := (List.range (cnt.toNat + 1)).map (p.at (stepA == 1) (stepB == 1) (stride.toNat + 1))
    let named := reps.flatMap fun q => q.regs.vd :: q.srcs
    ((∃ r ∈ named, 55 < r) → exec i s = .next (s.takeTrap ⟨0x01, 0, 0, false⟩)) ∧
    ((∀ r ∈ named, r ≤ 55) → (∃ r ∈ named, 40 ≤ r) → s.cw.held = false →
      exec i s = .next (s.takeTrap ⟨0x09, 0, 0, false⟩))

/-- R93, R100, R30, R350: what holds a vector instruction between registers up. A source that is EMPTY makes it wait
and nothing changes but that the unit did not issue; with its T bit it raises FEMPTY. A poisoned active lane raises
POISON with the register number. v40-v55 without a block raise XBLK. In a handler v8 and up raise ILL. -/
def Sys2Proof.Claims.VectorHolds : Prop :=
  ∀ (s : State) (i : Instr) (p : LaneOp), laneOp s i = some p → noRep s = true → (∀ r ∈ p.regs.vd :: p.srcs, r < 56) →
    ((∀ r ∈ p.regs.vd :: p.srcs, vOk s r = true) →
      ((∃ x ∈ p.regs.srcs, x.2 = false ∧ (s.vreg x.1).empty = true) →
        exec i s = .next { s with cur := { s.cur with stalled := true, opened := false } }) ∧
      ((∀ x ∈ p.regs.srcs, x.2 = false → (s.vreg x.1).empty = false) → ∀ r,
        (p.regs.srcs.find? fun x => (s.vreg x.1).empty) = some (r, true) →
        exec i s = .next (s.takeTrap ⟨0x07, BitVec.ofNat 72 r, 0, false⟩)) ∧
      ((∀ x ∈ p.srcs, (s.vreg x).empty = false) → ∀ r,
        (p.srcs.find? fun x => (s.vreg x).poison &&& p.act != 0) = some r →
        exec i s = .next (s.takeTrap ⟨0x06, BitVec.ofNat 72 r, 0, false⟩))) ∧
    (s.cw.handling = false → s.cw.held = false → (∃ r ∈ p.regs.vd :: p.srcs, 40 ≤ r) →
      exec i s = .next (s.takeTrap ⟨0x09, 0, 0, false⟩)) ∧
    (s.cw.handling = true → (∃ r ∈ p.regs.vd :: p.srcs, 8 ≤ r) →
      exec i s = .next (s.takeTrap ⟨0x01, 0, 0, false⟩))

/-- R126, R127: shuffles. Those that cross a lane pair are long-latency producers; the others write vd at once. -/
def Sys2Proof.Claims.Shuffles : Prop :=
  ∀ (s : State) (i : Instr) (p : ShufOp), shufOp s i = some p → p.ready s = true →
    exec i s = .next (((if p.now then (popAll s p.srcs).writeV p.vd p.act (p.vals s)
      else pendV (popAll s p.srcs) p.vd none
        (.value (s.vdst p.vd 1) p.act [(List.range 32).map (p.vals s)] 0)).latchVa p.h p.va).done)

/-- R128, R129, R87: reductions and votes. -/
def Sys2Proof.Claims.PisteResults : Prop :=
  ∀ (s : State) (i : Instr) (f : VU) (n : Nat), n ≤ 5 → s.cw.piste.toNat = 2 ^ n →
    (∃ v, pisteVal 1 0 (fun _ => 0) (fun _ => true) i = some (f, v)) →
    let va := f.va.toNat
    [f.vd.toNat, va].all (vOk s) = true → dstOk s f.vd.toNat = true → srcsOk s [va] [] = true →
    clean (valsOf s [va] []) (s.active f.kp) = true →
    exec i s = .next ((((popAll s [va]).writeV f.vd.toNat (s.active f.kp) fun l =>
      ((pisteVal (2 ^ n) (base (2 ^ n) l) (valOf s 0 va).lane (s.active f.kp).getLsbD i).map (·.2)).getD 0).latchVa
        f.h f.va).done)

/-- R345, R346: draws; RNGOVF at the last DRAW, and DRAW advances once. -/
def Sys2Proof.Claims.RandomDraws : Prop :=
  ∀ (s : State) (i : Instr) (vd : Nat) (src : Option (BitVec 6 × BitVec 1)) (act : Word) (g : Word → Word → Word),
    drawOp s i = some (vd, src, act, g) →
    let srcs := src.toList.map (·.1.toNat)
    (s.cw.rngc.extractLsb' 0 24 = 0xFFFFFF → exec i s = .next (s.takeTrap ⟨0x0E, 0, 0, false⟩)) ∧
    (s.cw.rngc.extractLsb' 0 24 ≠ 0xFFFFFF → (vd :: srcs).all (vOk s) = true → dstOk s vd = true →
      srcsOk s srcs [] = true → clean (valsOf s srcs []) act = true →
      exec i s = .next ((match src with | some x => fun t : State => t.latchVa x.2 x.1 | none => id)
        (((popAll s srcs).writeV vd act fun l =>
          g (((valsOf s srcs []).getD 0 {}).lane l) (rngOf s.cw.rngk s.cw.rngc l)).modCw fun w =>
            { w with rngc := w.rngc + 1 })).done)

namespace Sys2Proof.Claims

/-! ## Control -/

/-- The prefix an EXT word gives (R54). -/
def prefixOf : Instr → Option Pfx
  | .immx p => some (.immx p)
  | .obs o m => some (.obs o m)
  | .hint h => some (.hint h)
  | .rep b a st c => some (.rep b a st c)
  | .role r => some (.role r)
  | .predx n k => some (.predx n k)
  | _ => none

/-- A branch: the scalar it waits for, its fields, and whether it is taken (R136). -/
def branchOf (s : State) : Instr → Option (List Nat × BR × Bool)
  | .bz f => some ([f.sa.toNat], f, sv s f.sa = 0)
  | .bnz f => some ([f.sa.toNat], f, sv s f.sa ≠ 0)
  | .blz f => some ([f.sa.toNat], f, (sv s f.sa).getLsbD 63)
  | .bgez f => some ([f.sa.toNat], f, !(sv s f.sa).getLsbD 63)
  | .bkany f => some ([], f, (s.cw.pred f.sa.toNat &&& s.exm) ≠ 0)
  | .bkall f => some ([], f, s.exm ≠ 0 ∧ s.exm &&& ~~~ s.cw.pred f.sa.toNat = 0)
  | .bknone f => some ([], f, (s.cw.pred f.sa.toNat &&& s.exm) = 0)
  | _ => none

/-- The fragment goes on at pc. -/
def goesTo (s : State) (pc : DWord) : State := (s.setPc pc).issued

/-- A register jump: its target register and whether it links (R139). -/
def jumpOf : Instr → Option (Nat × Bool)
  | .jr a => some (a.toNat, false)
  | .callr a => some (a.toNat, true)
  | .ret => some (63, false)
  | _ => none

/-- The unit has a wave with eight fragments and a live fragment of its own. -/
def Cur (s : State) : Prop := s.cur.wave < s.waves.length ∧ s.cur.frag < 8 ∧ s.cw.frags.length = 8 ∧ s.cf.live = true

/-- Fragment f of the unit's wave. -/
def frag (s : State) (f : Nat) : Frag := s.cw.frags.getD f {}

/-- Fragment f is in the join group that fragment g has on top of its stack. -/
def inGroup (s : State) (g f : Nat) : Bool :=
  match (frag s g).joins.head? with
  | some j => (frag s f).live && (frag s f).joins.any fun k => k.depth == j.depth && k.epoch == j.epoch
  | none => false

/-- No fragment of the wave waits for a block, and the wave waits for none since it was resumed. -/
def asksNoBlock (w : Wave) : Prop := w.blk = none ∧ ∀ f ∈ w.frags, f.live = true → ∀ n, f.park ≠ .vx n

/-- Lanes or masks of the fragments that p picks, together. -/
def union (s : State) (p : Nat → Bool) (g : Frag → Word) : Word :=
  ((List.range 8).filter p).foldl (fun m f => m ||| g (frag s f)) 0

end Sys2Proof.Claims

/-- R48, R54: a prefix changes nothing but the unit: the next instruction carries it. A second prefix raises ILL. -/
def Sys2Proof.Claims.Prefixes : Prop :=
  ∀ (s : State) (i : Instr) (p : Pfx), prefixOf i = some p →
    (s.cur.pfx = none → exec i s = .next { s with cur := { s.cur with pfx := some p, pc := s.cur.nxt, opened := true } }) ∧
    (s.cur.pfx ≠ none → exec i s = .next (s.takeTrap ⟨0x01, 0, 0, false⟩))

/-- R136: a branch goes to PC + 2 disp when taken, else to the next instruction. -/
def Sys2Proof.Claims.Branches : Prop :=
  ∀ (s : State) (i : Instr) (srcs : List Nat) (f : BR) (taken : Bool), branchOf s i = some (srcs, f, taken) →
    sReady s srcs = true →
    exec i s = .next (goesTo s (if taken then s.cur.pc + f.disp.signExtend 64 * 2 else s.cur.nxt))

/-- R138, R139: JMP, CALL, JR, CALLR and RET; a link is s63 := PC + 4 with tag 0, written after the target is read; a
tag other than 0x00 raises TAG, and bit 0 set raises ALIGN, at the jump, with nothing written. That TAG comes first where both
hold is the model's choice, log 91. -/
def Sys2Proof.Claims.Jumps : Prop :=
  (∀ (s : State) (disp : BitVec 24), exec (.jmp disp) s = .next (goesTo s (s.cur.pc + disp.signExtend 64 * 2))) ∧
  (∀ (s : State) (disp : BitVec 24), s.cw.handling = false →
    exec (.call disp) s = .next (goesTo (s.writeS 63 s.cur.nxt 0) (s.cur.pc + disp.signExtend 64 * 2))) ∧
  (∀ (s : State) (i : Instr) (r : Nat) (link : Bool), jumpOf i = some (r, link) → sReady s [r] = true →
    (link = true → s.cw.handling = false) →
    exec i s = .next (
      if (s.sreg r).tag ≠ 0 then s.takeTrap ⟨0x05, (s.sreg r).tag ++ (s.sreg r).val, 0, false⟩
      else if (s.sreg r).val.getLsbD 0 then s.takeTrap ⟨0x02, (s.sreg r).tag ++ (s.sreg r).val, 0, false⟩
      else goesTo (if link then s.writeS 63 s.cur.nxt 0 else s) (s.sreg r).val))

/-- R22, R23, R137: BRV moves the fragment whole when no lane, or every lane, takes it; with eight live fragments a
divergence raises FRAGOVF, which is checked before DEPTH at depth 16. -/
def Sys2Proof.Claims.BrvWhole : Prop :=
  ∀ (s : State) (f : BR), s.cw.handling = false →
    let T := s.cf.exm &&& s.cw.pred f.sa.toNat
    let N := s.cf.exm &&& ~~~ s.cw.pred f.sa.toNat
    (T = 0 → exec (.brv f) s = .next (goesTo s s.cur.nxt)) ∧
    (T ≠ 0 → N = 0 → exec (.brv f) s = .next (goesTo s (s.cur.pc + f.disp.signExtend 64 * 2))) ∧
    (T ≠ 0 → N ≠ 0 → (∀ g, g < 8 → (frag s g).live = true) → exec (.brv f) s = .next (s.takeTrap ⟨0x08, 0, 0, false⟩)) ∧
    (T ≠ 0 → N ≠ 0 → (∃ g, g < 8 ∧ (frag s g).live = false) → 16 ≤ s.cf.depth →
      exec (.brv f) s = .next (s.takeTrap ⟨0x16, 0, 0, false⟩))

/-- R21, R22, R25, R137: a diverging BRV detaches the smaller side as the lowest free fragment; both sides are one
deeper, in one new join group that the keeper leads, and no register or byte of memory changes. -/
def Sys2Proof.Claims.BrvCarves : Prop :=
  ∀ (s : State) (f : BR), Cur s → s.cw.handling = false →
    let T := s.cf.exm &&& s.cw.pred f.sa.toNat
    let N := s.cf.exm &&& ~~~ s.cw.pred f.sa.toNat
    let target := s.cur.pc + f.disp.signExtend 64 * 2
    T ≠ 0 → N ≠ 0 → s.cf.depth < 16 → (∀ g, (frag s g).joins.length ≤ 16) → ∀ n, n < 8 → (frag s n).live = false → (∀ m, m < n → (frag s m).live = true) →
    let small := popcount T ≤ popcount N
    ∃ t e, exec (.brv f) s = .next t ∧ e ≠ 0 ∧ (∀ g j, (frag s g).live = true → j ∈ (frag s g).joins → j.epoch ≠ e) ∧
      (frag t n).live = true ∧ (frag t n).lanes = (if small then T else N) ∧ (frag t n).exm = (frag t n).lanes ∧
      (frag t n).pc = (if small then target else s.cur.nxt) ∧ (frag t n).s = s.cf.s ∧
      (frag t n).depth = s.cf.depth + 1 ∧ ((frag t n).joins.head?.map fun j => (j.depth, j.epoch, j.keeper)) =
        some (s.cf.depth + 1, e, false) ∧
      t.cf.live = true ∧ t.cf.lanes = s.cf.lanes &&& ~~~ (frag t n).lanes ∧ t.cf.exm = (if small then N else T) ∧
      t.cf.pc = (if small then s.cur.nxt else target) ∧ t.cf.s = s.cf.s ∧ t.cf.depth = s.cf.depth + 1 ∧
      t.cf.joins = ⟨s.cf.depth + 1, e, true⟩ :: s.cf.joins ∧
      (∀ m, m ≠ n → m ≠ s.cur.frag → frag t m = frag s m) ∧
      t.cw.v = s.cw.v ∧ t.cw.k = s.cw.k ∧ (∀ l, t.raw l = s.raw l) ∧ t.gangs = s.gangs

/-- R26, R141: at depth 0 JOIN is a no-op. Deeper, the fragment parks; the arrival that makes its group complete
merges it into the keeper, which goes on after its JOIN with the lanes and active lanes of all. -/
def Sys2Proof.Claims.JoinMerges : Prop :=
  (∀ s : State, s.cw.handling = false → s.cf.depth = 0 → exec .join s = .next s.done) ∧
  (∀ s : State, Cur s → s.cw.handling = false → s.cf.depth ≠ 0 → s.cw.readyGroup = none →
    (∃ g, g ≠ s.cur.frag ∧ g < 8 ∧ inGroup s s.cur.frag g = true ∧ (frag s g).park ≠ .join) →
    ∃ t, exec .join s = .next t ∧ t.cf.park = .join ∧ t.cf.pc = s.cf.pc ∧ t.cf.lanes = s.cf.lanes ∧
      t.cf.exm = s.cf.exm ∧ (∀ g, g ≠ s.cur.frag → frag t g = frag s g) ∧ t.mem = s.mem) ∧
  (∀ (s : State) (k : Nat), Cur s → s.cw.handling = false → s.cf.depth ≠ 0 → s.cw.readyGroup = none → k < 8 →
    s.cf.joins ≠ [] →
    (∀ g, g < 8 → inGroup s s.cur.frag g = true →
      (g = s.cur.frag ∨ (frag s g).park = .join) ∧
      ((frag s g).joins.head?.map fun j => (j.depth, j.epoch)) = (s.cf.joins.head?.map fun j => (j.depth, j.epoch)) ∧
      (((frag s g).joins.head?.map (·.keeper)) = some true ↔ g = k)) →
    inGroup s s.cur.frag k = true →
    ∃ t, exec .join s = .next t ∧ (frag t k).live = true ∧ (frag t k).pc = (frag s k).pc + 4 ∧
      (frag t k).lanes = union s (inGroup s s.cur.frag) (·.lanes) ∧ (frag t k).exm = union s (inGroup s s.cur.frag) (·.exm) ∧
      (frag t k).depth = (frag s k).depth - 1 ∧ (frag t k).joins = (frag s k).joins.tail ∧ (frag t k).s = (frag s k).s ∧
      (∀ g, g < 8 → inGroup s s.cur.frag g = true → g ≠ k → (frag t g).live = false))

/-- R27, R142, R18: EXIT takes the lanes of EXM out; with the whole lane set the fragment ends, and the wave with its
last fragment. -/
def Sys2Proof.Claims.ExitEnds : Prop :=
  (∀ s : State, s.cw.handling = false → s.cf.exm ≠ s.cf.lanes →
    exec .exit s = .next (s.modCf fun f => { f with
      lanes := s.cf.lanes &&& ~~~ s.cf.exm
      exm := if s.cf.exm = 0 then 0 else s.cf.lanes &&& ~~~ s.cf.exm }).done) ∧
  (∀ s : State, Cur s → s.cw.handling = false → s.cf.exm = s.cf.lanes → s.cw.mode = .run →
    ∃ t, exec .exit s = .next t ∧ t.cf.live = false ∧
      ((∀ g, g < 8 → g ≠ s.cur.frag → (frag s g).live = false) → t.cw.mode = .ended ∧ t.cw.xbh = 0))

/-- R143: YIELD and NOP32 only go on; BKPT raises BKPT with its code in TRAPA. -/
def Sys2Proof.Claims.Nops : Prop :=
  (∀ s : State, exec .yield s = .next s.done ∧ exec .nop32 s = .next s.done) ∧
  (∀ (s : State) (c : BitVec 7), exec (.bkpt c) s = .next (s.takeTrap ⟨0x12, c.setWidth 72, 0, false⟩))

/-- R144: ELECT writes the lowest lane of EXM, or 32, and the unit goes on with that one lane. -/
def Sys2Proof.Claims.ElectsLowest : Prop :=
  ∀ (s : State) (sd : BitVec 6), sOk s sd.toNat = true → s.cur.pfx = none → s.cur.elect = none →
    ∃ t l, exec (.elect sd) s = .next t ∧
      ((s.exm = 0 ∧ l = 32 ∧ t.cur.elect = some 0) ∨
       (l < 32 ∧ s.exm.getLsbD l = true ∧ (∀ m, m < l → s.exm.getLsbD m = false) ∧ t.cur.elect = some (1#32 <<< l))) ∧
      t.cur.opened = true ∧ t.cur.pc = s.cur.nxt ∧ t.cur.start = s.cur.start ∧
      { t with cur := s.cur } = s.writeS sd.toNat (BitVec.ofNat 64 l) 0 ∧ t.cf.exm = s.cf.exm

/-- R131, R135, R205: piste width, active mask and default observers. That EXMASK behind an ELECT writes EXM all the same, and
keeps it after the unit, is the model's choice, log 92. -/
def Sys2Proof.Claims.WaveSettings : Prop :=
  (∀ (s : State) (n : BitVec 7), [2, 4, 8, 16, 32].contains n.toNat →
    exec (.vpart n) s = .next (s.modCw fun w => { w with piste := BitVec.ofNat 6 n.toNat }).done) ∧
  (∀ (s : State) (mode : BitVec 7) (a : BitVec 6), s.cw.handling = false → mode.toNat < 3 →
    exec (.exmask mode a) s = .next (s.modCf fun f => { f with
      exm := if mode = 0 then f.exm &&& s.cw.pred a.toNat
        else if mode = 1 then f.lanes &&& s.cw.pred a.toNat else f.lanes }).done) ∧
  (∀ (s : State) (ord : BitVec 2) (mask : BitVec 5),
    exec (.setobs ord mask) s = .next (s.modCw fun w => { w with
      obsd := (BitVec.ofNat 3 (ord.toNat + 1) ++ mask : BitVec 8) }).done)

/-- R30, R132, R133: VXACQ outside depth 0, with two fragments, or in a role without .xblock raises XBLK. A wave that
holds a block goes on; a free block is granted when nobody asked before, and is cleared. VXREL hands it to the oldest VXACQ
that waits on the partition. -/
def Sys2Proof.Claims.ExtendedBlock : Prop :=
  (∀ s : State, (2 ≤ s.cw.liveFrags.length ∨ s.cf.depth ≠ 0 ∨ s.crole.xb = false) →
    exec .vxacq s = .next (s.takeTrap ⟨0x09, 0, 0, false⟩)) ∧
  (∀ s : State, s.cw.liveFrags.length ≤ 1 → s.cf.depth = 0 → s.crole.xb = true → s.cw.held = true →
    exec .vxacq s = .next s.done) ∧
  (∀ (s : State) (b : Nat), s.cur.wave < s.waves.length → s.cw.liveFrags.length ≤ 1 → s.cf.depth = 0 →
    s.crole.xb = true → s.cw.held = false → (∀ n, s.cf.park ≠ .vx n) → s.oldestVx s.cw.partNo = none → b < 8 →
    b ∉ s.heldBlocks s.cw.partNo → (∀ c, c < b → c ∈ s.heldBlocks s.cw.partNo) → s.cw.v.length = 56 →
    ∃ t, exec .vxacq s = .next t ∧ t.cw.held = true ∧ t.cw.xbh.toNat / 2 % 8 = b ∧ t.cw.xbh.getLsbD 4 = false ∧
      (∀ r, 40 ≤ r → t.cw.v.getD r {} = {}) ∧ (∀ r, r < 40 → t.cw.v.getD r {} = s.cw.v.getD r {}) ∧ t.mem = s.mem) ∧
  (∀ s : State, (2 ≤ s.cw.liveFrags.length ∨ s.cf.depth ≠ 0) →
    exec .vxrel s = .next (s.takeTrap ⟨0x09, 0, 0, false⟩)) ∧
  (∀ s : State, s.cw.liveFrags.length ≤ 1 → s.cf.depth = 0 → s.cw.held = false → exec .vxrel s = .next s.done) ∧
  (∀ s : State, s.cur.wave < s.waves.length → s.cw.liveFrags.length ≤ 1 → s.cf.depth = 0 → s.cw.held = true →
    asksNoBlock s.cw → (∀ r, 40 ≤ r → (s.cw.v.getD r {}).empty = false) →
    ∃ t, exec .vxrel s = .next t ∧ t.cw.held = false ∧ (∀ r, r < 40 → t.cw.v.getD r {} = s.cw.v.getD r {}) ∧ t.mem = s.mem ∧
      ∀ (v : Nat) (f : Frag) (n : Nat), v < s.waves.length → v ≠ s.cur.wave → (s.wave v).partNo = s.cw.partNo →
        (s.wave v).held = false → (s.wave v).blk = none → f ∈ (s.wave v).frags → f.live = true → f.park = .vx n →
        s.oldestVx s.cw.partNo = some f.parkSeq →
        (∀ u, u < s.waves.length → u ≠ s.cur.wave → (s.wave u).held = true → (s.wave u).partNo = s.cw.partNo →
          (s.wave u).xbh.toNat / 2 % 8 ≠ s.cw.xbh.toNat / 2 % 8) →
        (t.wave v).held = true ∧ ∀ r, 40 ≤ r → (t.wave v).v.getD r {} = (if 40 ≤ (s.wave v).v.length then ({} : VReg) else
          ((s.wave v).v.take 40 ++ List.replicate 16 ({} : VReg)).getD r {}))

/-- R30, R132: a VXACQ that has waited more than 2^20 core cycles raises XWAIT at its address, and the wave holds no
block; not one that is the oldest of its partition while a block is free. -/
def Sys2Proof.Claims.BlockWaitEnds : Prop :=
  ∀ (s : State) (w f n : Nat), (s.wave w).liveFrags = [f] → ((s.wave w).frags.getD f {}).park = .vx n →
    (s.wave w).held = false →
    (s.freeBlock (s.wave w).partNo = none ∨ s.oldestVx (s.wave w).partNo ≠ some ((s.wave w).frags.getD f {}).parkSeq) →
    2 ^ 20 < (s.time - n) * ((s.islands.find? fun i => i.1 == (s.wave w).clusterNo / 20 * 5 + (s.wave w).clusterNo % 20 / 4).map
      (·.2)).getD 2250 / 1000 →
    let pc := if (s.wave w).handling then (s.wave w).hpc else ((s.wave w).frags.getD f {}).pc
    exec (.xwait w) s = .next ((({ s with cur := { wave := w, frag := f, start := pc, pc := pc, nxt := pc + 4 } }).modCw
      fun x => { x with xbh := 0 }).takeTrap ⟨0x0A, 0, 0, false⟩)

namespace Sys2Proof.Claims

/-! ## Traps and system registers -/

/-- The vector entry of a cause (R351). -/
def vector (s : State) (c : Byte) : BitVec 128 := s.cv.vectors.getD c.toNat 0

/-- The route is fixed: KVDRY, and BKPT and WATCH while dmt is attached (R352). -/
def fixedRoute (s : State) (c : Byte) : Prop := c = 0x0D ∨ (s.cv.dmt = true ∧ (c = 0x12 ∨ c = 0x13))

/-- What a precise fault saves (R353, R98): TRAPC = {CAUSE, LANE, FRAG, GANG 0}, TRAPA, TRAPL and EPC. -/
structure Saves (s t : State) (x : Trap) : Prop where
  trapc : t.cw.trapc = (0#1 ++ BitVec.ofNat 3 s.cur.frag ++ BitVec.ofNat 5 (if x.lanes = 0 then 0 else lowest x.lanes)
    ++ x.cause : BitVec 17)
  trapa : t.cw.trapa = x.addr
  trapl : t.cw.trapl = x.lanes
  epc : t.cf.epc = if x.after then s.cur.nxt else s.cur.start
  pc : t.cf.pc = s.cf.pc
  regs : t.cf.s = s.cf.s ∧ t.cw.v = s.cw.v ∧ t.cw.k = s.cw.k ∧ t.cw.y = s.cw.y ∧ t.cw.w = s.cw.w
  frags : ∀ g, g ≠ s.cur.frag → frag t g = frag s g
  flight : t.flight = s.flight

/-- What SRD returns (R75, R98, R99), value and tag; register 14 is TIME's. -/
def srdVal (s : State) : Nat → DWord × Byte
  | 0 => (s.cf.exm.setWidth 64, 0)
  | 1 => (s.cw.piste.setWidth 64, 0)
  | 2 => (s.cw.obsd.setWidth 64, 0)
  | 3 => (s.cw.rngk, 0)
  | 4 => (s.cw.rngc.extractLsb' 0 64, 0)
  | 5 => (s.cw.stat.setWidth 64, 0)
  | 6 => (s.cw.trapc.setWidth 64, 0)
  | 7 => (s.cw.trapa.extractLsb' 0 64, s.cw.trapa.extractLsb' 64 8)
  | 8 => (s.cw.trapl.setWidth 64, 0)
  | 9 => (s.cf.epc, 0)
  | 10 => (s.cw.path.setWidth 64, 0)
  | 11 => (s.cw.xbh.setWidth 64, 0)
  | 12 => (BitVec.ofNat 64 (s.cw.slot + 16 * s.cw.part + 64 * s.cw.core + 256 * s.cw.cluster + 8192 * s.cw.die
      + 65536 * s.cw.wgslot), 0)
  | _ => (BitVec.ofNat 64 s.cg.vd, 0)

/-! ## Words of local memory -/

/-- Where the word lies that scalar r addresses; the cause of R336 where it does not. -/
def localWord (s : State) (r : Nat) : Except Byte Loc :=
  if (s.sreg r).val.toNat % 8 ≠ 0 then .error 0x02
  else match s.cg.localLoc (s.sreg r).val.toNat with
    | some l => .ok l
    | none => .error 0x1B

def word (s : State) (l : Loc) : BitVec 64 := BitVec.ofNat 64 (natOf ((s.raws l 8).map (·.1)))
def putWord (s : State) (l : Loc) (v : BitVec 64) : State := s.putRaws l ((bytesOf 8 v.toNat).map fun b => (b, false))

/-- No earlier local access of the fragment is outstanding. -/
def localQuiet (s : State) : Prop :=
  ∀ o ∈ s.flight, o.wave = s.cur.wave → s.cur.frag ∈ o.owners → o.isAccess = true →
    ∀ a ∈ o.accs, a.place.isLocal = false

/-- The barrier bound to b in the unit's workgroup. -/
def bar (s : State) (p : Nat) : Nbar := s.cwg.bars.getD p {}

end Sys2Proof.Claims

/-- R353, R351: a fault that its vector routes to HANDLER saves the trap registers and enters the handler at HPC. -/
def Sys2Proof.Claims.TrapToHandler : Prop :=
  ∀ (s : State) (x : Trap), s.cur.wave < s.waves.length → s.cur.frag < 8 → s.cw.frags.length = 8 → s.cw.mode = .run →
    s.cur.undo = none → ¬fixedRoute s x.cause → (vector s x.cause).extractLsb' 64 2 = 1#2 →
    Saves s (s.takeTrap x) x ∧ (s.takeTrap x).cw.mode = .handler s.cur.frag ∧
    (s.takeTrap x).cw.hpc = (vector s x.cause).extractLsb' 0 64 ∧ (∀ l, (s.takeTrap x).raw l = s.raw l) ∧
    ∀ w, w ≠ s.cur.wave → (s.takeTrap x).wave w = s.wave w

/-- R352, R353, R356, R396: a fault routed to SUPER saves the trap registers, suspends the wave, and a supervisor report
of kind 4 with the cause enters the PF's queue. -/
def Sys2Proof.Claims.TrapToSupervisor : Prop :=
  ∀ (s : State) (x : Trap), s.cur.wave < s.waves.length → s.cur.frag < 8 → s.cw.frags.length = 8 → s.cw.mode = .run →
    s.cur.undo = none → (fixedRoute s x.cause ∨ (vector s x.cause).extractLsb' 64 2 = 2#2) → s.recovery = false → s.canon →
    s.pfHeld = [] → (s.pfWr + 2048 - s.pfRd) % 2048 < 1024 →
    let t := s.takeTrap x
    Saves s t x ∧ t.cw.mode = .suspended s.cur.frag s.time ∧ t.pfWr = (s.pfWr + 1) % 2048 ∧
    (t.raw ⟨.cmd 64, 32 * (s.pfWr % 1024)⟩).1 = 4 ∧ (t.raw ⟨.cmd 64, 32 * (s.pfWr % 1024) + 1⟩).1 = x.cause ∧
    ∀ l : Loc, (∀ j, j < 32 → l.key ≠ Loc.key ⟨.cmd 64, 32 * (s.pfWr % 1024) + j⟩) → t.raw l = s.raw l

/-- R353, R357, R364: a fault routed to KILL, and any fault in a handler or in recompute code, ends every wave of the
gang and marks its launch killed. -/
def Sys2Proof.Claims.TrapKills : Prop :=
  ∀ (s : State) (x : Trap), s.cur.wave < s.waves.length → s.cw.gang < s.gangs.length → s.cg.st ≠ .retired →
    s.cur.undo = none → s.cg.launch < s.launches.length →
    (s.cw.handling = true ∨ s.cw.mode = .recompute ∨
      (s.cw.mode = .run ∧ ¬fixedRoute s x.cause ∧ ((vector s x.cause).extractLsb' 64 2 = 0#2 ∨
        (vector s x.cause).extractLsb' 64 2 = 3#2))) →
    (∀ w ∈ s.cg.waves, ((s.takeTrap x).wave w).mode = .ended ∨ s.waves.length ≤ w) ∧
    ((s.takeTrap x).launch s.cg.launch).killed = true

/-- R368: TRAP raises cause 0x11 with its code in TRAPA and EPC after it. R369: RETT leaves a handler, and fragment F
goes on at EPC; outside a handler and recompute code it raises PRIV. -/
def Sys2Proof.Claims.TrapAndReturn : Prop :=
  (∀ (s : State) (code : BitVec 7), exec (.trap code) s = .next (s.takeTrap ⟨0x11, code.setWidth 72, 0, true⟩)) ∧
  (∀ (s : State) (f : Nat), s.cur.wave < s.waves.length → f < s.cw.frags.length → s.cw.mode = .handler f →
    ∃ t, exec .rett s = .next t ∧ t.cw.mode = .run ∧ (frag t f).pc = (frag s f).epc ∧ (frag t f).s = (frag s f).s ∧
      (∀ g, g ≠ f → (frag t g).pc = (frag s g).pc) ∧ t.cw.v = s.cw.v ∧ t.cw.y = s.cw.y ∧ t.cw.commit = s.cw.commit ∧
      t.mem = s.mem ∧ t.flight = s.flight) ∧
  (∀ s : State, s.cur.wave < s.waves.length → s.cur.frag < s.cw.frags.length → s.cw.mode = .recompute →
    ∃ t, exec .rett s = .next t ∧ t.cw.mode = .run ∧ t.cf.pc = s.cf.epc ∧ t.cf.s = s.cf.s ∧ t.cw.v = s.cw.v ∧
      (∀ g, g ≠ s.cur.frag → (frag t g).pc = (frag s g).pc) ∧ t.mem = s.mem) ∧
  (∀ s : State, s.cw.handling = false → s.cw.mode ≠ .recompute → exec .rett s = .next (s.takeTrap ⟨0x1A, 0, 0, false⟩))

/-- R98, R99, R370, R371, R6: SRD and SWR for every system register; RO registers discard a write, OBSD discards a
reserved value, STAT is cleared by ones, and EPC outside a handler and recompute code raises PRIV. -/
def Sys2Proof.Claims.SystemRegisters : Prop :=
  (∀ (s : State) (r : BitVec 7) (d : BitVec 6), r.toNat < 14 → sOk s d.toNat = true →
    exec (.srd r d) s = .next (s.writeS d.toNat (srdVal s r.toNat).1 (srdVal s r.toNat).2).done) ∧
  (∀ (s : State) (d : BitVec 6), exec (.srd 14 d) s = exec (.time d) s) ∧
  (∀ (s : State) (r : BitVec 7) (a : BitVec 6), sReady s [a.toNat] = true → (r = 9 → s.cw.handling = true ∨ s.cw.mode = .recompute) →
    let v := sv s a
    exec (.swr r a) s = .next (
      if r = 2 then
        (if v.extractLsb' 0 5 ≠ 0#5 ∧ 1 ≤ (v.extractLsb' 5 3).toNat ∧ (v.extractLsb' 5 3).toNat ≤ 4
          then s.modCw fun w => { w with obsd := v.extractLsb' 0 8 } else s)
      else if r = 3 then s.modCw fun w => { w with rngk := v }
      else if r = 4 then s.modCw fun w => { w with rngc := (w.rngc.extractLsb' 64 32 ++ v : BitVec 96) }
      else if r = 5 then s.modCw fun w => { w with stat := w.stat &&& ~~~ v.extractLsb' 0 3 }
      else if r = 9 then s.modCf fun f => { f with epc := v &&& 0xFFFFFFFFFFFFFFFE }
      else s).done) ∧
  (∀ (s : State) (a : BitVec 6), sReady s [a.toNat] = true → s.cw.handling = false → s.cw.mode ≠ .recompute →
    exec (.swr 9 a) s = .next (s.takeTrap ⟨0x1A, 0, 0, false⟩))

/-- R335, R336: BARWARR waits for the fragment's accesses, then takes its arrival step; BARWWAIT goes on when GEN differs, and waits while it does not; ALIGN,
LOCAL and SYNCOVR. -/
def Sys2Proof.Claims.BarrierWords : Prop :=
  (∀ (s : State) (f : YF) (l : Loc), sOk s f.d.toNat = true → sReady s [f.a.toNat] = true → localWord s f.a.toNat = .ok l →
    (s.settled = false → exec (.barwarr f) s = .next { s with cur := { s.cur with stalled := true, opened := false } }) ∧
    (s.settled = true →
    let w := word s l
    let n := f.imm.toNat
    let count := (w.extractLsb' 0 16).toNat
    let gen := w.extractLsb' 32 32
    if w.extractLsb' 24 8 ≠ 0#8 ∨ (count ≠ 0 ∧ (w.extractLsb' 16 8).toNat ≠ n) then
      exec (.barwarr f) s = .next (s.takeTrap ⟨0x0F, (s.sreg f.a.toNat).val.setWidth 72, 0, false⟩)
    else s.cw.mode ≠ .recompute →
      exec (.barwarr f) s = .next ((putWord s.commitMark l
        (if count + 1 = n then (gen + 1) ++ 0#32 else gen ++ 0#8 ++ BitVec.ofNat 8 n ++ BitVec.ofNat 16 (count + 1))).writeS
          f.d.toNat (gen.setWidth 64) 0).done)) ∧
  (∀ (s : State) (a d : BitVec 6) (l : Loc), sReady s [a.toNat, d.toNat] = true → localWord s a.toNat = .ok l → localQuiet s →
    exec (.barwwait a d) s = .next (if (word s l).extractLsb' 32 32 ≠ (sv s d).extractLsb' 0 32 then s.done
      else { s with cur := { s.cur with stalled := true, opened := false } })) ∧
  (∀ (s : State) (i : Instr) (a : BitVec 6) (c : Byte),
    ((∃ f : YF, i = .barwarr f ∧ f.a = a ∧ sOk s f.d.toNat = true ∧ sReady s [a.toNat] = true) ∨
     (∃ d, i = .barwwait a d ∧ sReady s [a.toNat, d.toNat] = true) ∨
     (∃ d, i = .syncwait a d ∧ sReady s [a.toNat] = true ∧ sOk s d.toNat = true) ∨
     (∃ d, (i = .syncinit a d ∨ i = .syncadd a d) ∧ sReady s [a.toNat, d.toNat] = true ∧ (sv s d).toNat < 2 ^ 28)) →
    localWord s a.toNat = .error c →
    exec i s = .next (s.takeTrap ⟨c, (s.sreg a.toNat).val.setWidth 72, 0, false⟩))

/-- R337, R338: sync words. TOTAL is bits 27:0, TARGET 55:28, GEN 62:56, OVR 63. -/
def Sys2Proof.Claims.SyncWords : Prop :=
  (∀ (s : State) (a d : BitVec 6) (l : Loc), sReady s [a.toNat, d.toNat] = true → (sv s d).toNat < 2 ^ 28 →
    localWord s a.toNat = .ok l → localQuiet s →
    exec (.syncinit a d) s = .next (putWord s l (0#1 ++ ((word s l).extractLsb' 56 7 + 1) ++ (sv s d).extractLsb' 0 28 ++ 0#28)).done) ∧
  (∀ (s : State) (a d : BitVec 6) (l : Loc), sReady s [a.toNat, d.toNat] = true → (sv s d).toNat < 2 ^ 28 →
    localWord s a.toNat = .ok l → s.settled = true → s.cw.mode ≠ .recompute →
    let w := word s l
    let sum := (w.extractLsb' 0 28).toNat + (sv s d).toNat
    exec (.syncadd a d) s = .next (putWord s.commitMark l
      (if (w.extractLsb' 28 28).toNat < sum then 1#1 ++ w.extractLsb' 0 63
       else w.extractLsb' 28 36 ++ BitVec.ofNat 28 sum)).done) ∧
  (∀ (s : State) (i : Instr) (a d : BitVec 6), (i = .syncinit a d ∨ i = .syncadd a d) → sReady s [a.toNat, d.toNat] = true →
    2 ^ 28 ≤ (sv s d).toNat → exec i s = .next (s.takeTrap ⟨0x01, 0, 0, false⟩)) ∧
  (∀ (s : State) (a d : BitVec 6) (l : Loc), sReady s [a.toNat] = true → sOk s d.toNat = true →
    localWord s a.toNat = .ok l → localQuiet s →
    let w := word s l
    let gen := (w.extractLsb' 56 7).toNat
    let g := match s.cf.park with | .sync g => g | _ => gen
    exec (.syncwait a d) s = .next (
      if g = gen ∧ w.getLsbD 63 then s.takeTrap ⟨0x0F, (s.sreg a.toNat).val.setWidth 72, 0, false⟩
      else if g ≠ gen then (s.writeS d.toNat 1 0).done
      else if w.extractLsb' 0 28 = w.extractLsb' 28 28 then (s.writeS d.toNat 0 0).done
      else if s.cf.park = .sync g then { s with cur := { s.cur with stalled := true, opened := false } }
      else ({ (s.modCf fun f => { f with park := .sync g }).unelect with cur := { s.cur with opened := false } })))

/-- R331, R333: NBARINIT binds the lowest free physical barrier, unbinds with count 0, sets EXPECT when bound, and raises
ILL, or SYNCOVR with b in TRAPA. -/
def Sys2Proof.Claims.NbarInit : Prop :=
  ∀ (s : State) (b : BitVec 7) (d : BitVec 6), Cur s → s.cw.gang < s.gangs.length → s.cw.wg < s.cg.wgs.length →
    s.cwg.bars.length = 3 → sReady s [d.toNat] = true →
    let c := (sv s d).toNat
    (16 < c → exec (.nbarinit b d) s = .next (s.takeTrap ⟨0x01, 0, 0, false⟩)) ∧
    (c ≤ 16 → ∀ p, p < 3 → (bar s p).bound = true → (bar s p).num = b.toNat →
      (∀ q, q < p → (bar s q).bound = false ∨ (bar s q).num ≠ b.toNat) →
      ((bar s p).count ≠ 0 → exec (.nbarinit b d) s = .next (s.takeTrap ⟨0x0F, b.setWidth 72, 0, false⟩)) ∧
      ((bar s p).count = 0 → s.cw.mode ≠ .recompute → ∃ t, exec (.nbarinit b d) s = .next t ∧ t.mem = s.mem ∧
        bar t p = (if c = 0 then { bar s p with bound := false } else { bar s p with expect := c }) ∧
        ∀ q, q ≠ p → bar t q = bar s q)) ∧
    (0 < c → c ≤ 16 → (∀ p, p < 3 → (bar s p).bound = false ∨ (bar s p).num ≠ b.toNat) →
      ((∀ p, p < 3 → (bar s p).bound = true) →
        exec (.nbarinit b d) s = .next (s.takeTrap ⟨0x0F, b.setWidth 72, 0, false⟩)) ∧
      (∀ p, p < 3 → (bar s p).bound = false → (∀ q, q < p → (bar s q).bound = true) → s.cw.mode ≠ .recompute →
        ∃ t, exec (.nbarinit b d) s = .next t ∧ t.mem = s.mem ∧
          bar t p = { bar s p with count := 0, expect := c, num := b.toNat, bound := true } ∧
          ∀ q, q ≠ p → bar t q = bar s q))

/-- R29, R332-R334: the arrival of a wave with one live fragment on a bound barrier counts at once; the arrival that
makes COUNT equal EXPECT completes the generation. A second arrival in one generation raises SYNCOVR. NBARARR goes on;
NBARSYNC parks. -/
def Sys2Proof.Claims.NbarArrive : Prop :=
  ∀ (s : State) (b : BitVec 7) (p : Nat) (i : Instr), (i = .nbararr b ∨ (i = .nbarsync b ∧ s.cf.park = .none)) → Cur s →
    s.cw.gang < s.gangs.length → s.cw.wg < s.cg.wgs.length → s.cwg.bars.length = 3 → s.cwg.barOf b.toNat = some p →
    (((s.cw.fragArr.any fun q => q.1 == b.toNat && q.2.getLsbD s.cur.frag) = true ∨
        (∃ a, s.cw.arrOf b.toNat = some a ∧ a.opened = true)) →
      exec i s = .next (s.takeTrap ⟨0x0F, b.setWidth 72, 0, false⟩)) ∧
    (s.cw.liveFrags = [s.cur.frag] → s.cw.fragArr = [] → (∀ a, s.cw.arrOf b.toNat = some a → a.opened = false) →
      s.settled = true → s.cw.mode ≠ .recompute →
      ∃ t, exec i s = .next t ∧ t.mem = s.mem ∧
        (i = .nbarsync b → t.cf.park = .nbar b.toNat ∧ t.cf.pc = s.cf.pc) ∧
        ((t.cw.arrOf b.toNat).map (·.gen) = some (bar s p).gen) ∧
        bar t p = (if (bar s p).count + 1 = (bar s p).expect
          then { bar s p with count := 0, gen := ((bar s p).gen + 1) % 65536 }
          else { bar s p with count := (bar s p).count + 1 }) ∧
        (∀ q, q ≠ p → bar t q = bar s q))

/-- R331, R333: NBARWAIT on an unbound b, or by a wave that has not arrived, goes on; it parks the fragment while GEN
equals ARRGEN, and goes on when GEN has moved. NBARSYNC, once parked, goes on as NBARWAIT does. -/
def Sys2Proof.Claims.NbarWait : Prop :=
  ∀ (s : State) (b : BitVec 7) (i : Instr), (i = .nbarwait b ∨ (i = .nbarsync b ∧ s.cf.park = .nbar b.toNat)) →
    s.cur.undo = none → s.cur.wave < s.waves.length → s.cur.frag < s.cw.frags.length →
    ((s.cwg.barOf b.toNat = none ∨ s.cw.arrOf b.toNat = none) →
      s.cf.park ≠ .nbar b.toNat → exec i s = .next s.done) ∧
    (∀ p a, s.cwg.barOf b.toNat = some p → s.cw.arrOf b.toNat = some a →
      (i = .nbarsync b → ∀ q ∈ s.cw.fragArr, q.1 = b.toNat → q.2.getLsbD s.cur.frag = false) → s.cg.ckptDue = false →
      ((bar s p).gen ≠ a.gen → exec i s = .next s.done) ∧
      ((bar s p).gen = a.gen → ∃ t, exec i s = .next t ∧ t.cf.park = .nbar b.toNat ∧ t.cf.pc = s.cf.pc ∧
        t.mem = s.mem ∧ t.gangs = s.gangs))

/-- R340, R341: WAITC goes on when the class counter is at most n, WAITR when the register is not EMPTY, WAITA when the
arrival counter has passed the target; else they wait. -/
def Sys2Proof.Claims.Waits : Prop :=
  (∀ (s : State) (n : BitVec 7) (c : BitVec 6),
    let lim := match s.cur.pfx with | some (.immx p) => (p ++ n).toNat | _ => n.toNat
    let out := (s.flight.filter fun o => o.wave == s.cur.wave && o.cls == some c.toNat).length
    exec (.waitc n c) s = .next (if out ≤ lim then s.done else { s with cur := { s.cur with stalled := true, opened := false } })) ∧
  (∀ (s : State) (d : BitVec 6), sOk s d.toNat = true →
    exec (.waitr 1 d) s = .next (if (s.sreg d.toNat).st = .empty
      then { s with cur := { s.cur with stalled := true, opened := false } } else s.done)) ∧
  (∀ (s : State) (d : BitVec 6), vOk s d.toNat = true →
    exec (.waitr 0 d) s = .next (if (s.vreg d.toNat).empty
      then { s with cur := { s.cur with stalled := true, opened := false } } else s.done)) ∧
  (∀ (s : State) (f : YF), sReady s [f.a.toNat] = true →
    let k := match s.cur.pfx with | some (.immx p) => (p ++ f.imm).setWidth 16 | _ => f.imm.setWidth 16
    exec (.waita f) s = .next (if (s.cw.ac.getD f.d.toNat 0 - (sv s f.a).extractLsb' 0 16 - k).msb = false
      then s.done else { s with cur := { s.cur with stalled := true, opened := false } }))

/-- R315, R324, R325: PIN and UNPIN write the workgroup's pin register and release the name it stops holding. -/
def Sys2Proof.Claims.Pins : Prop :=
  (∀ (s : State) (a n : BitVec 6), sReady s [a.toNat] = true → s.cw.mode ≠ .recompute →
    let old := s.cwg.pins.getD n.toNat 0
    let t := s.commitMark.modCg fun g => { g with wgs := g.wgs.modify s.cw.wg fun w => { w with pins := w.pins.set n.toNat (sv s a) } }
    exec (.pin a n) s = .next (if old ≠ 0 ∧ old ≠ sv s a
      then (t.modVd s.cg.vd fun v => { v with recheck := v.recheck ++ [old] }).done else t.done)) ∧
  (∀ (s : State) (n : BitVec 6), s.settled = true → s.cw.mode ≠ .recompute →
    let old := s.cwg.pins.getD n.toNat 0
    let t := s.commitMark.modCg fun g => { g with wgs := g.wgs.modify s.cw.wg fun w => { w with pins := w.pins.set n.toNat 0 } }
    exec (.unpin n) s = .next (if old ≠ 0
      then (t.modVd s.cg.vd fun v => { v with recheck := v.recheck ++ [old] }).done else t.done))

/-- R326, R316, R320: RECL raises ILL on name 0 and PROT on names of the rink and Slalom units; else sd becomes EMPTY and
its status is on its way: FREED when nothing pins the name, DEFERRED when something does and the bucket has room, FULL
otherwise, when nothing changes but the register. -/
def Sys2Proof.Claims.Reclaims : Prop :=
  ∀ (s : State) (f : YF), sOk s f.d.toNat = true → sReady s [f.a.toNat, f.a.toNat + 1] = true →
    let n := (s.sreg f.a.toNat).val
    let st := s.commitMark
    let dst := if f.d = 0 then Dst.none else Dst.scl s.rbank f.d.toNat 1
    let answer (t : State) (v : DWord) (o : Order) : State :=
      ((t.modS f.d.toNat fun x => { x with st := .empty }).launchOp none (.svalue dst [{ val := v }]) o 7).done
    (n = 0 → exec (.recl f) s = .next (s.takeTrap ⟨0x01, 0, 0, false⟩)) ∧
    (n ≠ 0 → (n.extractLsb' 56 8 = 1#8 ∨ n.extractLsb' 56 8 = 2#8) →
      exec (.recl f) s = .next (s.takeTrap ⟨0x04, n.setWidth 72, 0, false⟩)) ∧
    (n ≠ 0 → n.extractLsb' 56 8 ≠ 1#8 → n.extractLsb' 56 8 ≠ 2#8 → s.settled = true → s.cw.mode ≠ .recompute →
      (s.flight.any fun o => o.wave == s.cur.wave && o.isStore) = false →
      (st.pinned s.cg.vd n = false → exec (.recl f) s = .next (answer (st.tableAction s.cg.vd f.imm.toNat
        (s.sreg (f.a.toNat + 1)).val s.cg.launch s.cw.die (some s.seq)) 1 .acq)) ∧
      (st.pinned s.cg.vd n = true → ((s.vd s.cg.vd).deferred.filter fun e => bucketOf e.name = bucketOf n).length < 16 →
        exec (.recl f) s = .next (answer (st.modVd s.cg.vd fun v => { v with deferred := v.deferred ++
          [⟨n, .table f.imm.toNat (s.sreg (f.a.toNat + 1)).val s.cg.launch s.cw.die⟩] }) 2 .weak)) ∧
      (st.pinned s.cg.vd n = true → 16 ≤ ((s.vd s.cg.vd).deferred.filter fun e => bucketOf e.name = bucketOf n).length →
        exec (.recl f) s = .next (answer st 3 .weak)))

/-- None of the entries frees the node of tree k. -/
def Sys2Proof.Claims.staysIn (es : List Deferred) (k : Nat) (n : Nat × Node) : Bool :=
  es.all fun e => match e.act with | .nodes j is => j != k || !is.contains n.1 | _ => true

/-- R321: a sweep of a device that is not lodged performs and removes the entries that nothing pins, and keeps the others:
pages go back to the pool, nodes go, a table's action is performed; nothing happens for a lodged one. -/
def Sys2Proof.Claims.GroomerSweeps : Prop :=
  (∀ (s : State) (d : Nat), (s.vd d).live = false ∨ 2 ≤ (s.vd d).lodge → exec (.groomerSweep d) s = .next s) ∧
  (∀ (s : State) (d : Nat), (s.vd d).live = true → (s.vd d).lodge < 2 →
    (∀ e ∈ (s.vd d).deferred, s.pinned d e.name = true) → exec (.groomerSweep d) s = .next s) ∧
  (∀ (s : State) (d : Nat), d < s.vds.length → (s.vd d).live = true → (s.vd d).lodge < 2 →
    (∀ e ∈ (s.vd d).deferred, ∀ a x l m, e.act ≠ .table a x l m) → let free := (s.vd d).deferred.filter fun e => !s.pinned d e.name
    ∃ t, exec (.groomerSweep d) s = .next t ∧ (t.vd d).deferred = (s.vd d).deferred.filter (fun e => s.pinned d e.name) ∧
      (t.vd d).pool = (s.vd d).pool ++ free.flatMap (fun e => match e.act with | .pages ps => ps | _ => []) ∧
      (∀ k tr, (k, tr) ∈ (s.vd d).trees → (k, { tr with nodes := tr.nodes.filter (staysIn free k) }) ∈ (t.vd d).trees) ∧
      t.mem = s.mem ∧ t.waves = s.waves ∧ t.gangs = s.gangs) ∧
  (∀ (s : State) (d i l m : Nat) (n x : DWord), d < s.vds.length → (s.vd d).live = true → (s.vd d).lodge < 2 →
    (s.vd d).deferred = [⟨n, .table i x l m⟩] → s.pinned d n = false →
    exec (.groomerSweep d) s = .next ((s.modVd d fun v => { v with deferred := [] }).tableAction d i x l m none))

/-- R372: a WFE whose flag is set, with no fragment waiting longer, clears the flag and returns 1; it parks otherwise;
parked, it takes the flag as the longest waiter, or returns 0 once its limit has passed; the limit passes at its tick. -/
def Sys2Proof.Claims.WaitForEvent : Prop :=
  (∀ (s : State) (f : YF), Cur s → sOk s f.d.toNat = true →
    let n := f.imm.toNat
    let taken (t : State) : State :=
      ((t.modVd s.cg.vd fun v => { v with flags := v.flags &&& ~~~ (1#16 <<< n) }).writeS f.d.toNat 1 0).done
    ((∀ m x y, s.cf.park ≠ .wfe m x y) → sReady s [f.a.toNat] = true → s.cw.mode ≠ .recompute →
      (s.cv.flags.getLsbD n = true → s.oldestWfe s.cg.vd n = none → exec (.wfe f) s = .next (taken s.commitMark)) ∧
      (s.cv.flags.getLsbD n = false → s.cur.undo = none → ∃ t, exec (.wfe f) s = .next t ∧ t.cf.pc = s.cf.pc ∧ t.mem = s.mem ∧
        t.cf.park = .wfe n (if sv s f.a = 0 then none else some (s.time + (sv s f.a).toNat)) false)) ∧
    (∀ x y, s.cf.park = .wfe n x y →
      (s.cv.flags.getLsbD n = true → s.oldestWfe s.cg.vd n = some s.cf.parkSeq → exec (.wfe f) s = .next (taken s)) ∧
      (s.cv.flags.getLsbD n = false → exec (.wfe f) s = .next (if y then (s.writeS f.d.toNat 0 0).done
        else { s with cur := { s.cur with stalled := true, opened := false } })))) ∧
  (∀ (s : State) (w f n t : Nat), ((s.wave w).frags.getD f {}).live = true →
    ((s.wave w).frags.getD f {}).park = .wfe n (some t) false → t ≤ s.time →
    exec (.wfeTimeout w f) s = .next (s.modWave w fun x => x.modFrag f fun g => { g with park := .wfe n (some t) true }))

/-- R373, R396: EVSIG waits for the fragment's accesses and for room, and appends a kind-2 entry: the code, s[a], and
VDID and WID. -/
def Sys2Proof.Claims.EventSignals : Prop :=
  ∀ (s : State) (code : BitVec 7) (a : BitVec 6), sReady s [a.toNat] = true → s.cw.mode ≠ .recompute →
    (s.settled = true → (s.cv.eqwr + 2048 - s.cv.eqrd) % 2048 < 1024 → s.cv.eqHeld = [] →
      exec (.evsig code a) s = .next (s.commitMark.eqWrite s.cg.vd (eqEntry 2 code.toNat 0 0 (sv s a).toNat
        (s.cg.vd * 2 ^ 24 + s.cw.wid) s.time)).done) ∧
    ((s.settled = false ∨ 1024 ≤ (s.cv.eqwr + 2048 - s.cv.eqrd) % 2048) →
      exec (.evsig code a) s = .next { s with cur := { s.cur with stalled := true, opened := false } })

/-- R374: HALT stops the gang, which remembers the halting wave, goes on past the HALT, and appends a kind-3 entry with
the HALT's address. -/
def Sys2Proof.Claims.Halts : Prop :=
  ∀ (s : State) (code : BitVec 7), s.cw.gang < s.gangs.length →
    (s.cv.eqwr + 2048 - s.cv.eqrd) % 2048 < 1024 → s.cv.eqHeld = [] →
    ∃ t, exec (.halt code) s = .next t ∧ t.cg.halted = some s.cur.wave ∧ t.waves = s.done.waves ∧
      t = (s.done.modGang s.cw.gang fun g => { g with halted := some s.cur.wave }).eqWrite s.cg.vd
        (eqEntry 3 code.toNat s.cl.stream s.cg.index s.cur.pc.toNat s.cw.wid s.time)

/-- R41-R43, R363, R375: an RWP with two live fragments, below depth 0 or in a handler is ignored; one honoured with
recipe 0 closes the open commit and snapshots the wave; a wave asked to stop stops there. -/
def Sys2Proof.Claims.RewindPoints : Prop :=
  (∀ (s : State) (r : BitVec 7), (s.cw.handling = true ∨ 2 ≤ s.cw.liveFrags.length ∨ s.cf.depth ≠ 0) →
    exec (.rwp r) s = .next s.done) ∧
  (∀ s : State, s.cur.wave < s.waves.length → s.cw.handling = false → s.cw.liveFrags.length ≤ 1 → s.cf.depth = 0 →
    ∃ t, exec (.rwp 0) s = .next t ∧ t.cw.commit = false ∧ t.cw.deps = [] ∧ t.mem = s.mem ∧ t.gangs = s.gangs ∧
      t.cw.snap.pc = s.cur.pc ∧ t.cw.snap.next = s.cur.nxt ∧ t.cw.snap.lanes = s.cf.lanes ∧ t.cw.snap.exm = s.cf.exm ∧
      t.cw.snap.preds = s.cw.k ∧ t.cw.snap.rngk = s.cw.rngk ∧ t.cw.snap.rngc = s.cw.rngc ∧ t.cw.snap.stat = s.cw.stat ∧
      t.cw.snap.obsd = s.cw.obsd ∧ t.cw.snap.piste = s.cw.piste ∧ t.cw.snap.held = s.cw.held ∧ t.cw.snap.dry = s.cw.dry ∧
      t.cw.snap.regs = [] ∧ t.cw.snap.sregs = [] ∧ t.cw.v = s.cw.v ∧
      t.cw.mode = (if s.cg.preempt.isSome then .stopped false else s.cw.mode))

namespace Sys2Proof.Claims

/-! ## Accesses of a vector instruction -/

/-- A vector access: order field, predicate, offset and base registers, data register, the `.split` bit, whether it is
local, registers of data, bytes a lane, and how a load widens. -/
structure MemV where
  ord : BitVec 2
  act : Word
  va : Nat
  sa : Nat
  vd : Nat
  split : Bool
  loc : Bool
  n : Nat
  size : Nat
  ext : Ext := .word

def memL (s : State) (f : ML) (n size : Nat) (e : Ext) : MemV :=
  ⟨f.ord, s.active f.kp, f.va.toNat, f.sa.toNat, f.vd.toNat, f.split == 1, false, n, size, e⟩
def memE (s : State) (f : ME) (n size : Nat) : MemV :=
  ⟨0, s.active f.kp, f.va.toNat, f.sa.toNat, f.vd.toNat, false, true, n, size, .word⟩
def memS (s : State) (f : MS) (n size : Nat) : MemV :=
  ⟨f.ord, s.active f.kp, f.va.toNat, f.sa.toNat, f.vd.toNat, false, false, n, size, .word⟩

/-- R161, R165. -/
def vectorLoad (s : State) : Instr → Option MemV
  | .vldB32 f => some (memL s f 1 4 .word)
  | .vldB64 f => some (memL s f 2 8 .word)
  | .vldB128 f => some (memL s f 4 16 .word)
  | .vldB16z f => some (memL s f 1 2 .zext)
  | .vldB8z f => some (memL s f 1 1 .zext)
  | .vldB8s f => some (memL s f 1 1 .sext)
  | .vldB16s f => some (memL s f 1 2 .sext)
  | .vldlB32 f => some (memE s f 1 4)
  | .vldlB128 f => some (memE s f 4 16)
  | _ => none

def vectorStore (s : State) : Instr → Option MemV
  | .vstB32 f => some (memS s f 1 4)
  | .vstB64 f => some (memS s f 2 8)
  | .vstB128 f => some (memS s f 4 16)
  | .vstB16 f => some (memS s f 1 2)
  | .vstB8 f => some (memS s f 1 1)
  | .vstlB32 f => some (memE s f 1 4)
  | .vstlB128 f => some (memE s f 4 16)
  | _ => none

/-- The vector registers of the access: offset and data. -/
def MemV.data (m : MemV) : List Nat := (List.range m.n).map (m.vd + ·)

/-- The effective address of a lane: the tag of the base; its value plus the sign-extended offset times the size
(R153, R161). -/
def MemV.ea (m : MemV) (s : State) (l : Nat) : Addr :=
  (s.sreg m.sa).tag ++ ((s.sreg m.sa).val + ((valOf s 0 m.va).lane l).signExtend 64 * BitVec.ofNat 64 m.size)

/-- What stands against one access, in the order of the checks: ALIGN, TAG, XLATE, PROT, WATCH; for local memory ALIGN,
LOCAL (R153, R155). -/
def cause (s : State) (loc : Bool) (p : Perm) (size lane : Nat) (a : Addr) : Option Byte :=
  let off := (a.extractLsb' 0 64).toNat
  if off % size ≠ 0 then some 0x02
  else if loc then (if (s.cg.localLoc off).isNone then some 0x1B else none)
  else match s.translate s.cw.coreNo s.cg.vd s.cw.win lane a p with
    | .error c => some c
    | .ok _ => if s.watched a size then some 0x13 else none

/-- The access of a lane that nothing stands against. -/
def access (s : State) (loc : Bool) (p : Perm) (size lane : Nat) (a : Addr) (data : List Byte) : Acc :=
  let off := (a.extractLsb' 0 64).toNat
  if loc then { lane := lane, place := .direct ((s.cg.localLoc off).getD ⟨.sram, 0⟩), size := size, data := data, va := BitVec.ofNat 72 off }
  else { lane := lane, size := size, data := data, va := a
         place := match s.translate s.cw.coreNo s.cg.vd s.cw.win lane a p with | .ok pl => pl | .error _ => .lane 0 }

/-- The causes in the order in which they are reported. -/
def causes : List Byte := [0x02, 0x05, 0x03, 0x04, 0x1B, 0x13]

/-- The fault of an access over lanes: the first cause that some lane has, the address of the lowest such lane, and the
mask of these lanes. -/
def MemV.trap (m : MemV) (s : State) (p : Perm) : Option Trap :=
  let c (l : Nat) := cause s m.loc p m.size l (m.ea s l)
  (causes.find? fun k => (lanesOf m.act).any fun l => c l == some k).map fun k =>
    let ls := (lanesOf m.act).filter fun l => c l == some k
    let a := m.ea s (ls.headD 0)
    ⟨k, if m.loc then (a.extractLsb' 0 64).setWidth 72 else a, mask32 ls.contains, false⟩

/-- The bytes lane l stores: the low bytes of its data registers, lowest first. -/
def laneData (vs : List VReg) (size l : Nat) : List Byte :=
  (vs.flatMap fun v => [(v.lane l).extractLsb' 0 8, (v.lane l).extractLsb' 8 8, (v.lane l).extractLsb' 16 8,
    (v.lane l).extractLsb' 24 8]).take size

def MemV.accs (m : MemV) (s : State) (p : Perm) (data : Nat → List Byte) : List Acc :=
  (lanesOf m.act).map fun l => access s m.loc p m.size l (m.ea s l) (data l)

/-- Registers, waits and poison: the operands of a load. -/
def MemV.loadReady (m : MemV) (s : State) : Bool :=
  sReady s [m.sa] && (m.va :: m.data).all (vOk s) && srcsOk s [m.va] [] && dstOk s m.vd
    && clean (valsOf s [m.va] []) m.act

def MemV.storeReady (m : MemV) (s : State) : Bool :=
  sReady s [m.sa] && (m.va :: m.data).all (vOk s) && srcsOk s (m.va :: m.data) []
    && clean (valsOf s (m.va :: m.data) []) m.act

/-- A split load carves: some lane hits the core's L1 and some lane misses, with room for a fragment and for its depth;
never in a handler or for a port (R23, R24, R350). -/
def MemV.carves (m : MemV) (s : State) (accs : List Acc) : Bool :=
  m.split && !s.cw.handling && m.vd < 56 && s.cf.depth < 16 && !((List.range 8).all fun f => (s.cw.frags.getD f {}).live)
    && (accs.any fun a => s.l1Hit s.cw.coreNo a) && (accs.any fun a => !s.l1Hit s.cw.coreNo a)

/-- Order and observers of a load or store: the OBS prefix's, or the ord field with OBSD's mask (R52, R54, R189). -/
def orderOfM (s : State) (ord : BitVec 2) : Order × BitVec 5 :=
  match s.cur.pfx with
  | some (.obs o m) => (Machine.orderOf o, m)
  | _ => ([(Order.weak, (0 : BitVec 5)), (.x, s.cw.obsd.extractLsb' 0 5), (.acq, s.cw.obsd.extractLsb' 0 5),
      (.rel, s.cw.obsd.extractLsb' 0 5)]).getD ord.toNat (.weak, 0)

/-- The destination registers are EMPTY; a port will be pushed (R93, R101). -/
def pending (s : State) (vd n : Nat) : State :=
  if 56 ≤ vd then s.commitMark else (List.range n).foldl (fun s i => s.modV (vd + i) fun x => { x with empty := true }) s

/-- Where the result of n registers goes. -/
def destV (s : State) (vd n : Nat) : Dst :=
  if 56 ≤ vd then .port vd else .vec (if s.cw.handling then .trap else .wave) vd n

def destS (s : State) (sd : BitVec 6) : Dst :=
  if sd = 0 then .none else .scl (if s.cw.handling then .trap else .wave) sd.toNat 1

/-- Lane-private lines serve the access at once (R157). -/
def priv (accs : List Acc) : Bool := accs.any fun a => match a.place with | .lane _ => true | _ => false

/-- The load is in flight. -/
def loading (s : State) (m : MemV) (accs : List Acc) : State :=
  let om := if m.loc then (Order.weak, (0 : BitVec 5)) else orderOfM s m.ord
  let t := popAll s [m.va]
  let t := pending (if m.loc then t else t.tlbUse accs) m.vd m.n
  if priv accs then
    let t := t.privTouch s.cur.wave accs
    let r := loadLanes m.ext m.n (accs.map fun a => (a.lane, t.privBytes s.cur.wave a))
    t.launchOp none (.value (destV s m.vd m.n) m.act r.1 r.2)
  else t.launchOp none (.load accs (destV s m.vd m.n) m.ext s.hint) om.1 om.2

/-- The store is in flight, or done in the lane-private window; a weak one has updated the core's own L1 copies (R157, R164, R181;
that a strong one does so when it is performed is log 28). -/
def storing (s : State) (cls : Option Nat) (accs : List Acc) (om : Order × BitVec 5) : State :=
  if priv accs then accs.foldl (fun s a => s.privPut s.cur.wave a) (s.privTouch s.cur.wave accs)
  else if accs = [] then s
  else (accs.foldl (fun s a => match a.place with
      | .homed l _ => if om.1 = .weak then s.updateL1 s.cw.coreNo l a.data else s
      | _ => s) s).launchOp cls (.store accs) om.1 om.2

/-- A wave may have no more operations of a class outstanding (R340). -/
def classRoom (s : State) (c : Nat) : Bool :=
  (s.flight.filter fun o => o.wave == s.cur.wave && o.cls == some c).length < 4095

/-! ## Accesses of the scalar thread (R167) -/

structure MemS where
  f : SI
  loc : Bool
  size : Nat
  ext : Ext := .word

def scalarLoad : Instr → Option MemS
  | .sldB64 f => some ⟨f, false, 8, .word⟩
  | .sldB32z f => some ⟨f, false, 4, .zext⟩
  | .sldB32s f => some ⟨f, false, 4, .sext⟩
  | .sldB8z f => some ⟨f, false, 1, .zext⟩
  | .slda f => some ⟨f, false, 16, .tagged⟩
  | .sldl f => some ⟨f, true, 8, .word⟩
  | _ => none

def scalarStore : Instr → Option MemS
  | .sstB64 f => some ⟨f, false, 8, .word⟩
  | .sstB32 f => some ⟨f, false, 4, .word⟩
  | .sstB8 f => some ⟨f, false, 1, .word⟩
  | .ssta f => some ⟨f, false, 16, .word⟩
  | .sstl f => some ⟨f, true, 8, .word⟩
  | _ => none

def MemS.ea (m : MemS) (s : State) : Addr :=
  (s.sreg m.f.sa.toNat).tag ++ ((s.sreg m.f.sa.toNat).val + m.f.imm.signExtend 64 * BitVec.ofNat 64 m.size)

/-- The bytes of a scalar store: the low bytes of the value; SSTA stores value, tag and zeros. -/
def MemS.data (m : MemS) (s : State) : List Byte :=
  let x := s.sreg m.f.sd.toNat
  if m.size = 16 then bytesOf 16 (x.val.toNat + x.tag.toNat * 2 ^ 64) else bytesOf m.size (x.val.toNat % 2 ^ (8 * m.size))

def MemS.acc (m : MemS) (s : State) (p : Perm) (data : List Byte) : Acc := access s m.loc p m.size 0 (m.ea s) data

def MemS.trap (m : MemS) (s : State) (p : Perm) : Option Trap :=
  (cause s m.loc p m.size 0 (m.ea s)).map fun c =>
    ⟨c, if m.loc then ((m.ea s).extractLsb' 0 64).setWidth 72 else m.ea s, 0, false⟩

def MemS.om (m : MemS) (s : State) : Order × BitVec 5 := if m.loc then (.weak, 0) else orderOfM s 0

/-! ## Atomics (R196-R200) -/

/-- The new value of an atomic on n bits (R197). -/
def atomVal {n : Nat} (aop : Nat) (old b c : BitVec n) : BitVec n :=
  match aop with
  | 0 => old + b
  | 1 => old &&& b
  | 2 => old ||| b
  | 3 => old ^^^ b
  | 4 => if old.toInt ≤ b.toInt then old else b
  | 5 => if b.toInt ≤ old.toInt then old else b
  | 6 => if old.toNat ≤ b.toNat then old else b
  | 7 => if b.toNat ≤ old.toNat then old else b
  | 8 => b
  | 9 => if old = c then b else old
  | 10 => BitVec.ofNat n (rnd Num.f32 ((Num.val Num.f32 old.toNat).add (Num.val Num.f32 b.toNat)))
  | 11 => BitVec.ofNat n (Num.maxnum Num.f32 old.toNat b.toNat)
  | 12 => BitVec.ofNat n (Num.minnum Num.f32 old.toNat b.toNat)
  | 13 => if b.toNat ≤ old.toNat then 0 else old + 1
  | 14 => if old = 0 ∨ b.toNat < old.toNat then b else old - 1
  | 16 => if b.toNat ≤ old.toNat then old else b
  | _ => if old.toNat ≤ b.toNat then old else b

/-- A vector atomic: its fields, bytes, registers of one operand, operation. -/
def vectorAtomic : Instr → Option (AF × Nat × Nat × Nat)
  | .atom f => some (f, 4, 1, f.aop.toNat)
  | .atom64 f => some (f, 8, 2, f.aop.toNat)
  | .atompk f => some (f, 8, 2, 16 + f.aop.toNat)
  | _ => none

/-- It as an access: the operands are n registers, twice that for CAS. -/
def atomMem (s : State) (f : AF) (size n aop : Nat) : MemV :=
  ⟨f.ord, s.exm, f.va.toNat, f.sa.toNat, f.vd.toNat, false, false, if aop = 9 then 2 * n else n, size, .word⟩

/-- The LLC holds each line once, aligned, and of lines of HBM the bytes that are not dirty are those behind it. -/
def LlcSound (s : State) : Prop :=
  (∀ e ∈ s.llc, e.line.line = e.line ∧ e.line.tagged + 128 ≤ 2 ^ 128 ∧ (e.line.sp = .phys ∨ e.line.sp = .tier1 ∨ e.line.sp = .fmt) ∧
    (e.line.sp = .phys → ∀ i, i < 128 → e.dirty.getLsbD i = false → s.raw ⟨.llc, e.line.tagged + i⟩ = s.behind (e.line.plus i))) ∧ (s.llc.map (·.line)).Nodup ∧
  (∀ e ∈ s.llc, ∀ f ∈ s.llc, e.line ≠ f.line → e.line.tagged ≠ f.line.tagged)

/-- Order and observers of an A instruction: .x, .acq, .rel or .ar (R196). -/
def orderOfA (s : State) (ord : BitVec 2) : Order × BitVec 5 :=
  match s.cur.pfx with
  | some (.obs o m) => (Machine.orderOf o, m)
  | _ => (([Order.x, .acq, .rel, .ar]).getD ord.toNat .x, s.cw.obsd.extractLsb' 0 5)

end Sys2Proof.Claims

/-- R153, R161, R165, R93, R157: a vector load whose operands are ready and whose active lanes pass the checks marks its
registers EMPTY and enters flight with one access for each active lane. -/
def Sys2Proof.Claims.VectorLoads : Prop :=
  ∀ (s : State) (i : Instr) (m : MemV), vectorLoad s i = some m → m.loadReady s = true → m.trap s .r = none →
    m.carves s (m.accs s .r fun _ => []) = false →
    exec i s = .next (loading s m (m.accs s .r fun _ => [])).done

/-- R24, R161: a split load with lanes that hit the L1 and lanes that miss, and room for a fragment, carves off the
missing lanes, which wait for their data. That both parts belong to the program order of both fragments is log 125. -/
def Sys2Proof.Claims.SplitLoads : Prop :=
  ∀ (s : State) (i : Instr) (m : MemV), vectorLoad s i = some m → m.loadReady s = true → m.trap s .r = none → Cur s →
    m.vd + m.n ≤ s.cw.v.length → ∀ n, n < 8 → (frag s n).live = false → (∀ k, k < n → (frag s k).live = true) →
    let accs := m.accs s .r fun _ => []
    let hits := accs.filter fun a => s.l1Hit s.cw.coreNo a
    let late := accs.filter fun a => !s.l1Hit s.cw.coreNo a
    let miss := mask32 fun l => late.any fun a => a.lane == l
    m.carves s accs = true → priv accs = false →
    ∃ t o1 o2, exec i s = .next t ∧ t.flight.length = s.flight.length + 2 ∧ o1 ∈ t.flight ∧ o2 ∈ t.flight ∧
      o1.kind = .load hits (destV s m.vd m.n) m.ext s.hint ∧ o1.owners = [n, s.cur.frag] ∧
      o2.kind = .load late (.quiet m.vd m.n) m.ext s.hint ∧ o2.owners = [n, s.cur.frag] ∧
      (frag t n).live = true ∧ (frag t n).lanes = miss ∧ (frag t n).park = .data o2.id ∧ (frag t n).pc = s.cur.nxt ∧
      t.cf.lanes = s.cf.lanes &&& ~~~ miss ∧ t.cf.exm = s.cf.exm &&& ~~~ miss ∧ t.cf.pc = s.cur.nxt ∧
      (∀ r, m.vd ≤ r → r < m.vd + m.n → (t.cw.v.getD r {}).empty = true) ∧ (∀ l, t.raw l = s.raw l)

/-- R153, R155: the first failing check over the active lanes is the fault; TRAPA is its lowest lane's address and
TRAPL its lanes. Nothing else happens. -/
def Sys2Proof.Claims.VectorAccessFaults : Prop :=
  ∀ (s : State) (i : Instr) (m : MemV) (x : Trap),
    ((vectorLoad s i = some m ∧ m.loadReady s = true ∧ m.trap s .r = some x) ∨
     (vectorStore s i = some m ∧ m.storeReady s = true ∧ m.trap s .w = some x) ∨
     (∃ f size n aop, vectorAtomic i = some (f, size, n, aop) ∧ m = atomMem s f size n aop ∧ m.storeReady s = true ∧
       m.trap s .rw = some x)) →
    exec i s = .next (s.takeTrap x)

/-- R161, R162, R165, R164: a vector store. -/
def Sys2Proof.Claims.VectorStores : Prop :=
  let completes (s : State) (i : Instr) : Prop := ∃ m, vectorStore s i = some m ∧ (m.storeReady s = true → m.trap s .w = none →
    (m.loc = false → classRoom s 0 = true) →
    let srcs := m.va :: m.data
    let accs := m.accs s .w fun l => laneData (valsOf s srcs []).tail m.size l
    exec i s = .next (storing (if m.loc then popAll s srcs else (popAll s srcs).tlbUse accs)
      (if m.loc then none else some 0) accs (if m.loc then (.weak, 0) else orderOfM s m.ord)).done)
  (∀ (s : State) (f : MS), ∀ i ∈ [Instr.vstB8 f, .vstB16 f, .vstB32 f, .vstB64 f, .vstB128 f], completes s i) ∧
  ∀ (s : State) (f : ME), ∀ i ∈ [Instr.vstlB32 f, .vstlB128 f], completes s i

/-- R167, R93: scalar loads, and their faults. -/
def Sys2Proof.Claims.ScalarLoads : Prop :=
  ∀ (s : State) (i : Instr) (m : MemS), scalarLoad i = some m → sOk s m.f.sd.toNat = true →
    sReady s [m.f.sa.toNat] = true →
    let a := m.acc s .r []
    let t := (if m.loc then s else s.tlbUse [a]).modS m.f.sd.toNat fun x => { x with st := .empty }
    (∀ x, m.trap s .r = some x → exec i s = .next (s.takeTrap x)) ∧
    (m.trap s .r = none → exec i s = .next (
      if priv [a] then
        let t := t.privTouch s.cur.wave [a]
        let bs := t.privBytes s.cur.wave a
        t.launchOp none (.svalue (destS s m.f.sd) [{ extendScalar m.ext (bs.map (·.1)) with
          st := if bs.any (·.2) then .poison else .full }])
      else t.launchOp none (.load [a] (destS s m.f.sd) m.ext s.hint) (m.om s).1 (m.om s).2).done)

/-- R167, R164: scalar stores, and their faults. -/
def Sys2Proof.Claims.ScalarStores : Prop :=
  ∀ (s : State) (f : SI), ∀ i ∈ [Instr.sstB8 f, .sstB32 f, .sstB64 f, .ssta f, .sstl f], ∃ m, scalarStore i = some m ∧
    (sReady s [m.f.sa.toNat, m.f.sd.toNat] = true →
      let a := m.acc s .w (m.data s)
      (m.trap s .w = none → (m.loc = false → classRoom s 0 = true) →
        exec i s = .next (storing (if m.loc then s else s.tlbUse [a]) (if m.loc then none else some 0) [a] (m.om s)).done) ∧
      ∀ x, m.trap s .w = some x → exec i s = .next (s.takeTrap x))

/-- R164, R182: issuing a load changes no byte, and no register but its destinations, which are EMPTY; STAT stays. Issuing a store
changes no register at all, and no byte but those of the core's L1 copies (R181) and, in the lane-private window, of the wave's own
lines (R157). A lane-private access may make room in the core's L1 (R13, R157): every byte outside the L1's read copies and the
write-back memory of lane-private lines reads as before. -/
def Sys2Proof.Claims.AccessIssueFrame : Prop :=
  let lined (s : State) : Prop := s.canon ∧ (∀ c ∈ s.copies, c.line.tagged + 128 ≤ 2 ^ 128) ∧ ∀ p ∈ s.privHeld, p.off + 128 ≤ 2 ^ 128
  (∀ (s t : State) (i : Instr) (m : MemV), exec i s = .next t → vectorLoad s i = some m → m.loadReady s = true →
    m.trap s .r = none → m.carves s (m.accs s .r fun _ => []) = false →
    scalarsBut s t none ∧
    (∀ r, ¬(m.vd ≤ r ∧ r < m.vd + m.n) → t.cw.v.getD r {} = s.cw.v.getD r {} ∧ t.cw.w.getD r {} = s.cw.w.getD r {}) ∧
    ∀ r, m.vd ≤ r → r < m.vd + m.n → r < 56 → s.cur.wave < s.waves.length →
      (if s.cw.handling then r < s.cw.w.length else r < s.cw.v.length) → t.vreg r = { s.vreg r with empty := true }) ∧
  (∀ (s t : State) (i : Instr) (m : MemS), exec i s = .next t → scalarLoad i = some m → sOk s m.f.sd.toNat = true →
    sReady s [m.f.sa.toNat] = true → m.trap s .r = none →
    vectorsBut s t none ∧ scalarsBut s t (if m.f.sd = 0 then none else some m.f.sd.toNat) ∧
    (m.f.sd ≠ 0 → Cur s → (if s.cw.handling then m.f.sd.toNat < s.cw.y.length else m.f.sd.toNat < s.cf.s.length) →
      t.sreg m.f.sd.toNat = { s.sreg m.f.sd.toNat with st := .empty })) ∧
  (∀ (s t : State) (i : Instr) (accs : List Acc), exec i s = .next t →
    ((∃ m, vectorLoad s i = some m ∧ m.loadReady s = true ∧ m.trap s .r = none ∧
        accs = (m.accs s .r fun _ => []) ∧ m.carves s accs = false) ∨
     (∃ m, scalarLoad i = some m ∧ sOk s m.f.sd.toNat = true ∧ sReady s [m.f.sa.toNat] = true ∧ m.trap s .r = none ∧
        accs = [m.acc s .r []])) →
    t.cw.k = s.cw.k ∧ t.cw.obsd = s.cw.obsd ∧ t.cw.rngc = s.cw.rngc ∧ t.cw.stat = s.cw.stat ∧ t.homes = s.homes ∧
    t.llc = s.llc ∧ t.vds = s.vds ∧ (∀ w, w ≠ s.cur.wave → t.wave w = s.wave w) ∧
    (priv accs = false → (∀ l, t.raw l = s.raw l) ∧ t.copies = s.copies) ∧
    (priv accs = true → lined s → ∀ l : Loc, l.a < 2 ^ 128 → l.sp ≠ .l1 s.cw.coreNo → (∀ w, l.sp ≠ .privWb w) → t.raw l = s.raw l)) ∧
  ∀ (s t : State) (i : Instr) (accs : List Acc), exec i s = .next t →
    ((∃ m, vectorStore s i = some m ∧ m.storeReady s = true ∧ m.trap s .w = none ∧ (m.loc = false → classRoom s 0 = true) ∧
        accs = m.accs s .w fun l => laneData (valsOf s (m.va :: m.data) []).tail m.size l) ∨
     (∃ m, scalarStore i = some m ∧ sReady s [m.f.sa.toNat, m.f.sd.toNat] = true ∧ m.trap s .w = none ∧
        (m.loc = false → classRoom s 0 = true) ∧ accs = [m.acc s .w (m.data s)])) →
    scalarsBut s t none ∧ vectorsBut s t none ∧
    t.cw.k = s.cw.k ∧ t.cw.obsd = s.cw.obsd ∧ t.cw.rngc = s.cw.rngc ∧ t.cw.stat = s.cw.stat ∧ t.homes = s.homes ∧
    t.llc = s.llc ∧ t.vds = s.vds ∧ (∀ w, w ≠ s.cur.wave → t.wave w = s.wave w) ∧
    (lined s → ∀ l : Loc, l.a < 2 ^ 128 → l.sp ≠ .l1 s.cw.coreNo → (∀ w, l.sp ≠ .privWb w) →
      (priv accs = true → l.sp ≠ .priv s.cur.wave) → t.raw l = s.raw l)

/-- R196-R199: a vector atomic in memory that others share enters flight; with .ret its registers are EMPTY. -/
def Sys2Proof.Claims.VectorAtomics : Prop :=
  ∀ (s : State) (i : Instr) (f : AF) (size n aop : Nat), vectorAtomic i = some (f, size, n, aop) →
    let m := atomMem s f size n aop
    let srcs := m.va :: m.data
    let accs := m.accs s .rw fun l => laneData (valsOf s srcs []).tail (4 * m.n) l
    m.storeReady s = true → m.trap s .rw = none → classRoom s 1 = true → s.cw.mode ≠ .recompute →
    let t := ((popAll s srcs).tlbUse accs).commitMark
    let om := orderOfA s f.ord
    (priv accs = false → (accs ≠ [] ∨ f.ret = 1) → exec i s = .next (
      if f.ret = 1 then ((pending t m.vd n).launchOp (some 1) (.atomic aop size accs (destV s m.vd n) [] false) om.1 om.2).done
      else (t.launchOp (some 1) (.atomic aop size accs .none [] false) om.1 om.2).done)) ∧
    (accs = [] → f.ret = 0 → exec i s = .next t.done) ∧
    (priv accs = true → f.ret = 0 → exec i s = .next (t.privAtomic aop accs).1.done) ∧
    (priv accs = true → f.ret = 1 → exec i s = .next (
      let r := t.privAtomic aop accs
      let v := atomLanes n r.2
      (pending r.1 m.vd n).launchOp (some 1) (.value (destV s m.vd n) m.act v.1 v.2)).done)

/-- R200: SATOM. -/
def Sys2Proof.Claims.ScalarAtomics : Prop :=
  ∀ (s : State) (f : SA),
    let ops := if f.aop = 9 then [f.sb.toNat, f.sb.toNat + 1] else [f.sb.toNat]
    let size := if f.w = 1 then 4 else 8
    let base := s.sreg f.sa.toNat
    let a := access s false .rw size 0 (base.tag ++ base.val) (ops.flatMap fun r => bytesOf size (s.sreg r).val.toNat)
    sOk s f.sd.toNat = true → sReady s (f.sa.toNat :: ops) = true →
    (∀ c, cause s false .rw size 0 (base.tag ++ base.val) = some c →
      exec (.satom f) s = .next (s.takeTrap ⟨c, base.tag ++ base.val, 0, false⟩)) ∧
    (cause s false .rw size 0 (base.tag ++ base.val) = none → classRoom s 1 = true → s.cw.mode ≠ .recompute →
      priv [a] = false →
      let om := match s.cur.pfx with
        | some (.obs o m) => (Machine.orderOf o, m)
        | _ => (Machine.orderOf (s.cw.obsd.extractLsb' 5 3), s.cw.obsd.extractLsb' 0 5)
      exec (.satom f) s = .next (((s.tlbUse [a]).commitMark.modS f.sd.toNat fun x => { x with st := .empty }).launchOp
        (some 1) (.atomic f.aop.toNat size [a] (destS s f.sd) [] false) om.1 om.2).done) ∧
    (cause s false .rw size 0 (base.tag ++ base.val) = none → classRoom s 1 = true → s.cw.mode ≠ .recompute →
      priv [a] = true →
      let r := (s.tlbUse [a]).commitMark.privAtomic f.aop.toNat [a]
      let g := (r.2.map (·.2)).headD ([], false)
      exec (.satom f) s = .next ((r.1.modS f.sd.toNat fun x => { x with st := .empty }).launchOp (some 1)
        (.svalue (destS s f.sd) [{ val := BitVec.ofNat 64 (natOf g.1), st := if g.2 then .poison else .full }])).done)

/-- R197: the new value of every operation, at 4 and 8 bytes. -/
def Sys2Proof.Claims.AtomicValues : Prop :=
  ∀ (n : Nat) (aop : Nat) (old b c : BitVec (8 * n)), (n = 4 ∨ n = 8) → (10 ≤ aop → aop ≤ 12 → n = 4) →
    aop ≤ 17 → aop ≠ 15 →
    atomNew n aop old.toNat b.toNat c.toNat = (atomVal aop old b c).toNat

/-- R182, R379, R381: a write of a byte of HBM at its home is what the next read there returns, and every other byte of
HBM reads at its home as before, where the LLC has the line or room for it. R147: room is made by an eviction, which leaves
every byte of HBM reading at its home as before. -/
def Sys2Proof.Claims.HomeReadsBack : Prop :=
  (∀ (s : State) (l m : Loc) (b : Byte) (p : Bool), s.canon → l.sp = .phys → m.sp = .phys → (s.fwd l).a < 2 ^ 112 →
    (s.fwd m).a < 2 ^ 112 →
    (s.llcHas (s.fwd l) = true ∨ (s.llc.filter fun e => llcSlice e.line == llcSlice (s.fwd l).line).length < 24576) →
    (s.homePut l b p).homeByte l = (b, p) ∧ (s.fwd m ≠ s.fwd l → (s.homePut l b p).homeByte m = s.homeByte m)) ∧
  ∀ (s : State) (l m : Loc), s.canon → LlcSound s → m.sp = .phys → (s.fwd m).a < 2 ^ 112 →
    (s.llcRoom l).homeByte m = s.homeByte m

/-- R182: a store of local memory that is performed writes its bytes at its place, and changes no other byte; the
operation leaves flight with its last access. -/
def Sys2Proof.Claims.LocalStorePerformed : Prop :=
  ∀ (s : State) (o : Op) (l : Loc) (n : Nat) (data : List Byte) (lane : Nat) (va : Addr),
    s.canon → s.op? o.id = some o → o.answer = none → l.sp = .sram → data.length = n →
    o.kind = .store [{ lane := lane, place := .direct l, size := n, data := data, va := va }] →
    s.inOrder o { lane := lane, place := .direct l, size := n, data := data, va := va } = true →
    ∃ t, exec (.storePerform o.id 0) s = .next t ∧ (∀ i, i < n → t.raw (l.plus i) = (data.getD i 0, false)) ∧
      (∀ m : Loc, (∀ i, i < n → m.key ≠ (l.plus i).key) → t.raw m = s.raw m) ∧
      t = { s with mem := t.mem, bad := t.bad, flight := s.flight.filter fun p => p.id != o.id }

namespace Sys2Proof.Claims

/-! ## Results and stores at memory -/

/-- The value of n bytes of local memory. -/
def localNat (s : State) (l : Loc) (n : Nat) : Nat := natOf ((s.raws l n).map (·.1))

/-- The operation is in flight under its name. -/
def inFlight (s : State) (o : Op) : Prop := s.op? o.id = some o

/-- The operation has left flight, and everything else is still there. -/
def gone (s t : State) (o : Op) : Prop := t.flight = s.flight.filter fun p => p.id != o.id

/-- A maintenance instruction. -/
def maintOf : Instr → Option (X3 × Nat)
  | .clean f => some (f, 0)
  | .inval f => some (f, 1)
  | .clninv f => some (f, 2)
  | _ => none

/-- A memory-side operation: bytes of an element, sources, place of the count behind sb. -/
def msvOf : Instr → Option (X3 × Nat × Nat × Nat × Nat)
  | .msvaddBf16 f => some (f, 0, 2, 2, 2)
  | .msvaddF32 f => some (f, 1, 4, 2, 2)
  | .msvmulBf16 f => some (f, 2, 2, 2, 2)
  | .msvfill f => some (f, 3, 4, 0, 1)
  | .msvcopy f => some (f, 4, 1, 1, 1)
  | _ => none

/-- The physical lines behind n bytes from a tag-0x00 address, all of them on memory-side pages. -/
def msLines (s : State) (x : SReg) (p : Perm) (n : Nat) : Option (List Nat) :=
  if x.tag ≠ 0 then none
  else ((List.range (n / 128)).mapM fun i =>
    match s.translate s.cw.coreNo s.cg.vd s.cw.win 0 ((x.val + BitVec.ofNat 64 (128 * i)).setWidth 72) p with
    | .ok (.homed l true) => some l.a
    | _ => none)

/-- What stands against the lines of one operand: a tag that is reserved TAG, any other but 0x00 PROT, and in tag 0x00 what the
walk says, or PROT for a page that is not memory-side (R153, R175). -/
def msFaults (s : State) (x : SReg) (p : Perm) (n : Nat) : List (Byte × Addr) :=
  ((List.range (max 1 (n / 128))).map fun i => x.tag ++ (x.val + BitVec.ofNat 64 (128 * i))).filterMap fun a =>
    let k : Option Byte :=
      if x.tag = 0 then
        if n = 0 then none
        else match s.translate s.cw.coreNo s.cg.vd s.cw.win 0 a p with
          | .ok (.homed _ true) => none
          | .ok _ => some 0x04
          | .error c => some c
      else if x.tag = 1 ∨ x.tag = 2 ∨ x.tag = 0xF0 ∨ (0x10 ≤ x.tag.toNat ∧ x.tag.toNat ≤ 0x1F) then some 0x04 else some 0x05
    k.map (·, a)

/-- A special input of the function (R123). -/
def special (fn : Nat) (x : Word) : Option Word :=
  let nan : Word := 0x7FC00000
  let neg := x.getLsbD 31
  match f32 x with
  | .nan => some nan
  | .inf _ =>
    if fn = 0 then some (if neg then 0x80000000 else 0)
    else if fn = 1 then some (if neg then nan else 0)
    else if fn = 2 then some (if neg then nan else 0x7F800000)
    else if fn = 3 then some (if neg then 0 else 0x7F800000)
    else if fn = 4 then some (if neg then nan else 0x7F800000)
    else if fn = 7 then some (if neg then 0xBF800000 else 0x3F800000)
    else some nan
  | .fin _ m _ =>
    if m = 0 then
      (if fn = 0 ∨ fn = 1 then some (if neg then 0xFF800000 else 0x7F800000)
       else if fn = 2 ∨ fn = 5 ∨ fn = 7 then some x
       else if fn = 3 ∨ fn = 6 then some 0x3F800000
       else some 0xFF800000)
    else if neg ∧ (fn = 1 ∨ fn = 2 ∨ fn = 4) then some nan
    else none

end Sys2Proof.Claims

/-- R93, R94, R124: a result comes to its register. A local load gives its lanes the bytes it reads and leaves the other
lanes; the register is FULL when no other producer is outstanding; a scalar takes value, tag and state. -/
def Sys2Proof.Claims.Deliveries : Prop :=
  (∀ (s : State) (o : Op) (accs : List Acc) (r h : Nat), inFlight s o → o.kind = .load accs (.vec .wave r 1) .word h →
    o.wave < s.waves.length → r < (s.wave o.wave).v.length → (accs.map (·.lane)).Nodup → s.dstTurn o = true →
    s.ringAwaited o.id = false →
    (∀ a ∈ accs, a.lane < 32 ∧ a.size = 4 ∧ s.inOrder o a = true ∧ ∃ l, a.place = .direct l ∧ l.sp = .sram) →
    ∃ t, exec (.resultDelivery o.id) s = .next t ∧ gone s t o ∧ t.mem = s.mem ∧
      (∀ a l, a ∈ accs → a.place = .direct l →
        (((t.wave o.wave).v.getD r {}).lane a.lane).toNat = localNat s l 4) ∧
      (∀ n, n < 32 → n ∉ accs.map (·.lane) → ((t.wave o.wave).v.getD r {}).lane n = ((s.wave o.wave).v.getD r {}).lane n) ∧
      (s.lastFor o (.vec .wave r 1) = true → ((t.wave o.wave).v.getD r {}).empty = false) ∧
      (s.lastFor o (.vec .wave r 1) = false → ((t.wave o.wave).v.getD r {}).empty = ((s.wave o.wave).v.getD r {}).empty) ∧
      ∀ w, w ≠ o.wave → t.wave w = s.wave w) ∧
  (∀ (s : State) (o : Op) (r f : Nat) (x : SReg), inFlight s o → o.kind = .svalue (.scl .wave r 1) [x] →
    o.sfr = [f] → r ≠ 0 → o.wave < s.waves.length → f < (s.wave o.wave).frags.length →
    r < ((s.wave o.wave).frags.getD f {}).s.length → s.dstTurn o = true → s.ringAwaited o.id = false →
    s.lastFor o (.scl .wave r 1) = true →
    ∃ t, exec (.resultDelivery o.id) s = .next t ∧ gone s t o ∧ t.mem = s.mem ∧
      ((t.wave o.wave).frags.getD f {}).s.getD r {} = x ∧ (∀ w, w ≠ o.wave → t.wave w = s.wave w) ∧
      (t.wave o.wave).path = match o.path with
        | none => (s.wave o.wave).path
        | some p => if o.keepDepth then p.extractLsb' 7 35 ++ (s.wave o.wave).path.extractLsb' 0 7 else p) ∧
  (∀ (s : State) (o : Op) (r : Nat) (lanes poison : Word) (v : List Word), inFlight s o →
    o.kind = .value (.vec .wave r 1) lanes [v] poison → o.wave < s.waves.length → r < (s.wave o.wave).v.length →
    s.dstTurn o = true → s.ringAwaited o.id = false →
    ∃ t, exec (.resultDelivery o.id) s = .next t ∧ gone s t o ∧ t.mem = s.mem ∧
      (∀ l, l < 32 → ((t.wave o.wave).v.getD r {}).lane l =
        if lanes.getLsbD l then v.getD l 0 else ((s.wave o.wave).v.getD r {}).lane l) ∧
      ((t.wave o.wave).v.getD r {}).poison = ((((s.wave o.wave).v.getD r {}).poison &&& ~~~ lanes) ||| (poison &&& lanes))) ∧
  (∀ (s : State) (o : Op), inFlight s o → (∀ m w d, o.kind ≠ .slalom m w d) → s.dstTurn o = false →
    exec (.resultDelivery o.id) s = .next s)

/-- R121, R227: VSFU waits while its partition's queue holds 64 entries, else it enters the queue. -/
def Sys2Proof.Claims.SfuIssue : Prop :=
  ∀ (s : State) (f : VS), [f.vd.toNat, f.va.toNat].all (vOk s) = true →
    (64 ≤ (s.sfuQueue s.cw.partNo).length → exec (.vsfu f) s =
      .next { s with cur := { s.cur with stalled := true, opened := false } }) ∧
    ((s.sfuQueue s.cw.partNo).length < 64 → dstOk s f.vd.toNat = true → srcsOk s [f.va.toNat] [] = true →
      clean (valsOf s [f.va.toNat] []) (s.active f.kp) = true →
      exec (.vsfu f) s = .next ((pendV (popAll s [f.va.toNat]) f.vd.toNat none
        (.sfu f.fn.toNat (f.fast == 1) (destV s f.vd.toNat 1) (s.active f.kp)
          ((List.range 32).map fun l => (valOf s 0 f.va.toNat).lane l))).latchVa f.h f.va).done)

/-- R123, R124, R89: the oldest entry of a partition's queue is delivered, and no other; special inputs give the results the
spec names, whatever the free values are; a lane's result is a function of the function, its mode and the operand. -/
def Sys2Proof.Claims.SfuResults : Prop :=
  (∀ (fn : Nat) (fast : Bool) (a free w : Word), fn < 8 → special fn a = some w → Num.sfuLane fn fast a free = w) ∧
  (∀ (s : State) (o : Op) (fn r : Nat) (fast : Bool) (lanes : Word) (src : List Word), inFlight s o →
    o.kind = .sfu fn fast (.vec .wave r 1) lanes src → o.wave < s.waves.length → r < (s.wave o.wave).v.length →
    s.dstTurn o = true → ((s.sfuQueue (s.wave o.wave).partNo).head?.map (·.id)) = some o.id →
    ∃ t, exec (.sfuResult o.id) s = .next t ∧ gone s t o ∧ t.mem = s.mem ∧
      ∀ l, l < 32 → (lanes.getLsbD l = false → ((t.wave o.wave).v.getD r {}).lane l = ((s.wave o.wave).v.getD r {}).lane l) ∧
        (lanes.getLsbD l = true → ((t.wave o.wave).v.getD r {}).lane l =
          Num.sfuLane fn fast (src.getD l 0) (Config.freeSfu fn fast (src.getD l 0)))) ∧
  (∀ (s : State) (o : Op), inFlight s o → ((s.sfuQueue (s.wave o.wave).partNo).head?.map (·.id)) ≠ some o.id →
    exec (.sfuResult o.id) s = .next s)

/-- R182, R197, R198: an atomic of one lane at an HBM word reads the word at its home and leaves the new value there; a
returning one keeps the old value for its register. -/
def Sys2Proof.Claims.AtomicPerformed : Prop :=
  ∀ (s : State) (o : Op) (aop lane : Nat) (l : Loc) (b c : Word) (d : Dst) (va : Addr), inFlight s o → s.canon →
    let a : Acc := { lane := lane, place := .homed l false, size := 4, data := bytesOf 4 b.toNat ++ bytesOf 4 c.toNat, va := va }
    o.kind = .atomic aop 4 [a] d [] true → l.sp = .phys → l.a % 4 = 0 → l.a < 2 ^ 54 → s.moves = [] → aop < 15 →
    s.inOrder o a = true → s.writable o.core a.place = true → (∀ i, i < 4 → (s.homeByte (l.plus i)).2 = false) →
    ∃ t, exec (.atomicPerform o.id 0) s = .next t ∧
      natOf ((t.homeBytes l 4).map (·.1)) =
        (atomVal aop (BitVec.ofNat 32 (natOf ((s.homeBytes l 4).map (·.1)))) b c).toNat ∧
      (d = .none → gone s t o) ∧
      (d ≠ .none → t.op? o.id = some { o with kind := .atomic aop 4 [] d [(lane, (s.homeBytes l 4).map (·.1), false)] true })

/-- R178, R184, R186: the lease events. -/
def Sys2Proof.Claims.LeaseEvents : Prop :=
  (∀ (s : State) (n : Nat) (h : Home) (c t : Nat), s.homes[n]? = some h → h.own = some (c, t) → t ≤ s.time →
    exec (.ownLeaseReturn n) s = .next (s.setHome { h with own := none })) ∧
  (∀ (s : State) (n core other : Nat) (h : Home), s.homes[n]? = some h → core ≠ other →
    (∀ c, c = core ∨ c = other → ∃ o ∈ s.flight, o.isAtomic = true ∧ o.core = c ∧
      ∃ a ∈ o.accs, a.place.line? = some h.line) →
    exec (.leaseRequestRetry n core) s = .next (s.setHome { h with count := min 3 (h.count + 1) })) ∧
  (∀ (s : State) (core : Nat), ∃ t, exec (.leaseSweep core) s = .next t ∧
    (∀ c ∈ t.copies, c ∈ s.copies ∧ ((c.holder = .l1 core ∨ c.holder = .cc (core / 4)) → s.expired c = false)) ∧
    (∀ c ∈ s.copies, c ∉ t.copies → ∃ e ∈ s.copies, e.holder = c.holder ∧ e.line = c.line ∧ s.expired e = true) ∧
    t.flight = s.flight ∧ t.waves = s.waves)

/-- R169: CLEAN, INVAL and CLNINV write the count that remains past the first MiB and, where their pages allow it, enter
flight with the lines of the range; host and peer tags, and a count of 0, touch nothing. R413: a range that overlaps a watchpoint
raises WATCH. -/
def Sys2Proof.Claims.MaintenanceIssue : Prop :=
  ∀ (s : State) (i : Instr) (f : X3) (sub : Nat), maintOf i = some (f, sub) → sOk s f.d.toNat = true →
    sReady s [f.sa.toNat, f.sb.toNat] = true →
    let x := s.sreg f.sa.toNat
    let count := (sv s f.sb).toNat
    let rest := BitVec.ofNat 64 (count - min count (2 ^ 20))
    ((x.tag = 0xF0 ∨ (0x10 ≤ x.tag.toNat ∧ x.tag.toNat ≤ 0x1F) ∨ count = 0) →
      exec i s = .next (s.writeS f.d.toNat rest 0).done) ∧
    (x.tag = 0 → 0 < count → classRoom s 5 = true → ∀ ls : List Place,
      ((x.tag ++ x.val) :: (List.range ((x.val.toNat % 2 ^ 64 + min count (2 ^ 20) - 1) / 128 - x.val.toNat / 128)).map fun k =>
          x.tag ++ BitVec.ofNat 64 ((x.val.toNat / 128 + k + 1) * 128)).mapM (fun a =>
        match s.translate s.cw.coreNo s.cg.vd s.cw.win 0 a (if sub = 0 then .r else .w) with
        | .ok (.homed l m) => some (Place.homed ⟨l.sp, l.a / 128 * 128⟩ m)
        | _ => none) = some ls →
      exec i s = .next (if s.watched (x.tag ++ x.val) (min count (2 ^ 20)) then s.takeTrap ⟨0x13, x.tag ++ x.val, 0, false⟩
        else ((s.writeS f.d.toNat rest 0).launchOp (some 5) (.maint sub ls)).done))

/-- R170, R169: a maintenance operation of one HBM line that no earlier access of the wave stands against is done: CLEAN
leaves no dirty byte in the LLC line, INVAL and CLNINV leave no LLC copy and none in the core's L1. -/
def Sys2Proof.Claims.MaintenanceDone : Prop :=
  ∀ (s : State) (o : Op) (sub : Nat) (l : Loc) (m : Bool), inFlight s o → o.kind = .maint sub [.homed l m] → sub < 3 →
    l.sp = .phys → s.moves = [] →
    (∀ p ∈ s.flight, p.id < o.id → p.wave = o.wave → (p.isStore || p.isAtomic) = false) →
    ∃ t, exec (.maintenanceDone o.id) s = .next t ∧ gone s t o ∧
      (sub = 0 → (∀ e ∈ t.llc, e.line = l.line → e.dirty = 0) ∧ t.copies = s.copies) ∧
      (sub ≠ 0 → t.llcHas l = false ∧ ∀ c ∈ t.copies, ¬(c.holder = .l1 o.core ∧ c.line = l.line))

/-- R168, R171-R173: PREF changes no register, operation or gang; L1DROP empties the core's L1 of copies; FENCEI waits
for the wave's stores, drops the core's instruction lines, and the wave fetches anew. -/
def Sys2Proof.Claims.CacheInstructions : Prop :=
  (∀ (s : State) (sb sa : BitVec 6), sReady s [sa.toNat, sb.toNat] = true →
    ∃ t, exec (.pref sb sa) s = .next t ∧ t.waves = s.done.waves ∧ t.flight = s.flight ∧ t.gangs = s.gangs ∧ t.vds = s.vds) ∧
  (∀ s : State, ∃ t, exec .l1drop s = .next t ∧ t.waves = s.done.waves ∧ t.flight = s.flight ∧
    t.copies = s.copies.filter fun c => c.holder != .l1 s.cw.coreNo) ∧
  (∀ s : State, (∀ o ∈ s.flight, o.wave = s.cur.wave → (o.isStore || o.isAtomic) = false) →
    ∃ t, exec .fencei s = .next t ∧ t.waves = s.done.waves ∧ t.flight = s.flight ∧
      (t.sectors = s.sectors.filter fun p => p.1 != s.cw.coreNo) ∧
      t.views = s.views.filter fun p => p.1 != s.cur.wave) ∧
  (∀ s : State, (∃ o ∈ s.flight, o.wave = s.cur.wave ∧ (o.isStore || o.isAtomic) = true) →
    exec .fencei s = .next { s with cur := { s.cur with stalled := true, opened := false } })

/-- R174: BANKMODE zeroes the bank, sets its mode and writes the mode before; a bank the gang does not hold, or a FIFO
bound to a port, raises LOCAL. -/
def Sys2Proof.Claims.BankModes : Prop :=
  ∀ (s : State) (mode : BitVec 3) (sa d : BitVec 6), sOk s d.toNat = true → sReady s [sa.toNat] = true → mode.toNat < 3 →
    let v := (sv s sa).toNat
    let b := v / 2 ^ 17
    let bk := s.cg.banks.getD b {}
    ((2 ^ 22 ≤ v ∨ s.cg.banks.length ≤ b ∨ (bk.mode = .fifo ∧ ∃ w ∈ s.cg.waves, (s.wave w).mode ≠ .ended ∧
        ∃ q, some q ∈ (s.wave w).ports ∧ q.bank = b)) →
      exec (.bankmode mode sa d) s = .next (s.takeTrap ⟨0x1B, (sv s sa).setWidth 72, 0, false⟩)) ∧
    (v < 2 ^ 22 → b < s.cg.banks.length → bk.mode ≠ .fifo → s.bankBusy s.cw.gang b = false → s.cw.mode ≠ .recompute →
      s.cw.gang < s.gangs.length →
      ∃ t, exec (.bankmode mode sa d) s = .next t ∧
        (t.cg.banks.getD b {}).mode = (if mode = 0 then .cache else if mode = 1 then .scratch else .fifo) ∧
        (t.cg.banks.getD b {}).entries = [] ∧ (∀ c, c ≠ b → t.cg.banks.getD c {} = s.cg.banks.getD c {}) ∧
        (∀ i, i < 2 ^ 17 → t.raw ⟨.sram, ((s.cg.die * 20 + s.cg.cluster) * 32 + bk.phys) * 2 ^ 17 + i⟩ = (0, false)) ∧
        t.waves = (s.commitMark.writeS d.toNat (match bk.mode with | .cache => 0 | .scratch => 1 | .fifo => 2) 0).done.waves)

/-- R175, R176: a memory-side operation whose operands are aligned and on memory-side pages writes the count that
remains and enters flight with its lines; a misaligned operand raises ALIGN; then TAG, XLATE and PROT are each looked for over
every line of every operand before the next; WATCH comes after them (R413). -/
def Sys2Proof.Claims.MemorySideIssue : Prop :=
  ∀ (s : State) (i : Instr) (f : X3) (sub unit nsrc k : Nat), msvOf i = some (f, sub, unit, nsrc, k) →
    let sb := f.sb.toNat
    sOk s f.d.toNat = true → sReady s (f.sa.toNat :: (List.range (k + 1)).map (sb + ·)) = true →
    let c := s.sreg f.sa.toNat
    let x := s.sreg sb
    let y := s.sreg (sb + 1)
    let cnt := (s.sreg (sb + k)).val
    let bytes := cnt.toNat * unit
    let n := min bytes (2 ^ 20)
    (c.val.toNat % 128 ≠ 0 → exec i s = .next (s.takeTrap ⟨0x02, c.tag ++ c.val, 0, false⟩)) ∧
    (c.val.toNat % 128 = 0 → (1 ≤ nsrc → x.val.toNat % 128 = 0) → (2 ≤ nsrc → y.val.toNat % 128 = 0) → bytes % 128 = 0 →
      classRoom s 4 = true → ∀ lc la lb, msLines s c .w n = some lc →
      (if 1 ≤ nsrc then msLines s x .r n else some []) = some la → (if 2 ≤ nsrc then msLines s y .r n else some []) = some lb →
      let t := s.writeS f.d.toNat (BitVec.ofNat 64 ((bytes - n) / unit)) 0
      let seen := ([c] ++ [x, y].take nsrc).flatMap fun z => ((List.range (n / 128)).map fun i =>
        z.tag ++ (z.val + BitVec.ofNat 64 (128 * i))).filter fun a => s.watched a 128
      exec i s = .next (if n = 0 then t.done
        else match seen with
        | a :: _ => s.takeTrap ⟨0x13, a, 0, false⟩
        | [] => (t.launchOp (some 4) (.msv ⟨sub, lc, la, lb, x.val.setWidth 32⟩)).done)) ∧
    (c.val.toNat % 128 = 0 → (1 ≤ nsrc → x.val.toNat % 128 = 0) → (2 ≤ nsrc → y.val.toNat % 128 = 0) → bytes % 128 = 0 →
      let bad := msFaults s c .w n ++ (if 1 ≤ nsrc then msFaults s x .r n else []) ++ (if 2 ≤ nsrc then msFaults s y .r n else [])
      ∀ e, (([0x05, 0x03, 0x04] : List Byte).filterMap fun k => bad.find? fun b => b.1 == k).head? = some e →
        exec i s = .next (s.takeTrap ⟨e.1, e.2, 0, false⟩))

/-- R175, R177: a memory-side operation of one line, with nothing of its lines in the LLC or at the host, writes the
line of c in HBM: the pattern, the copy, or the elements combined, each rounded once. R195: not before the fragment's earlier
acquires, or its releases that name E, are performed. -/
def Sys2Proof.Claims.MemorySideDone : Prop :=
  (∀ (s : State) (o : Op) (m : Msv), inFlight s o → o.kind = .msv m → (s.acquiring o = true ∨ s.releasing o 1 = true) →
    exec (.msvComplete o.id) s = .next s) ∧
  ∀ (s : State) (o : Op) (sub : Nat) (c : Nat) (a b : List Nat) (pat : Word), inFlight s o →
    o.kind = .msv ⟨sub, [c], a, b, pat⟩ → s.acquiring o = false → s.releasing o 1 = false → s.canon → s.llc = [] → s.dir = [] → s.moves = [] → s.marked = [] →
    c % 128 = 0 → c < 2 ^ 41 → a.length ≤ 1 → b.length ≤ 1 → (∀ x ∈ a ++ b, x % 128 = 0 ∧ x < 2 ^ 41 ∧ x ≠ c) →
    (∀ x ∈ a ++ b, ∀ i, i < 128 → (s.raw ⟨.phys, x + i⟩).2 = false) →
    let src (l : List Nat) (i : Nat) : Byte := if l = [] then 0 else (s.raw ⟨.phys, l.getD 0 0 + i⟩).1
    let el (w : Nat) (l : List Nat) (i : Nat) : Nat := natOf ((List.range w).map fun j => src l (i / w * w + j))
    let out (w : Nat) (v : Nat) (i : Nat) : Byte := BitVec.ofNat 8 (v / 256 ^ (i % w))
    ∃ t, exec (.msvComplete o.id) s = .next t ∧ gone s t o ∧
      (∀ i, i < 128 → t.raw ⟨.phys, c + i⟩ =
        ((if sub = 0 then out 2 (rnd Num.bf16 ((Num.val Num.bf16 (el 2 a i)).add (Num.val Num.bf16 (el 2 b i)))) i
          else if sub = 1 then out 4 (rnd Num.f32 ((Num.val Num.f32 (el 4 a i)).add (Num.val Num.f32 (el 4 b i)))) i
          else if sub = 2 then out 2 (rnd Num.bf16 ((Num.val Num.bf16 (el 2 a i)).mul (Num.val Num.bf16 (el 2 b i)))) i
          else if sub = 3 then out 4 pat.toNat i
          else src a i), false)) ∧
      (∀ m : Loc, (∀ i, i < 128 → m.key ≠ Loc.key ⟨.phys, c + i⟩) → t.raw m = s.raw m)

/-- The fragment has a load outstanding, or an atomic that returns a value. -/
def Sys2Proof.Claims.reads (s : State) : Prop := ∃ o ∈ s.flight, o.wave = s.cur.wave ∧ s.cur.frag ∈ o.owners ∧
  (o.isLoad = true ∨ (o.isAtomic = true ∧ o.dst ≠ .none))

/-- The wave has a CLEAN, INVAL or CLNINV outstanding. -/
def Sys2Proof.Claims.cleans (s : State) : Prop := ∃ o ∈ s.flight, o.wave = s.cur.wave ∧ o.isMaint = true

/-- R202, R203, R177: a fence completes when what it orders is done: an acquire-and-release or release fence waits for the
fragment's accesses, an acquire for its loads and returning atomics, one of any order that names E for the wave's maintenance; it
changes nothing but the order of .sc fences. -/
def Sys2Proof.Claims.Fences : Prop :=
  ∀ (s : State) (ord : BitVec 2) (mask : BitVec 5),
    ((ord ≠ 1 → s.settled = true) → (ord ≠ 2 → ¬Sys2Proof.Claims.reads s) → (mask.getLsbD 1 = true → ¬Sys2Proof.Claims.cleans s) →
      exec (.fence ord mask) s = .next (if ord = 0
        then { s with scOrder := s.scOrder ++ [(s.cur.wave, s.cur.frag, mask)] } else s).done) ∧
    ((ord ≠ 1 ∧ s.settled = false) ∨ (ord ≠ 2 ∧ Sys2Proof.Claims.reads s) ∨ (mask.getLsbD 1 = true ∧ Sys2Proof.Claims.cleans s) →
      exec (.fence ord mask) s = .next { s with cur := { s.cur with stalled := true, opened := false } })

namespace Sys2Proof.Claims

/-! ## Queues, copies, deposits -/

/-- The wave, in a next state that stalls. -/
def stalls (s : State) : State := { s with cur := { s.cur with stalled := true, opened := false } }

/-- The places of the words of a local range: one SRAM word each. -/
def localRange (s : State) (off n : Nat) : Option (List Place) :=
  (List.range (n / 4)).mapM fun i => (s.cg.localLoc (off + 4 * i)).map Place.direct

/-- The places of the words of a global range whose tag a copy may carry (R239). -/
def globalRange (s : State) (x : SReg) (n : Nat) (p : Perm) : Option (List Place) :=
  if x.tag = 0 ∨ (x.tag = 1 ∧ p = .r) ∨ x.tag = 0xF0 ∨ (0x10 ≤ x.tag.toNat ∧ x.tag.toNat ≤ 0x1F) then
    (List.range (n / 4)).mapM fun i =>
      match s.translate s.cw.coreNo s.cg.vd s.cw.win 0 (x.tag ++ (x.val + BitVec.ofNat 64 (4 * i))) p with
      | .ok q => some q
      | .error _ => none
  else none

def rangeOf (s : State) (loc : Bool) (x : SReg) (n : Nat) (p : Perm) : Option (List Place) :=
  if loc then localRange s x.val.toNat n else globalRange s x n p

/-- The sync word of a command: none for 0, else a word of local memory (R238). -/
def syncOf (s : State) (x : SReg) : Option (Option Place) :=
  if x.val = 0 then some none else (s.cg.localLoc x.val.toNat).map fun l => some (.direct l)

/-- A linear copy: is its destination local, is its source local (R238)? -/
def copyOf : Instr → Option (XF × Bool × Bool)
  | .cpyg2l f => some (f, true, false)
  | .cpyl2g f => some (f, false, true)
  | .cpyg2g f => some (f, false, false)
  | .cpyl2l f => some (f, true, true)
  | _ => none

/-- The copy queue of the core has room (R237), and so has the wave's counter (R340). -/
def queueRoom (s : State) (q : Nat) : Bool := (s.inQueue s.cw.coreNo q).length < 32 && classRoom s 3

/-- The command is in its queue; the wave is committed. -/
def queued (s : State) (q : Nat) (k : CopyKind) (sync : Option Place) (entry : Nat := 0) : State :=
  (s.commitMark.launchOp (some 3) (.copy q k sync false [] 0) .weak 0 entry).done

/-- The first of the values that is no multiple of what it must be, with its tag (R239). -/
def misaligned (l : List (DWord × Byte × Nat)) : Option Addr :=
  (l.find? fun e => e.1.toNat % e.2.2 ≠ 0).map fun e => e.2.1 ++ e.1

/-- The first word of a global range that meets a watchpoint (R413). -/
def watchedAt (s : State) (rs : List (SReg × Nat)) : Option Addr :=
  (rs.flatMap fun r => (List.range (r.2 / 4)).map fun i => r.1.tag ++ (r.1.val + BitVec.ofNat 64 (4 * i))).find? fun a => s.watched a 4

/-- A command that has passed its checks: WATCH, or it enters its queue, or waits while that is full. -/
def enters (s : State) (i : Instr) (q : Nat) (seen : Option Addr) (t : State) : Prop :=
  match seen with
  | some a => exec i s = .next (s.takeTrap ⟨0x13, a, 0, false⟩)
  | none => (queueRoom s q = true → exec i s = .next t) ∧
    (32 ≤ (s.inQueue s.cw.coreNo q).length → exec i s = .next (stalls s))

/-- o is in flight alone under its name. -/
def sole (s : State) (o : Op) : Prop := o ∈ s.flight ∧ (s.flight.map (·.id)).Nodup

/-- A copy command, not a marker, of queue q of a core, in flight. -/
def isCopyOf (x : Op) (core q : Nat) : Prop :=
  x.core = core ∧ ∃ k y b d n, x.kind = .copy q k y b d n ∧ ∀ all, k ≠ .marker all

/-- The element of each member's buffer, in the order of the ring from the member after chunk c's own (R247). -/
def ringOrder (n c w i : Nat) (ms : List (Nat × List Byte)) : List Nat :=
  (List.range n).map fun j => natOf ((((ms.find? fun m => m.1 = (c + 1 + j) % n).map (·.2)).getD []).drop (i * w) |>.take w)

/-- Is f a FIFO bank of the gang, named by its base address? -/
def fifoAt (s : State) (v : DWord) : Option Nat :=
  let b := v.toNat / 2 ^ 17
  if v.toNat < 2 ^ 22 ∧ v.toNat % 2 ^ 17 = 0 ∧ b < s.cg.banks.length ∧ (s.cg.banks.getD b {}).mode = .fifo then some b else none

/-- What an entry of a bank makes of a register (R148, R234). -/
def entered (s : State) (e x : VReg) : VReg :=
  { (x.write s.exm e.lane) with poison := (x.write s.exm e.lane).poison ||| (e.poison &&& s.exm) }

/-- One step of a reduction (R247): f32, bf16 or s32; sum or maximum. -/
def stepVal (p : Nat) (x y : Nat) : Nat :=
  if p % 4 = 0 then
    (if p / 4 = 0 then (rnd32 ((Num.val Num.f32 x).add (Num.val Num.f32 y))).toNat else Num.maxnum Num.f32 x y)
  else if p % 4 = 1 then
    (if p / 4 = 0 then rnd Num.bf16 ((Num.val Num.bf16 x).add (Num.val Num.bf16 y)) else Num.maxnum Num.bf16 x y)
  else if p / 4 = 0 then (x + y) % 2 ^ 32
  else if (BitVec.ofNat 32 x).toInt < (BitVec.ofNat 32 y).toInt then y else x

end Sys2Proof.Claims

/-- R233, R268, R232: QCFG binds a port to a FIFO bank of the gang, with a role or not, or unbinds it; another address raises
LOCAL, and a role that the launch does not define ROLE. A bank that is bound to a role all of whose waves have ended closes at
once, if a wave of the role had bound it. -/
def Sys2Proof.Claims.QueueConfig : Prop :=
  (∀ (s : State) (a d : BitVec 6), s.cw.handling = false → s.cw.mode ≠ .recompute → a = 0 → 56 ≤ d.toNat →
    exec (.qcfg a d) s = .next (s.commitMark.modCw fun w => { w with ports := w.ports.set (d.toNat - 56) none }).done) ∧
  (∀ (s : State) (a d : BitVec 6), s.cw.handling = false → a ≠ 0 → 56 ≤ d.toNat → sReady s [a.toNat] = true →
    (fifoAt s (sv s a) = none → exec (.qcfg a d) s = .next (s.takeTrap ⟨0x1B, (sv s a).setWidth 72, 0, false⟩)) ∧
    (∀ b, fifoAt s (sv s a) = some b → s.cur.pfx = none → s.cw.mode ≠ .recompute → s.cur.wave < s.waves.length →
      s.cw.gang < s.gangs.length → s.cw.ports.length = 8 →
      ∃ t, exec (.qcfg a d) s = .next t ∧ t.cw.ports.getD (d.toNat - 56) none = some ⟨b, none⟩ ∧
        s.cw.role ∈ (t.cg.banks.getD b {}).boundBy ∧ (t.cg.banks.getD b {}).entries = (s.cg.banks.getD b {}).entries ∧
        (∀ q, q ≠ d.toNat - 56 → t.cw.ports.getD q none = s.cw.ports.getD q none) ∧ t.mem = s.mem) ∧
    (∀ b (r : BitVec 6), fifoAt s (sv s a) = some b → s.cur.pfx = some (.role r) →
      ((s.cl.block.roles.length ≤ r.toNat ∨ (s.cl.block.roles.getD r.toNat {}).wgs = 0) →
        exec (.qcfg a d) s = .next (s.takeTrap ⟨0x19, BitVec.ofNat 72 r.toNat, 0, false⟩)) ∧
      (r.toNat < s.cl.block.roles.length → (s.cl.block.roles.getD r.toNat {}).wgs ≠ 0 → s.cw.mode ≠ .recompute →
        s.cur.wave < s.waves.length → s.cw.gang < s.gangs.length → s.cw.ports.length = 8 →
        ∃ t, exec (.qcfg a d) s = .next t ∧ t.cw.ports.getD (d.toNat - 56) none = some ⟨b, some r.toNat⟩ ∧
          s.cw.role ∈ (t.cg.banks.getD b {}).boundBy ∧ r.toNat ∈ (t.cg.banks.getD b {}).named ∧
          (t.cg.banks.getD b {}).entries = (s.cg.banks.getD b {}).entries ∧ t.mem = s.mem ∧
          ((∃ g ∈ s.cg.wgs, g.role = r.toNat ∧ ∃ w ∈ g.waves, (s.wave w).mode ≠ .ended) →
            (t.cg.banks.getD b {}).closed = (s.cg.banks.getD b {}).closed) ∧
          ((∀ g ∈ s.cg.wgs, g.role = r.toNat → ∀ w ∈ g.waves, w ≠ s.cur.wave ∧ (s.wave w).mode = .ended ∧
              ∀ o ∈ s.flight, o.wave ≠ w) → s.cw.role = r.toNat ∨ r.toNat ∈ (s.cg.banks.getD b {}).boundBy →
            (t.cg.banks.getD b {}).closed = true))))

/-- R230, R231, R234-R236, R148: QTRY pops when there is an entry and says so, QPEEK looks and counts, QCLOSE closes once no
result of the wave is on its way to the bank; all three raise QCLOSED on an unbound port. An entry's lanes come with their
poison marks. -/
def Sys2Proof.Claims.QueueAccess : Prop :=
  (∀ (s : State) (sd q d : BitVec 6), s.cw.handling = false → vOk s d.toNat = true → d.toNat < 56 →
    (s.portBank q.toNat = none → exec (.qtry sd q d) s = .next (s.takeTrap ⟨0x10, 0, 0, false⟩) ∧
      exec (.qpeek sd q d) s = .next (s.takeTrap ⟨0x10, 0, 0, false⟩) ∧
      exec (.qclose q) s = .next (s.takeTrap ⟨0x10, 0, 0, false⟩)) ∧
    (∀ b k, s.portBank q.toNat = some (b, k) → s.cw.mode ≠ .recompute →
      (k.entries = [] → exec (.qtry sd q d) s = .next (s.commitMark.writeS sd.toNat (if k.closed then 2 else 0) 0).done) ∧
      (∀ e r, k.entries = e :: r → exec (.qtry sd q d) s = .next
        ((((s.commitMark.modBank b fun k => { k with entries := r }).modV d.toNat (entered s e)).writeS sd.toNat 1 0).done)) ∧
      exec (.qpeek sd q d) s = .next (((match k.entries with
        | e :: _ => s.commitMark.modV d.toNat (entered s e)
        | [] => s.commitMark).writeS sd.toNat (BitVec.ofNat 64 (k.entries.length + if k.closed then 2 ^ 63 else 0)) 0).done) ∧
      ((∀ o ∈ s.flight, o.wave = s.cur.wave → ∀ p, o.dst = .port p → (s.portBank p).map (·.1) ≠ some b) →
        exec (.qclose q) s = .next (s.commitMark.modBank b fun k => { k with closed := true }).done) ∧
      (∀ o ∈ s.flight, o.wave = s.cur.wave → o.dst = .port q.toNat → exec (.qclose q) s = .next (stalls s))))

/-- R237-R239, R413: the linear copies. A count above 2^24 raises ILL; the first misaligned of destination, source, count and
sync word ALIGN; a command whose ranges and sync word pass raises WATCH for the first word that meets a watchpoint, enters its
queue, or waits while the queue is full; a count of 0 only commits. -/
def Sys2Proof.Claims.LinearCopies : Prop :=
  ∀ (s : State) (i : Instr) (f : XF) (dl sl : Bool), copyOf i = some (f, dl, sl) →
    let sb := f.sb.toNat
    sReady s [f.d.toNat, f.sa.toNat, sb, sb + 1] = true →
    let d := s.sreg f.d.toNat
    let a := s.sreg f.sa.toNat
    let n := (s.sreg sb).val.toNat
    let w := s.sreg (sb + 1)
    (2 ^ 24 < n → exec i s = .next (s.takeTrap ⟨0x01, 0, 0, false⟩)) ∧
    (∀ v, n ≤ 2 ^ 24 → misaligned [(d.val, if dl then 0 else d.tag, 4), (a.val, if sl then 0 else a.tag, 4),
        ((s.sreg sb).val, 0, 4), (w.val, 0, 8)] = some v → exec i s = .next (s.takeTrap ⟨0x02, v, 0, false⟩)) ∧
    (∀ ld la sync, n ≤ 2 ^ 24 → d.val.toNat % 4 = 0 → a.val.toNat % 4 = 0 → n % 4 = 0 → w.val.toNat % 8 = 0 →
      rangeOf s dl d n .w = some ld → rangeOf s sl a n .r = some la → syncOf s w = some sync → s.cw.mode ≠ .recompute →
      (n = 0 → exec i s = .next s.commitMark.done) ∧
      (0 < n → enters s i f.f3.toNat (watchedAt s ((if dl then [] else [(d, n)]) ++ if sl then [] else [(a, n)]))
        (queued s f.f3.toNat (.linear ld la n) sync)))

/-- R238, R239, R246, R293, R413: CPYGATH, COLLARED, COLLBC and CPYRK enter their queues when their operands pass, or wait while
the queue is full. A count or a size that the rules exclude raises ILL, for CPYRK an sb above 60 too, once its operands are
there; a misaligned operand ALIGN; a collective whose buffer or status word meets a watchpoint WATCH. -/
def Sys2Proof.Claims.OtherCopies : Prop :=
  (∀ (s : State) (f : XF), let sb := f.sb.toNat
    sReady s [f.d.toNat, f.sa.toNat, sb, sb + 1, sb + 2, sb + 3] = true →
    let d := s.sreg f.d.toNat
    let a := s.sreg f.sa.toNat
    let row := (s.sreg sb).val.toNat
    let w := s.sreg (sb + 1)
    let ix := s.sreg (sb + 2)
    let cnt := (s.sreg (sb + 3)).val.toNat
    ((row < 4 ∨ 4096 < row ∨ cnt = 0 ∨ 4096 < cnt) → exec (.cpygath f) s = .next (s.takeTrap ⟨0x01, 0, 0, false⟩)) ∧
    (∀ v, 4 ≤ row → row ≤ 4096 → 1 ≤ cnt → cnt ≤ 4096 → misaligned [(d.val, 0, 4), (a.val, a.tag, 4), ((s.sreg sb).val, 0, 4),
        (ix.val, 0, 4), (w.val, 0, 8)] = some v → exec (.cpygath f) s = .next (s.takeTrap ⟨0x02, v, 0, false⟩)) ∧
    (∀ ld li sync, 4 ≤ row → row ≤ 4096 → 1 ≤ cnt → cnt ≤ 4096 → d.val.toNat % 4 = 0 → a.val.toNat % 4 = 0 →
      row % 4 = 0 → ix.val.toNat % 4 = 0 → w.val.toNat % 8 = 0 → localRange s d.val.toNat (row * cnt) = some ld →
      localRange s ix.val.toNat (4 * cnt) = some li → syncOf s w = some sync → (a.tag = 0 ∨ a.tag = 1) →
      s.cw.mode ≠ .recompute →
      enters s (.cpygath f) f.f3.toNat none (queued s f.f3.toNat (.gather ld (a.tag ++ a.val) row cnt li) sync))) ∧
  (∀ (s : State) (i : Instr) (f : XF) (red : Bool), (i = .collared f ∧ red = true) ∨ (i = .collbc f ∧ red = false) →
    let sb := f.sb.toNat
    sReady s [f.d.toNat, f.sa.toNat, sb, sb + 1, sb + 2, sb + 3] = true →
    let d := s.sreg f.d.toNat
    let g := (s.sreg f.sa.toNat).val.toNat
    let n := (s.sreg sb).val.toNat
    let w := s.sreg (sb + 1)
    let p := (s.sreg (sb + 2)).val
    let st := s.sreg (sb + 3)
    (2 ^ 24 < n → exec i s = .next (s.takeTrap ⟨0x01, 0, 0, false⟩)) ∧
    (∀ size me v, n ≤ 2 ^ 24 →
      (if red then p.toNat < 8 ∧ p.toNat % 4 ≠ 3 else p.toNat < 256 ∧ p.toNat < size) → s.cv.groupOf g = some (size, me) →
      misaligned [(d.val, d.tag, 4), ((s.sreg sb).val, 0, 128), (st.val, st.tag, 8), (w.val, 0, 8)] = some v →
      exec i s = .next (s.takeTrap ⟨0x02, v, 0, false⟩)) ∧
    (∀ size me ld ls sync, n ≤ 2 ^ 24 →
      (if red then p.toNat < 8 ∧ p.toNat % 4 ≠ 3 else p.toNat < 256 ∧ p.toNat < size) → s.cv.groupOf g = some (size, me) →
      d.val.toNat % 4 = 0 → n % 128 = 0 → st.val.toNat % 8 = 0 → w.val.toNat % 8 = 0 → syncOf s w = some sync → d.tag = 0 →
      globalRange s d n .rw = some ld → globalRange s st 8 .rw = some ls →
      0 < n → s.cw.mode ≠ .recompute →
      enters s i f.f3.toNat (watchedAt s [(d, n), (st, 8)])
        (queued s f.f3.toNat (.coll red g n p ld ls) sync (s.cv.groups.getD g 0).toNat))) ∧
  (∀ (s : State) (f : XF), 60 < f.sb.toNat →
    sReady s ([f.d.toNat, f.sa.toNat] ++ ((List.range 4).map (f.sb.toNat + ·)).filter (· < 64)) = true →
    exec (.cpyrk f) s = .next (s.takeTrap ⟨0x01, 0, 0, false⟩)) ∧
  (∀ (s : State) (f : XF), let sb := f.sb.toNat
    sb ≤ 60 → sReady s [f.d.toNat, f.sa.toNat, sb, sb + 1, sb + 2, sb + 3] = true →
    let d := s.sreg f.d.toNat
    let x := s.sreg f.sa.toNat
    let p := (s.sreg sb).val.toNat
    let n := (s.sreg (sb + 1)).val.toNat
    let w := s.sreg (sb + 2)
    let sel := (s.sreg (sb + 3)).val.toNat
    ((4096 < n ∨ 1 < sel) → exec (.cpyrk f) s = .next (s.takeTrap ⟨0x01, 0, 0, false⟩)) ∧
    (∀ k r ld sync, n ≤ 4096 → sel ≤ 1 → s.rkArg x true true = .ok ⟨k, field x.val.toNat 16 8, field x.val.toNat 24 8, r⟩ →
      d.val.toNat % 4 = 0 → w.val.toNat % 8 = 0 → localRange s d.val.toNat (n * r.vb) = some ld →
      syncOf s w = some sync → p + n ≤ r.next → 0 < n → s.cw.mode ≠ .recompute →
      enters s (.cpyrk f) f.f3.toNat none (queued s f.f3.toNat (.rink k (field x.val.toNat 16 8) (field x.val.toNat 24 8) p n
        (sel == 1) ld) sync)) ∧
    (∀ k r v, n ≤ 4096 → sel ≤ 1 → s.rkArg x true true = .ok ⟨k, field x.val.toNat 16 8, field x.val.toNat 24 8, r⟩ →
      misaligned [(d.val, 0, 4), (w.val, 0, 8)] = some v → exec (.cpyrk f) s = .next (s.takeTrap ⟨0x02, v, 0, false⟩)))

/-- R243: CQFENCE with nothing before it in its queues is over at once; with an earlier command in one of them its marker stands,
and no later command of a covered queue starts, until the last earlier command has landed. -/
def Sys2Proof.Claims.QueueFences : Prop :=
  (∀ (s : State) (all : BitVec 1) (n : BitVec 3), s.cw.mode ≠ .recompute → s.flight = [] →
    exec (.cqfence all n) s = .next ({ s.commitMark with seq := s.seq + 1 }).done) ∧
  (∀ (s : State) (all : BitVec 1) (n : BitVec 3) (o : Op) (q : Nat) (dst src : List Place) (b : Nat) (y : Option Place),
    s.cw.mode ≠ .recompute → s.flight = [o] → o.core = s.cw.coreNo → o.id < s.seq →
    o.kind = .copy q (.linear dst src b) y false [] 0 → (all = 1 ∨ q = n.toNat) →
    ∃ t m, exec (.cqfence all n) s = .next t ∧ t.flight = [o, m] ∧ m.kind = .copy n.toNat (.marker (all == 1)) none false [] 0) ∧
  (∀ (s : State) (o m x : Op) (q p r : Nat) (all : Bool) (k : CopyKind) (y : Option Place), inFlight s o →
    o.kind = .copy q k y false [] 0 → m ∈ s.flight → m.core = o.core → m.id < o.id →
    m.kind = .copy p (.marker all) none false [] 0 → (all = true ∨ p = q) →
    x ∈ s.flight → isCopyOf x o.core r → x.id < m.id → (all = true ∨ p = r) →
    exec (.copyCommandStart o.id) s = .next s) ∧
  (∀ (s : State) (o m : Op) (q p a n : Nat) (all : Bool) (src : List Place) (data : List (Byte × Bool)), sole s o → m ∈ s.flight →
    o.kind = .copy q (.linear [.direct ⟨.sram, 4 * a⟩] src n) none true data 0 → data.length = 4 →
    s.laterThan o q [.direct ⟨.sram, 4 * a⟩] = false →
    m.core = o.core → o.id < m.id → m.kind = .copy p (.marker all) none false [] 0 →
    ∃ t, exec (.copyPartLand o.id) s = .next t ∧ t.op? o.id = none ∧
      (t.op? m.id = some m ∨ t.op? m.id = none) ∧
      (t.op? m.id = some m ↔ ∃ x ∈ s.flight, x.id ≠ o.id ∧ x.id < m.id ∧ ∃ r, isCopyOf x o.core r ∧ (all = true ∨ p = r)))

/-- R240-R242, R337: a command at its queue's head reads its source; a 32-byte sector whose words lie in local memory is written,
and the last of a part adds the part's bytes to the sync word and ends the command with its last part. -/
def Sys2Proof.Claims.CopyEvents : Prop :=
  (∀ (s : State) (o : Op) (q n : Nat) (dst : List Place) (src : List Loc) (y : Option Place), inFlight s o →
    o.kind = .copy q (.linear dst (src.map .direct) n) y false [] 0 → s.copyTurn o q = true →
    (∀ l ∈ src, l.sp = .sram) → (∀ p ∈ dst, ∃ l, p = .direct l) →
    ∃ t, exec (.copyCommandStart o.id) s = .next t ∧ t.mem = s.mem ∧
      t.op? o.id = some { o with kind := .copy q (.linear dst (src.map .direct) n) y true (src.flatMap fun l => s.raws l 4) 0 }) ∧
  (∀ (s : State) (o : Op) (q n m k a w : Nat) (src : List Place) (data : List (Byte × Bool)), inFlight s o → s.canon →
    o.kind = .copy q (.linear ((List.range m).map fun i => .direct ⟨.sram, a + 4 * i⟩) src n) (some (.direct ⟨.sram, w⟩)) true data 0 →
    0 < k → k ≤ m → a % 4 = 0 → a % 4096 + 4 * m ≤ 4096 → data.length = 4 * k → (w + 8 ≤ a ∨ a + 4 * m ≤ w) →
    a + 4 * m < 2 ^ 64 → w + 8 < 2 ^ 64 → (∀ p ∈ s.flight, p.core = o.core → p.id < o.id → ∀ x c y b d l, p.kind ≠ .copy x c y b d l) →
    let z := a + 4 * (m - k)
    let c : CopyKind := .linear ((List.range m).map fun i => .direct ⟨.sram, a + 4 * i⟩) src n
    let j := min (4 * k) (32 - z % 32)
    let v := word s ⟨.sram, w⟩
    let sum := (v.extractLsb' 0 28).toNat + 4 * m
    ∃ t, exec (.copyPartLand o.id) s = .next t ∧ (∀ i, i < j → t.raw ⟨.sram, z + i⟩ = data.getD i (0, false)) ∧
      (4 * k ≤ j → t.op? o.id = none ∧
        word t ⟨.sram, w⟩ = (if (v.extractLsb' 28 28).toNat < sum then 1#1 ++ v.extractLsb' 0 63
          else v.extractLsb' 28 36 ++ BitVec.ofNat 28 sum)) ∧
      (j < 4 * k → word t ⟨.sram, w⟩ = v ∧ 
        t.op? o.id = some { o with kind := .copy q c (some (.direct ⟨.sram, w⟩)) true (data.drop j) 0 }))

/-- R245, R247, R248: a collective leaves its queue when it starts, after those of its group that were issued before it; the
members' buffers combine around the ring, element by element, in the order of the ring from the member after the chunk's own,
and the buffer takes the result; a broadcast takes the root's; the status word says whether the members agree on the operation,
the group, the size and the parameter. The group is that of its table entry as the command was issued, whatever is written there
since. -/
def Sys2Proof.Claims.Collectives : Prop :=
  (∀ (s : State) (o : Op) (q g n : Nat) (red : Bool) (p : DWord) (buf st : List Place) (y : Option Place), inFlight s o →
    o.kind = .copy q (.coll red g n p buf st) y false [] 0 → s.copyTurn o q = true →
    (s.colls.filter fun c => c.vd == (s.gang o.gang).vd).length < 64 →
    (∀ x ∈ s.flight, x.id < o.id → (s.gang x.gang).vd = (s.gang o.gang).vd → ∀ k r b w l m z d i,
      x.kind ≠ .copy k (.coll r g b w l m) z false d i) →
    ∃ t, exec (.copyCommandStart o.id) s = .next t ∧
      t.colls = s.colls ++ [⟨o.id, (s.gang o.gang).vd, g, s.ringDown (s.gang o.gang).vd o.entry⟩] ∧ t.mem = s.mem ∧
      t.op? o.id = some { o with kind := .copy q (.coll red g n p buf st) y true [] 0 }) ∧
  (∀ (s : State) (o x : Op) (q k g n m i : Nat) (red r : Bool) (p w : DWord) (buf st b c : List Place) (y z : Option Place)
      (d : List (Byte × Bool)), inFlight s o →
    o.kind = .copy q (.coll red g n p buf st) y false [] 0 → x ∈ s.flight → x.id < o.id →
    (s.gang x.gang).vd = (s.gang o.gang).vd → x.kind = .copy k (.coll r g m w b c) z false d i →
    exec (.copyCommandStart o.id) s = .next s) ∧
  (∀ (p n bytes : Nat) (ms : List (Nat × List Byte)) (own b : List Byte), (p, b) ∈ ms → (ms.map (·.1)).Nodup →
    collResult false p n bytes ms own = b) ∧
  (∀ (p x y : Nat), p < 8 → p % 4 ≠ 3 → x < 2 ^ (if p % 4 = 1 then 16 else 32) → y < 2 ^ (if p % 4 = 1 then 16 else 32) →
    natOf (collOp p (bytesOf (collWidth p) x) (bytesOf (collWidth p) y)) = stepVal p x y) ∧
  (∀ (p n bytes i : Nat) (ms : List (Nat × List Byte)) (own : List Byte), p < 8 → p % 4 ≠ 3 → 0 < n → bytes % 128 = 0 →
    (ms.map (·.1)).Nodup → (∀ j < n, ∃ m ∈ ms, m.1 = j) → (∀ m ∈ ms, m.2.length = bytes) → i < bytes / collWidth p →
    let c := i * collWidth p / chunkBytes bytes n
    natOf (((collResult true p n bytes ms own).drop (i * collWidth p)).take (collWidth p)) =
      match ringOrder n c (collWidth p) i ms with
      | x :: r => r.foldl (stepVal p) x
      | [] => 0) ∧
  (∀ (s : State) (o : Op) (q g size me : Nat) (red : Bool) (p : DWord) (b l : Loc) (members : List CollMember),
    let buf := (List.range 32).map fun i => .homed (b.plus (4 * i)) false
    let status : List Place := [.homed l false, .homed (l.plus 4) false]
    inFlight s o → s.canon → o.kind = .copy q (.coll red g 128 p buf status) none true [] 0 →
    o.entry / 2 % 16 + 1 = size → o.entry / 32 % 16 = me → me < size → s.moves = [] →
    b.sp = .phys → b.a % 128 = 0 → b.a < 2 ^ 54 → l.sp = .phys → l.a % 8 = 0 → l.a < 2 ^ 54 → l.line ≠ b →
    s.colls.find? (fun c => c.vd == (s.gang o.gang).vd && c.group == g) = some ⟨o.id, (s.gang o.gang).vd, g, false⟩ →
    members.length + 1 = size → (red = true → p.toNat < 8 ∧ p.toNat % 4 ≠ 3) →
    (∀ m ∈ members, m.gone = false ∧ m.isRed = red ∧ m.group = g ∧ m.bytes = 128 ∧ m.param = p ∧ m.data.length = 128) →
    s.laterThan o q (buf ++ status) = false → (∀ r ∈ buf ++ status, s.writable engineCore r = true) →
    ∃ t, exec (.collectiveComplete o.id members) s = .next t ∧
      (t.homeBytes b 128).map (·.1) = collResult red p.toNat size 128
        ((me, (s.homeBytes b 128).map (·.1)) :: (List.range members.length).map fun j =>
          (if j < me then j else j + 1, (members.getD j default).data))
        ((s.homeBytes b 128).map (·.1))) ∧
  (∀ (s : State) (o : Op) (q g n size : Nat) (red : Bool) (p : DWord) (buf : List Place) (l : Loc) (members : List CollMember),
    inFlight s o → s.canon →
    o.kind = .copy q (.coll red g n p buf [.homed l false, .homed (l.plus 4) false]) none true [] 0 →
    o.entry / 2 % 16 + 1 = size → l.sp = .phys → l.a % 8 = 0 → l.a < 2 ^ 54 → s.moves = [] →
    s.colls.find? (fun c => c.vd == (s.gang o.gang).vd && c.group == g) = some ⟨o.id, (s.gang o.gang).vd, g, false⟩ →
    members.length + 1 = size → (∀ m ∈ members, m.gone = false) →
    s.laterThan o q (buf ++ [.homed l false, .homed (l.plus 4) false]) = false →
    (∀ r ∈ buf ++ [.homed l false, .homed (l.plus 4) false], s.writable engineCore r = true) →
    ∃ t, exec (.collectiveComplete o.id members) s = .next t ∧ t.op? o.id = none ∧
      (t.colls = s.colls.filter fun c => c.op != o.id) ∧
      natOf ((t.homeBytes l 8).map (·.1)) =
        (if ∀ m ∈ members, m.isRed = red ∧ m.group = g ∧ m.bytes = n ∧ m.param = p then 0 else 2))

/-- R249-R252: RDEP names a wave of the gang and one of its registers, which becomes EMPTY, and its deposit flies; a
target that is not there raises ILL; a deposit that arrives writes its lanes, wakes the register and counts on the
arrival counter; one that finds no wave sets the sender's STAT.QERR and still counts. -/
def Sys2Proof.Claims.Deposits : Prop :=
  (∀ (s : State) (n : BitVec 2) (a d : BitVec 6), sReady s [a.toNat] = true → vOk s d.toNat = true → d.toNat < 56 →
    (s.vreg d.toNat).empty = false →
    let v := sv s a
    let r := (v.extractLsb' 0 6).toNat
    let wg := s.cg.wgs.getD (v.extractLsb' 12 2).toNat {}
    let t := wg.waves.getD (v.extractLsb' 8 4).toNat 0
    let good := (s.sreg a.toNat).tag = 0 ∧ v.extractLsb' 14 50 = 0 ∧ v.extractLsb' 6 2 = 0 ∧ r < 56 ∧
      (v.extractLsb' 12 2).toNat < s.cg.wgs.length ∧ (v.extractLsb' 8 4).toNat < wg.waves.length
    (¬good → exec (.rdep n a d) s = .next (s.takeTrap ⟨0x01, 0, 0, false⟩)) ∧
    (good → (s.vreg d.toNat).poison &&& s.exm = 0 → s.cw.mode ≠ .recompute →
      (s.flight.filter fun o => o.wave == s.cur.wave && match o.kind with | .deposit .. => true | _ => false).length < 4 →
      exec (.rdep n a d) s = .next (((if (s.wave t).mode ≠ .ended ∧ (r < 40 ∨ (s.wave t).held = true)
        then s.commitMark.modWave t fun w => { w with v := w.v.modify r fun y => { y with empty := true } }
        else s.commitMark).launchOp none (.deposit t r n.toNat s.exm ((List.range 32).map (s.vreg d.toNat).lane))).done))) ∧
  (∀ (s : State) (o : Op) (t r n : Nat) (lanes : Word) (vals : List Word), inFlight s o →
    o.kind = .deposit t r n lanes vals → t < s.waves.length → r < (s.wave t).v.length → (s.wave t).ac.length = 4 → n < 4 →
    (∀ p ∈ s.flight, p.precedes o = true → p.isAccess = false) → s.dstTurn o = true →
    ((s.wave t).mode ≠ .ended → (r < 40 ∨ (s.wave t).held = true) →
      ∃ u, exec (.depositDelivery o.id) s = .next u ∧ gone s u o ∧ u.mem = s.mem ∧
        (u.wave t).ac.getD n 0 = (s.wave t).ac.getD n 0 + 1 ∧
        (∀ l, l < 32 → ((u.wave t).v.getD r {}).lane l =
          if lanes.getLsbD l then vals.getD l 0 else ((s.wave t).v.getD r {}).lane l) ∧
        ∀ q, q ≠ r → (u.wave t).v.getD q {} = (s.wave t).v.getD q {}) ∧
    ((s.wave t).mode = .ended → o.wave < s.waves.length →
      ∃ u, exec (.depositDelivery o.id) s = .next u ∧ gone s u o ∧ u.mem = s.mem ∧ (u.wave o.wave).stat.getLsbD 2 = true ∧
        (u.wave t).v = (s.wave t).v ∧ (u.wave t).ac.getD n 0 = (s.wave t).ac.getD n 0 + 1))

namespace Sys2Proof.Claims

/-! ## The rink -/

/-- A rink operand (R278): handle, layer, head and what the handle names; ILL for a bit above 31, RKSTATE for a handle
that names no rink or for a listed layer or head out of range. -/
def rinkOf (s : State) (x : SReg) (useLayer useHead : Bool) : Except Byte (Nat × Nat × Nat × Rink) :=
  let h := (x.val.extractLsb' 0 16).toNat
  let l := (x.val.extractLsb' 16 8).toNat
  let hd := (x.val.extractLsb' 24 8).toNat
  if x.tag ≠ 0 ∨ x.val.extractLsb' 32 32 ≠ 0 then .error 0x01
  else match s.cv.rinks.find? fun p => p.1 == h with
    | none => .error 0x18
    | some (_, r) =>
      if h = 0 ∨ (useLayer = true ∧ r.nlayers ≤ l) ∨ (useHead = true ∧ r.nheads ≤ hd) then .error 0x18 else .ok (h, l, hd, r)

/-- How each instruction but RKLD and RKST uses its operand: its scalars, and which fields it lists. -/
def rinkUse : Instr → Option (BitVec 6 × BitVec 6 × List Nat × Bool)
  | .rkalloc f => some (f.d, f.sa, [f.sb.toNat], false)
  | .rkpub f => some (f.d, f.sa, [f.sb.toNat, f.sb.toNat + 1], true)
  | .rkacq f => some (f.d, f.sa, [f.sb.toNat], true)
  | .rksnap f => some (f.d, f.sa, [f.sb.toNat], true)
  | .rkvoid f => some (f.d, f.sa, [f.sb.toNat, f.sb.toNat + 1], false)
  | .rkpage f => some (f.d, f.sa, [f.sb.toNat, f.sb.toNat + 1], true)
  | _ => none

/-- The scalar operand of each is one that it accepts. -/
def rinkScalar (s : State) : Instr → Prop
  | .rkalloc f => (sv s f.sb).toNat ≤ 65536
  | .rkacq f => (sv s f.sb).toNat ≤ 2 ^ 24
  | .rksnap f => (sv s f.sb).toNat < 2 ^ 24 ∧ (sv s f.sb).toNat % 64 = 0
  | _ => True

/-- A scalar result that comes later: sd is EMPTY, its value in flight, counted in RK (R282, R340). -/
def comes (s : State) (sd : BitVec 6) (v : DWord) (ord : Order) : State :=
  (s.modS sd.toNat fun x => { x with st := .empty }).launchOp (some 6) (.svalue (destS s sd) [{ val := v }]) ord 7

/-- Bit p of a position map. -/
def has (m p : Nat) : Prop := m.testBit p = true

/-- The map with the bits of [a, b) set (R277). -/
def withRange (m m' a b : Nat) : Prop := ∀ p, has m' p ↔ has m p ∨ (a ≤ p ∧ p < b)

/-- F is the frontier of a layer's publish map: the least position that is not published (R277). -/
def isFrontier (m F : Nat) : Prop := ¬has m F ∧ ∀ p, p < F → has m p

/-- The page of a position at a layer. -/
def pageOf (r : Rink) (l p : Nat) : Option Nat := r.page l (p / 2 ^ r.ppplog)

/-- Position and word index of a lane of RKLD and RKST (R279). -/
def posOf (w : Word) : Nat := (w.extractLsb' 0 24).toNat
def wordOf (w : Word) : Nat := (w.extractLsb' 24 8).toNat

/-- VB ÷ 4 (R274). -/
def rkWords (r : Rink) : Nat := (if r.fmt = 2 then r.hdim + 4 * ((r.hdim + 63) / 64) else 2 * r.hdim) / 4

/-- The bytes a store leaves in word j: the pad bytes of an e4m3 vector with an odd number of scales, the last two, stay
0 (R274). -/
def stored (r : Rink) (j : Nat) (w : Word) : List Byte :=
  let b (k : Nat) : Byte := w.extractLsb' (8 * k) 8
  if r.fmt = 2 ∧ r.hdim % 64 = 32 ∧ j = rkWords r - 1 then [b 0, b 1, 0, 0] else [b 0, b 1, b 2, b 3]

/-- The workgroup that runs. -/
def whoRuns (s : State) : Nat × Nat := (s.cw.gang, s.cw.wg)

/-- What an access at a rink keeps: K or V, the lane's word and the operand (log 82). -/
def rkKeeps (s : State) (sa : BitVec 6) (v : Bool) (w : Word) : Addr :=
  (if v then 0x81#8 else 0x80#8) ++ (w ++ (sv s sa).setWidth 32)

/-- The accesses of an RKLD's lanes: the word of each, a place that reads 0 for a void position or a missing page. -/
def rkLoads (s : State) (sa : BitVec 6) (r : Rink) (l hd : Nat) (v : Bool) (a : VReg) (ls : List Nat) : List Acc :=
  ls.map fun i => { lane := i, size := 4, va := rkKeeps s sa v (a.lane i)
                    place := r.wordPlace (whoRuns s) l hd v (posOf (a.lane i)) (wordOf (a.lane i)) }

/-- The accesses of an RKST's lanes: the word of each, in its page and in the old one that the workgroup still reads (R272). -/
def rkStores (s : State) (sa : BitVec 6) (r : Rink) (l hd : Nat) (v : Bool) (a dat : VReg) (ls : List Nat) : List Acc :=
  ls.flatMap fun i => (r.storePlaces (whoRuns s) l hd v (posOf (a.lane i)) (wordOf (a.lane i))).map fun p =>
    { lane := i, size := 4, va := rkKeeps s sa v (a.lane i), data := stored r (wordOf (a.lane i)) (dat.lane i), place := p }

end Sys2Proof.Claims

/-- R278, R279: a rink operand that does not pass raises ILL, or RKSTATE with the operand in TRAPA, and nothing else
happens. -/
def Sys2Proof.Claims.RinkChecks : Prop :=
  ∀ (s : State) (i : Instr) (d a : BitVec 6) (bs : List Nat) (layer : Bool) (c : Byte),
    rinkUse i = some (d, a, bs, layer) → rinkScalar s i → sOk s d.toNat = true → sReady s (a.toNat :: bs) = true →
    rinkOf s (s.sreg a.toNat) layer false = .error c →
    exec i s = .next (s.takeTrap ⟨c, if c = 1 then 0 else (sv s a).setWidth 72, 0, false⟩)

/-- R279, R281: RKLD issues a load of one word a lane, 0 for a void position or a missing page; a lane at or above NEXT or
VB ÷ 4 raises RKSTATE with its position. An operand that does not pass raises its cause where some lane is active. -/
def Sys2Proof.Claims.RinkLoads : Prop :=
  ∀ (s : State) (i : Instr) (f : ME) (v : Bool), (i = .rkldK f ∧ v = false) ∨ (i = .rkldV f ∧ v = true) →
    sReady s [f.sa.toNat] = true → [f.va.toNat, f.vd.toNat].all (vOk s) = true → srcsOk s [f.va.toNat] [] = true →
    dstOk s f.vd.toNat = true → clean (valsOf s [f.va.toNat] []) (s.active f.kp) = true →
    (∀ c, rinkOf s (s.sreg f.sa.toNat) true true = .error c →
      (∀ n ns, lanesOf (s.active f.kp) = n :: ns → exec i s = .next (s.takeTrap ⟨c, if c = 1 then 0 else
        BitVec.ofNat 72 ((sv s f.sa).toNat + 2 ^ 32 * posOf ((valOf s 0 f.va.toNat).lane n)),
        if c = 1 then 0 else s.active f.kp, false⟩)) ∧
      (s.active f.kp = 0 → classRoom s 6 = true → exec i s = .next (pendV (popAll s [f.va.toNat]) f.vd.toNat (some 6)
        (.load [] (destV s f.vd.toNat 1) .word s.hint)).done)) ∧
    ∀ h l hd r, rinkOf s (s.sreg f.sa.toNat) true true = .ok (h, l, hd, r) →
      let a := valOf s 0 f.va.toNat
      let act := lanesOf (s.active f.kp)
      let bad := act.filter fun n => decide (r.next ≤ posOf (a.lane n)) || decide (rkWords r ≤ wordOf (a.lane n))
      (bad ≠ [] → exec i s = .next (s.takeTrap ⟨0x18, BitVec.ofNat 72 ((sv s f.sa).toNat + 2 ^ 32 * posOf (a.lane (bad.headD 0))),
        mask32 bad.contains, false⟩)) ∧
      (bad = [] → classRoom s 6 = true → exec i s = .next (pendV (popAll s [f.va.toNat]) f.vd.toNat (some 6)
        (.load (rkLoads s f.sa r l hd v a act) (destV s f.vd.toNat 1) .word s.hint)).done)

/-- R275, R279, R280: RKST refuses lanes at or above NEXT or VB ÷ 4 and published lanes that are not void; it raises
KVDRY when the pool lacks a page that a lane needs and speculation does not excuse; else the missing pages are taken,
the lanes that have a page are stored, pad bytes as 0 (R274), and STAT.DRY tells of those that have none. That nothing in flight
from the host holds the pages up (R382) is a premise. -/
def Sys2Proof.Claims.RinkStores : Prop :=
  ∀ (s : State) (i : Instr) (f : ME) (v : Bool), (i = .rkstK f ∧ v = false) ∨ (i = .rkstV f ∧ v = true) →
    sReady s [f.sa.toNat] = true → [f.va.toNat, f.vd.toNat].all (vOk s) = true →
    srcsOk s [f.va.toNat, f.vd.toNat] [] = true → clean (valsOf s [f.va.toNat, f.vd.toNat] []) (s.active f.kp) = true →
    (s.active f.kp = 0 → s.cw.mode ≠ .recompute → exec i s = .next (popAll s [f.va.toNat, f.vd.toNat]).commitMark.done) ∧
    ∀ h l hd r, rinkOf s (s.sreg f.sa.toNat) true true = .ok (h, l, hd, r) →
      let a := valOf s 0 f.va.toNat
      let dat := valOf s ([f.va.toNat].count f.vd.toNat) f.vd.toNat
      let act := lanesOf (s.active f.kp)
      let off := act.filter fun n => decide (r.next ≤ posOf (a.lane n)) || decide (rkWords r ≤ wordOf (a.lane n))
      let bad := if off = [] then act.filter fun n =>
          (r.pub.getD l 0).testBit (posOf (a.lane n)) && !r.void.testBit (posOf (a.lane n)) else off
      let lanes := act.filter fun n => !r.void.testBit (posOf (a.lane n))
      let hard := lanes.filter fun n => !r.spec.testBit (posOf (a.lane n)) && (pageOf r l (posOf (a.lane n))).isNone
      let pages := (hard.map fun n => posOf (a.lane n) / 2 ^ r.ppplog).eraseDups
      (bad ≠ [] → exec i s = .next (s.takeTrap ⟨0x18, BitVec.ofNat 72 ((sv s f.sa).toNat + 2 ^ 32 * posOf (a.lane (bad.headD 0))),
        mask32 bad.contains, false⟩)) ∧
      (bad = [] → classRoom s 6 = true → s.cv.pool.length < pages.length →
        exec i s = .next (s.takeTrap ⟨0x0D, BitVec.ofNat 72 ((sv s f.sa).toNat + 2 ^ 32 * posOf (a.lane (hard.headD 0))),
          mask32 hard.contains, false⟩)) ∧
      (bad = [] → classRoom s 6 = true → pages.length ≤ s.cv.pool.length → s.cw.mode ≠ .recompute →
        (∀ pg ∈ s.cv.pool, s.pageFree pg = true) →
        s.cur.wave < s.waves.length → s.cw.gang < s.gangs.length →
        ∃ t r', exec i s = .next t ∧ t.cv.rink h = some r' ∧
          r' = { r with pages := r'.pages } ∧
          (∀ l' p pg, pageOf r l' p = some pg → pageOf r' l' p = some pg) ∧
          (∀ n ∈ hard, ∃ pg ∈ s.cv.pool, pageOf r' l (posOf (a.lane n)) = some pg) ∧
          let kept := lanes.filter fun n => (pageOf r' l (posOf (a.lane n))).isSome
          (t.cw.stat = if kept.length < lanes.length then s.cw.stat ||| 1 else s.cw.stat) ∧
          (t.flight.map (·.kind) = s.flight.map (·.kind) ++
            (if kept = [] then [] else [.store (rkStores s f.sa r' l hd v a dat kept)])))

/-- R277, R282: RKALLOC gives the next n positions, or all ones past MAXPOS; a count above 65,536 raises ILL. R284:
RKACQ's answer waits for the frontier; a position above 2^24 raises ILL. -/
def Sys2Proof.Claims.RinkAllocates : Prop :=
  (∀ (s : State) (f : XG), sOk s f.d.toNat = true → sReady s [f.sa.toNat, f.sb.toNat] = true → 65536 < (sv s f.sb).toNat →
    exec (.rkalloc f) s = .next (s.takeTrap ⟨0x01, 0, 0, false⟩)) ∧
  (∀ (s : State) (f : XG) (h l hd : Nat) (r : Rink), sOk s f.d.toNat = true → sReady s [f.sa.toNat, f.sb.toNat] = true →
    (sv s f.sb).toNat ≤ 65536 → rinkOf s (s.sreg f.sa.toNat) false false = .ok (h, l, hd, r) → classRoom s 6 = true →
    s.cw.mode ≠ .recompute →
    let n := (sv s f.sb).toNat
    (r.maxpos < r.next + n → exec (.rkalloc f) s = .next (comes s.commitMark f.d (0xFFFFFFFFFFFFFFFF) .acq).done) ∧
    (r.next + n ≤ r.maxpos → ∃ m, withRange r.spec m r.next (if f.g = 1 then r.next + n else r.next) ∧
      exec (.rkalloc f) s = .next
        (comes (s.commitMark.setRink s.cg.vd h { r with next := r.next + n, spec := m }) f.d (BitVec.ofNat 64 r.next) .acq).done)) ∧
  (∀ (s : State) (f : X3), sOk s f.d.toNat = true → sReady s [f.sa.toNat, f.sb.toNat] = true →
    (2 ^ 24 < (sv s f.sb).toNat → exec (.rkacq f) s = .next (s.takeTrap ⟨0x01, 0, 0, false⟩)) ∧
    (∀ h l hd r F, (sv s f.sb).toNat ≤ 2 ^ 24 → rinkOf s (s.sreg f.sa.toNat) true false = .ok (h, l, hd, r) →
      classRoom s 6 = true → s.flight = [] → isFrontier (r.pub.getD l 0) F →
      ∃ t o, exec (.rkacq f) s = .next t ∧ t.flight = [o] ∧ o.ord = .acq ∧ o.cls = some 6 ∧ t.mem = s.mem ∧ t.vds = s.vds ∧
        o.kind = if (sv s f.sb).toNat ≤ F then .svalue (destS s f.d) [{ val := BitVec.ofNat 64 F }]
          else .rkacq s.cg.vd h l (sv s f.sb).toNat (destS s f.d)))

/-- R283, R284: RKPUB sets the bits of [a, b), returns the frontier, and answers the acquires that its frontier reaches and that
come after no acquire of their fragment still waiting;
it waits for the fragment's accesses, and raises RKSTATE for a range that is not one or passes NEXT. -/
def Sys2Proof.Claims.RinkPublishes : Prop :=
  ∀ (s : State) (f : X3) (h l hd : Nat) (r : Rink), let sb := f.sb.toNat
    sOk s f.d.toNat = true → sReady s [f.sa.toNat, sb, sb + 1] = true →
    rinkOf s (s.sreg f.sa.toNat) true false = .ok (h, l, hd, r) →
    let a := (s.sreg sb).val.toNat
    let b := (s.sreg (sb + 1)).val.toNat
    (b < a ∨ r.next < b → exec (.rkpub f) s = .next (s.takeTrap ⟨0x18, (sv s f.sa).setWidth 72, 0, false⟩)) ∧
    (a ≤ b → b ≤ r.next → s.settled = false → exec (.rkpub f) s = .next (stalls s)) ∧
    (a ≤ b → b ≤ r.next → s.settled = true → s.cw.mode ≠ .recompute → l < r.pub.length →
      ∃ m F, withRange (r.pub.getD l 0) m a b ∧ isFrontier m F ∧
        exec (.rkpub f) s = .next (((s.commitMark.setRink s.cg.vd h { r with pub := r.pub.set l m }).rkWake).writeS
          f.d.toNat (BitVec.ofNat 64 F) 0).done ∧
        ∀ o ∈ s.flight, ∀ q dst, o.kind = .rkacq s.cg.vd h l q dst → q ≤ F → s.acquiring o = false →
          ∃ t, exec (.rkpub f) s = .next t ∧ { o with kind := .svalue dst [{ val := BitVec.ofNat 64 F }] } ∈ t.flight)

/-- R285, R292: RKSNAP's map is the 64 bits from its base, where nothing before it waits; RKINFO's selectors, PAGES among them
counting every page the rink holds; a selector above 6 and a base of 2^24 or
more raise ILL, a base that is no multiple of 64 ALIGN. -/
def Sys2Proof.Claims.RinkReads : Prop :=
  (∀ (s : State) (f : XG), sOk s f.d.toNat = true → sReady s [f.sa.toNat, f.sb.toNat] = true →
    let base := (sv s f.sb).toNat
    (2 ^ 24 ≤ base → exec (.rksnap f) s = .next (s.takeTrap ⟨0x01, 0, 0, false⟩)) ∧
    (base < 2 ^ 24 → base % 64 ≠ 0 →
      exec (.rksnap f) s = .next (s.takeTrap ⟨0x02, (s.sreg f.sb.toNat).tag ++ sv s f.sb, 0, false⟩)) ∧
    (∀ h l hd r, base < 2 ^ 24 → base % 64 = 0 → rinkOf s (s.sreg f.sa.toNat) true false = .ok (h, l, hd, r) →
      classRoom s 6 = true → (∀ o ∈ s.flight, o.id < s.seq ∧ s.rkAnswer o = o ∧ (o.wave = s.cur.wave → o.ord.acquires = false)) →
      ∃ m : DWord, (∀ n, n < 64 → m.getLsbD n = (if f.g = 1 then r.void else r.pub.getD l 0).testBit (base + n)) ∧
        exec (.rksnap f) s = .next (comes s f.d m (if f.g = 1 then .weak else .acq)).done)) ∧
  (∀ (s : State) (f : X3), sOk s f.d.toNat = true → sReady s [f.sa.toNat, f.sb.toNat] = true →
    (7 ≤ (sv s f.sb).toNat → exec (.rkinfo f) s = .next (s.takeTrap ⟨0x01, 0, 0, false⟩)) ∧
    (∀ h l hd r F, (sv s f.sb).toNat < 7 → classRoom s 6 = true → isFrontier (r.pub.getD l 0) F →
      rinkOf s (s.sreg f.sa.toNat) (sv s f.sb == 1) false = .ok (h, l, hd, r) →
      exec (.rkinfo f) s = .next (comes s f.d (BitVec.ofNat 64 (
        [r.next, F, s.cv.pool.length, r.desc.toNat, r.pages.length + r.kept.length + r.stale.length, r.maxpos,
          if r.fmt = 2 then r.hdim + 4 * ((r.hdim + 63) / 64) else 2 * r.hdim].getD (sv s f.sb).toNat 0)) .weak).done))

/-- R286, R287, R276: RKVOID sets VOID on [a, b), publishes it at every layer, and unlinks the pages whose whole range is
void: to the pool when nothing pins the rink's name, to the deferred list while its bucket has room, kept when not. -/
def Sys2Proof.Claims.RinkVoids : Prop :=
  ∀ (s : State) (f : X3) (h l hd : Nat) (r : Rink), let sb := f.sb.toNat
    sOk s f.d.toNat = true → sReady s [f.sa.toNat, sb, sb + 1] = true →
    rinkOf s (s.sreg f.sa.toNat) false false = .ok (h, l, hd, r) →
    let a := (s.sreg sb).val.toNat
    let b := (s.sreg (sb + 1)).val.toNat
    let d := s.cg.vd
    let name : DWord := BitVec.ofNat 64 (2 ^ 56 + h)
    ((b < a ∨ r.next < b ∨ ∃ p, a ≤ p ∧ p < b ∧ ¬has r.spec p) →
      exec (.rkvoid f) s = .next (s.takeTrap ⟨0x18, (sv s f.sa).setWidth 72, 0, false⟩)) ∧
    (a ≤ b → b ≤ r.next → (∀ p, a ≤ p → p < b → has r.spec p) → s.settled = true → s.cw.mode ≠ .recompute →
      s.cur.wave < s.waves.length → f.d ≠ 0 → (s.sreg f.d.toNat).st = .full → r.pages.Nodup → s.cw.handling = false →
      s.cur.frag < s.cw.frags.length → f.d.toNat < s.cf.s.length → r.stale = [] →
      ∃ t r' dead, exec (.rkvoid f) s = .next t ∧ t.cv.rink h = some r' ∧ withRange r.void r'.void a b ∧
        r'.next = r.next ∧ r'.spec = r.spec ∧ (∀ l, l < r.pub.length → withRange (r.pub.getD l 0) (r'.pub.getD l 0) a b) ∧
        (∀ e, e ∈ dead ↔ e ∈ r.pages ∧ ∀ p, p / 2 ^ r.ppplog = e.2.1 → has r'.void p) ∧ dead.Nodup ∧
        (s.pinned d name = false → (t.sreg f.d.toNat).val = (if dead = [] then 0 else 1) ∧
          t.cv.pool = s.cv.pool ++ dead.map (·.2.2) ∧ r'.pages = r.pages.filter fun e => !dead.contains e) ∧
        (s.pinned d name = true → dead ≠ [] →
          (s.cv.deferred.filter fun e => bucketOf e.name = bucketOf name).length + dead.length ≤ 16 →
          (t.sreg f.d.toNat).val = 2 ∧ t.cv.pool = s.cv.pool ∧
          (t.cv.deferred = s.cv.deferred ++ dead.map fun e => ⟨name, .pages [e.2.2]⟩) ∧
          r'.pages = r.pages.filter fun e => !dead.contains e) ∧
        (s.pinned d name = true → dead ≠ [] → 16 ≤ (s.cv.deferred.filter fun e => bucketOf e.name = bucketOf name).length →
          (t.sreg f.d.toNat).val = 3 ∧ t.cv.pool = s.cv.pool ∧ t.cv.deferred = s.cv.deferred ∧ r'.pages = r.pages))

/-- R275, R291: RKPAGE takes every missing page of its range, each all zeros, when the pool holds so many, and none when
not; it returns 0 or the count. It waits while a host request for one of the pages it would zero is in flight (R382). -/
def Sys2Proof.Claims.RinkPages : Prop :=
  ∀ (s : State) (f : XG) (h l hd : Nat) (r : Rink), let sb := f.sb.toNat
    sOk s f.d.toNat = true → sReady s [f.sa.toNat, sb, sb + 1] = true →
    rinkOf s (s.sreg f.sa.toNat) true false = .ok (h, l, hd, r) →
    let a := (s.sreg sb).val.toNat
    let b := (s.sreg (sb + 1)).val.toNat
    (b < a ∨ r.next < b → exec (.rkpage f) s = .next (s.takeTrap ⟨0x18, (sv s f.sa).setWidth 72, 0, false⟩)) ∧
    (a ≤ b → b ≤ r.next → s.cw.mode ≠ .recompute → ∃ miss : List (Nat × Nat), miss.Nodup ∧
      (∀ x, x ∈ miss ↔ (if f.g = 1 then x.1 < r.nlayers else x.1 = l) ∧
        (∃ p, a ≤ p ∧ p < b ∧ p / 2 ^ r.ppplog = x.2) ∧ r.page x.1 x.2 = none) ∧
      (s.cv.pool.length < miss.length →
        exec (.rkpage f) s = .next (s.commitMark.writeS f.d.toNat (BitVec.ofNat 64 miss.length) 0).done) ∧
      (miss.length ≤ s.cv.pool.length → (∃ pg ∈ s.cv.pool.take miss.length, s.pageFree pg = false) →
        exec (.rkpage f) s = .next (stalls s)) ∧
      (miss.length ≤ s.cv.pool.length → (∀ pg ∈ s.cv.pool, pg % 65536 = 0 ∧ s.pageFree pg = true) → ∃ t r', exec (.rkpage f) s = .next t ∧ t.cv.rink h = some r' ∧
        t.cv.pool = s.cv.pool.drop miss.length ∧
        (∀ x ∈ miss, ∃ pg ∈ s.cv.pool, r'.page x.1 x.2 = some pg ∧ ∀ j, j < 65536 → t.raw ⟨.phys, pg + j⟩ = (0, false)) ∧
        (∀ x, x ∉ miss → r'.page x.1 x.2 = r.page x.1 x.2) ∧ t.flight = s.flight))

namespace Sys2Proof.Claims

/-! ## Slalom -/

/-- The operands of each instruction but SLCFG: destination registers, tree, node index, and all the scalars read. -/
def slUse : Instr → Option (List Nat × BitVec 6 × Option (BitVec 6) × List Nat)
  | .sldesc a d => some ([d.toNat], a, none, [])
  | .slexp f => some ([f.d.toNat], f.sa, some f.sb, [f.sb.toNat, f.sb.toNat + 1, f.sb.toNat + 2])
  | .slback f => some ([f.d.toNat], f.sa, some f.sb, [f.sb.toNat, f.sb.toNat + 1])
  | .slpick f => some ([f.d.toNat], f.sa, some f.sb, [f.sb.toNat])
  | .slroot f => some ([f.d.toNat], f.sa, some f.sb, [f.sb.toNat])
  | .slprune f => some ([f.d.toNat], f.sa, some f.sb, [f.sb.toNat])
  | .slread f => some ((List.range 5).map (f.d.toNat + ·), f.sa, some f.sb, [f.sb.toNat])
  | .slnew f => some ([f.d.toNat], f.sa, none, [f.sb.toNat])
  | _ => none

/-- The other scalar operand is one that the instruction accepts, and the destinations are (R298, R303, R309, R310). -/
def slScalar (s : State) : Instr → Prop
  | .slback f => (s.sreg (f.sb.toNat + 1)).val.toNat < 2 ^ 32
  | .slnew f => (sv s f.sb).toNat < 2 ^ 32
  | .slread f => 1 ≤ f.d.toNat ∧ f.d.toNat ≤ 59
  | _ => True

/-- The tree operand names tree n, which exists. -/
def slTree (s : State) (a : BitVec 6) (n : Nat) (tr : Tree) : Prop :=
  (s.sreg a.toNat).tag = 0 ∧ (sv s a).toNat = n ∧ n < 256 ∧ s.cv.tree n = some tr

/-- The index operand names node i of the tree, which is allocated. -/
def slNode (s : State) (b : BitVec 6) (tr : Tree) (i : Nat) (x : Node) : Prop :=
  (sv s b).toNat = i ∧ i < 2 ^ 26 ∧ i < tr.cap ∧ tr.node? i = some x

/-- The unit has performed its step: the tree is as given, every other tree as it was, and the result is in flight,
counted in SL, with the PATH it brings, whose DEPTH counts unless the wave's is kept (R298-R300, R305). -/
structure SlDone (s t : State) (sd : BitVec 6) (vs : List DWord) (path : Option (BitVec 42)) (ord : Order) (n : Nat)
    (tr : Tree) (keep : Bool := false) : Prop where
  result : ∃ o, t.flight = s.flight ++ [o] ∧ o.wave = s.cur.wave ∧ o.cls = some 7 ∧ o.ord = ord ∧ o.path = path ∧
    o.keepDepth = keep ∧
    o.kind = .svalue (if sd = 0 ∧ vs.length = 1 then .none else .scl (if s.cw.handling then .trap else .wave) sd.toNat vs.length)
      (vs.map fun v => { val := v })
  tree : t.cv.tree n = some tr
  others : ∀ m, m ≠ n → t.cv.tree m = s.cv.tree m
  empty : ∀ r, (sd.toNat ≤ r ∧ r < sd.toNat + vs.length) ∨ t.sreg r = s.sreg r

/-- PATH (R98, R300). -/
def slPath (depth n leaf : Nat) : BitVec 42 := BitVec.ofNat 26 leaf ++ BitVec.ofNat 8 n ++ BitVec.ofNat 8 depth

/-- No node of the tree holds an uncorrectable error, and its indices are below CAP. -/
def soundTree (s : State) (tr : Tree) : Prop :=
  tr.cap ≤ 2 ^ 26 ∧ tr.root < tr.cap ∧ (∀ p ∈ tr.nodes, p.1 < tr.cap ∧ p.2.first + p.2.nch ≤ tr.cap) ∧
  ∀ i, i < tr.cap → s.nodeBad tr i = false

/-- Operations in flight are named by issue numbers below the next. -/
def idsBelow (s : State) : Prop := ∀ o ∈ s.flight, o.id < s.seq

/-- The state after an event has come k times, with nothing else between. -/
def times (f : State → Host.Outcome State Fault Refusal) : Nat → State → State
  | 0, s => s
  | k + 1, s => match f s with
    | .next t => times f k t
    | _ => s

/-- Node i; an index that names a free node has no children. -/
def Tree.at (t : Tree) (i : Nat) : Node := (t.node? i).getD {}

/-- y is a child of node x that a descent may take, as node ny. -/
def kidOf (t : Tree) (x : Node) (y : Nat) (ny : Node) : Prop :=
  x.first ≤ y ∧ y < x.first + x.nch ∧ t.node? y = some ny ∧ ny.cut = false

/-- f32 steps of R301. -/
def quot (a b : Word) : Word := rnd32 ((f32 a).div (f32 b))
def prod (a b : Word) : Word := rnd32 ((f32 a).mul (f32 b))
def sum2 (a b : Word) : Word := rnd32 ((f32 a).add (f32 b))
def nat32 (n : Nat) : Word := rnd32 (Num.ofInt n)

/-- U of a child (R301). -/
def ucbOf (t : Tree) (x y : Node) : Word :=
  let n := y.n.toNat + y.vl.toNat
  let q := if n = 0 then t.fpu else quot (rnd32 ((f32 y.w).add (f32 (prod (nat32 y.vl.toNat) t.vloss)).neg)) (nat32 n)
  let r := rnd32 (f32 (nat32 (x.n.toNat + x.vl.toNat))).sqrt
  sum2 q (quot (prod (prod t.c (y.p ++ (0 : BitVec 16))) r) (nat32 (1 + n)))

/-- The order of R79, NaN below every number. -/
def lower (a b : Word) : Prop :=
  (f32 a = .nan ∧ f32 b ≠ .nan) ∨ (f32 a ≠ .nan ∧ f32 b ≠ .nan ∧ Num.ordKey Num.f32 a.toNat < Num.ordKey Num.f32 b.toNat)

/-- The descent charges a virtual loss on node x (R300). -/
def charge (t : Tree) (x : Nat) : Tree :=
  t.modNode x fun n => { n with vl := if n.vl = 0xFFFF then 0xFFFF else n.vl + 1 }

/-- A descent of R300 from x at a depth: the tree it leaves, the leaf, its depth, dead. -/
inductive Descends : Tree → Nat → Nat → Tree → Nat → Nat → Bool → Prop
  | leaf (t : Tree) (x depth : Nat) : (Tree.at (charge t x) x).nch = 0 ∨ depth = 64 → Descends t x depth (charge t x) x depth false
  | dead (t : Tree) (x depth : Nat) : (Tree.at (charge t x) x).nch ≠ 0 → depth ≠ 64 →
      (∀ y ny, ¬kidOf (charge t x) (Tree.at (charge t x) x) y ny) → Descends t x depth (charge t x) x depth true
  | down (t : Tree) (x depth y : Nat) (ny : Node) (t' : Tree) (l d : Nat) (dd : Bool) :
      (Tree.at (charge t x) x).nch ≠ 0 → depth ≠ 64 → kidOf (charge t x) (Tree.at (charge t x) x) y ny →
      (∀ z nz, kidOf (charge t x) (Tree.at (charge t x) x) z nz → z ≠ y →
        let u := ucbOf (charge t x) (Tree.at (charge t x) x)
        lower (u nz) (u ny) ∨ (¬lower (u ny) (u nz) ∧ y < z)) →
      Descends (charge t x) y (depth + 1) t' l d dd → Descends t x depth t' l d dd

/-- A backup of R303 from x: the tree it leaves, the nodes it updated, whether one was pruned or unlinked. -/
inductive Backs (v : Word) : Tree → Nat → Tree → Nat → Bool → Prop
  | stop (t : Tree) (x : Nat) (n : Node) : t.node? x = some n → n.root = true ∨ n.parent = x →
      Backs v t x (t.modNode x fun n => { n with
        n := if n.n = 0xFFFFFFFF then n.n else n.n + 1
        w := sum2 n.w v
        vl := if n.vl = 0 then 0 else n.vl - 1 }) 1 (n.unlinked || n.cut)
  | up (t : Tree) (x : Nat) (n : Node) (t' : Tree) (k : Nat) (c : Bool) : t.node? x = some n → n.root = false → n.parent ≠ x →
      Backs v (t.modNode x fun n => { n with
        n := if n.n = 0xFFFFFFFF then n.n else n.n + 1
        w := sum2 n.w v
        vl := if n.vl = 0 then 0 else n.vl - 1 }) n.parent t' k c → Backs v t x t' (k + 1) (n.unlinked || n.cut || c)

/-- No walk but o is under way over tree m of its device. -/
def walksAlone (s : State) (o : Op) (m : Nat) : Prop :=
  ∀ p ∈ s.flight, p.id ≠ o.id → (s.gang p.gang).vd = (s.gang o.gang).vd → ∀ w e, p.kind ≠ .slalom m w e

/-- A backup's update of node x (R303). -/
def backed (t : Tree) (v : Word) (x : Nat) : Tree :=
  t.modNode x fun n => { n with
    n := if n.n = 0xFFFFFFFF then n.n else n.n + 1
    w := sum2 n.w v
    vl := if n.vl = 0 then 0 else n.vl - 1 }

/-- i is x or below it. -/
inductive InSubtree (t : Tree) (x : Nat) : Nat → Prop
  | self : InSubtree t x x
  | child (p i : Nat) (n : Node) : InSubtree t x p → t.node? p = some n → n.first ≤ i → i < n.first + n.nch → InSubtree t x i

/-- i is the lowest index at which n nodes in a row are free (R305). -/
def lowestRun (t : Tree) (n i : Nat) : Prop :=
  (∀ j, j < n → t.node? (i + j) = none) ∧ i + n ≤ t.cap ∧ ∀ k, k < i → ∃ j, j < n ∧ t.node? (k + j) ≠ none

def noRun (t : Tree) (n : Nat) : Prop := ∀ i, i + n ≤ t.cap → ∃ j, j < n ∧ t.node? (i + j) ≠ none

/-- The local bytes from an offset, n of them; none where one does not exist (R155). -/
def localBytes (s : State) (off n : Nat) : Option (List (Byte × Bool)) :=
  (localRange s off n).map fun ps => ps.flatMap fun p => match p with | .direct l => s.raws l 4 | _ => []

/-- A child as its record of 16 bytes makes it (R297, R305). -/
def childRec (leaf : Nat) (r : List Byte) : Node :=
  { parent := leaf
    token := BitVec.ofNat 32 (natOf (r.take 4))
    p := BitVec.ofNat 16 (natOf ((r.drop 4).take 2))
    user := BitVec.ofNat 64 (natOf (r.drop 8)) }

/-- A cut: what SLROOT or SLPRUNE does to the tree before the search, and which nodes its action frees (R308). -/
structure CutOf (t : Tree) (x : Nat) (isRoot : Bool) (gone : List Nat) (after : Nat → Node → Node) (root : Nat)
    (rootv : Bool) : Prop where
  freed : ∀ i, i ∈ gone ↔
    if isRoot then InSubtree t t.root i ∧ ¬InSubtree t x i
    else InSubtree t x i ∧ (i = x → t.rootv = true ∧ t.root = x)
  after : ∀ i n, after i n =
    if isRoot then (if i = x then { n with root := true, parent := x }
      else { n with unlinked := n.unlinked || gone.contains i, root := n.root && i != t.root })
    else if t.rootv = true ∧ t.root = x then { n with unlinked := n.unlinked || gone.contains i, root := n.root && i != x }
    else if i = x then { n with cut := true, nch := 0, first := 0 }
    else { n with unlinked := n.unlinked || gone.contains i }
  root : root = if isRoot then x else t.root
  rootv : rootv = (isRoot || (t.rootv && t.root != x))

end Sys2Proof.Claims

/-- R298, R312: an operand value that breaks its format raises ILL; a tree that does not exist, and an index at or above
CAP or of a free node, raise SLPATH with tree and index in TRAPA; a poisoned node stops the gang. -/
def Sys2Proof.Claims.SlalomChecks : Prop :=
  (∀ (s : State) (i : Instr) (ds : List Nat) (a : BitVec 6) (b : Option (BitVec 6)) (rs : List Nat),
    slUse i = some (ds, a, b, rs) → ds.all (sOk s) = true → sReady s (a.toNat :: rs) = true → slScalar s i →
    let n := (sv s a).toNat
    let x := match b with | some b => (sv s b).toNat | none => 0
    ((s.sreg a.toNat).tag ≠ 0 ∨ 256 ≤ n ∨ 2 ^ 26 ≤ x → exec i s = .next (s.takeTrap ⟨0x01, 0, 0, false⟩)) ∧
    ((s.sreg a.toNat).tag = 0 → n < 256 → x < 2 ^ 26 →
      (s.cv.tree n = none ∨ ∃ tr, s.cv.tree n = some tr ∧ b ≠ none ∧ (tr.cap ≤ x ∨ tr.node? x = none)) →
      exec i s = .next (s.takeTrap ⟨0x0C, BitVec.ofNat 72 (n + 2 ^ 32 * x), 0, false⟩))) ∧
  (∀ (s : State) (i : Instr) (f : X3) (n x : Nat) (tr : Tree) (nx : Node), i = .slread f ∨ i = .slpick f →
    slScalar s i → (List.range 5).all (fun j => sOk s (f.d.toNat + j)) = true → sReady s [f.sa.toNat, f.sb.toNat] = true →
    slTree s f.sa n tr → slNode s f.sb tr x nx → classRoom s 7 = true → s.nodeBad tr x = true →
    exec i s = .next (s.done.engineFault s.cw.gang s.cur.wave))

/-- R295, R300, R301, R302: SLDESC descends from the root, by the greatest bound at each level, charging every node it takes;
its result and PATH name leaf and depth; a tree without a root gives all ones and nothing changes. It goes on from node to
node while its result is awaited: so it comes out where nothing else touches the tree, and each of its steps is one node's. -/
def Sys2Proof.Claims.SlalomDescends : Prop :=
  (∀ (s : State) (o : Op) (m x depth : Nat) (dst : Dst) (tr : Tree) (ks : List Node), inFlight s o →
    (s.vd (s.gang o.gang).vd).tree m = some tr → s.nodeBad tr x = false → o.kind = .slalom m (.desc x depth none ks) dst →
    ∃ t, exec (.resultDelivery o.id) s = .next t ∧ (t.vd (s.gang o.gang).vd).tree m = some (charge tr x) ∧ t.mem = s.mem ∧
      let n := Tree.at (charge tr x) x
      t.op? o.id = some (if n.nch = 0 ∨ depth = 64
        then { o with
          kind := .svalue dst [{ val := BitVec.ofNat 64 (x + depth * 2 ^ 32 + if depth = 64 ∧ n.nch ≠ 0 then 2 ^ 63 else 0) }]
          path := some (BitVec.ofNat 42 (depth % 128 + m * 2 ^ 8 + x * 2 ^ 16)) }
        else { o with kind := .slalom m (.desc x depth (some n) []) dst })) ∧
  ∀ (s : State) (a d : BitVec 6) (n : Nat) (tr : Tree), sOk s d.toNat = true → sReady s [a.toNat] = true →
    slTree s a n tr → soundTree s tr → classRoom s 7 = true → s.cw.mode ≠ .recompute → s.cur.wave < s.waves.length →
    idsBelow s → ∃ t, exec (.sldesc a d) s = .next t ∧ t.mem = s.mem ∧
      (tr.rootv = false → SlDone s t d [0xFFFFFFFFFFFFFFFF] none .acq n tr) ∧
      (tr.rootv = true → ∃ k tr' leaf depth dead, Descends tr tr.root 0 tr' leaf depth dead ∧
        SlDone s (times (exec (.resultDelivery s.seq)) k t) d [(if depth = 64 ∧ (Tree.at tr' leaf).nch ≠ 0 then 1#1 else 0#1) ++ (if dead then 1#1 else 0#1) ++ 0#23 ++
          BitVec.ofNat 7 depth ++ 0#6 ++ BitVec.ofNat 26 leaf] (some (slPath depth n leaf)) .acq n tr')

/-- R295, R303, R304: SLBACK adds the value and a visit and takes back a virtual loss, from the leaf to the root, one node at
a time while its result is awaited. Nothing is ordered across nodes: where another walk of the tree is under way, it may go on
past a node and update it later, before its result. -/
def Sys2Proof.Claims.SlalomBacks : Prop :=
  (∀ (s : State) (o : Op) (m leaf x k : Nat) (v : Word) (c : Bool) (dst : Dst) (tr : Tree) (n : Node), inFlight s o →
    (s.vd (s.gang o.gang).vd).tree m = some tr → s.nodeBad tr x = false → o.kind = .slalom m (.back leaf v x k c) dst →
    tr.node? x = some n → n.root = false → n.parent ≠ x →
    ∃ t, exec (.resultDelivery o.id) s = .next t ∧ t.mem = s.mem ∧
      let next : OpKind := .slalom m (.back leaf v n.parent (k + 1) (c || n.unlinked || n.cut)) dst
      let now := t.op? o.id = some { o with kind := next } ∧ (t.vd (s.gang o.gang).vd).tree m = some (backed tr v x)
      (walksAlone s o m → now) ∧
      (now ∨ t.op? o.id = some { o with late := o.late ++ [x], kind := next } ∧ (t.vd (s.gang o.gang).vd).tree m = some tr)) ∧
  (∀ (s : State) (o : Op) (m x res : Nat) (l : List Nat) (v : Word) (path : Option (BitVec 42)) (dst : Dst) (tr : Tree),
    inFlight s o → (s.vd (s.gang o.gang).vd).tree m = some tr → s.nodeBad tr x = false →
    o.kind = .slalom m (.rest v res path) dst → o.late = x :: l →
    ∃ t, exec (.resultDelivery o.id) s = .next t ∧ t.mem = s.mem ∧ (t.vd (s.gang o.gang).vd).tree m = some (backed tr v x) ∧
      t.op? o.id = some (if l = [] then { o with late := [], kind := .svalue dst [{ val := BitVec.ofNat 64 res }], path := path }
        else { o with late := l })) ∧
  ∀ (s : State) (f : X3) (n leaf k : Nat) (tr tr' : Tree) (x : Node) (c : Bool), let sb := f.sb.toNat
    sOk s f.d.toNat = true → sReady s [f.sa.toNat, sb, sb + 1] = true → slTree s f.sa n tr → slNode s f.sb tr leaf x →
    soundTree s tr → classRoom s 7 = true → s.cw.mode ≠ .recompute → slScalar s (.slback f) → s.walking s.cg.vd n = false →
    Backs ((s.sreg (sb + 1)).val.setWidth 32) tr leaf tr' k c → k < 2 ^ 32 → idsBelow s →
    ∃ t, exec (.slback f) s = .next t ∧ t.mem = s.mem ∧
      SlDone s (times (exec (.resultDelivery s.seq)) k t) f.d [(if c then 1#1 else 0#1) ++ 0#31 ++ BitVec.ofNat 32 k] (some (slPath (min (k - 1) 64) n leaf)) .weak n tr'

/-- R305, R306, R297: SLEXP gives a leaf the lowest run of free nodes, made from its records; 3 for a pruned leaf, 1 for
one that has children; without a run a DRY grant ends it with 2, else SLNODE. PATH takes tree and leaf and keeps its DEPTH. -/
def Sys2Proof.Claims.SlalomExpands : Prop :=
  ∀ (s : State) (f : X3) (m leaf : Nat) (tr : Tree) (x : Node), let sb := f.sb.toNat
    sOk s f.d.toNat = true → sReady s [f.sa.toNat, sb, sb + 1, sb + 2] = true → slTree s f.sa m tr → slNode s f.sb tr leaf x →
    let n := (s.sreg (sb + 1)).val.toNat
    let a := (s.sreg (sb + 2)).val
    let path := some (slPath 0 m leaf)
    (n = 0 ∨ 2048 < n → exec (.slexp f) s = .next (s.takeTrap ⟨0x01, 0, 0, false⟩)) ∧
    (1 ≤ n → n ≤ 2048 → a.toNat % 8 ≠ 0 → exec (.slexp f) s = .next (s.takeTrap ⟨0x02, a.setWidth 72, 0, false⟩)) ∧
    (∀ bs, 1 ≤ n → n ≤ 2048 → a.toNat % 8 = 0 → localBytes s a.toNat (16 * n) = some bs → s.settled = true →
      classRoom s 7 = true → s.nodeBad tr leaf = false → (∀ b ∈ bs, b.2 = false) →
      let recd (j : Nat) : List Byte := ((bs.map (·.1)).drop (16 * j)).take 16
      (x.unlinked = false → x.cut = false → x.nch = 0 → noRun tr n → s.cw.dry = false →
        exec (.slexp f) s = .next (s.takeTrap ⟨0x0B, BitVec.ofNat 72 (m + 2 ^ 16 * n + 2 ^ 32 * leaf), 0, false⟩)) ∧
      (s.cw.mode ≠ .recompute → s.cur.wave < s.waves.length →
        (x.unlinked = true ∨ x.cut = true → ∃ t, exec (.slexp f) s = .next t ∧ SlDone s t f.d [3] path .weak m tr true) ∧
        (x.unlinked = false → x.cut = false → x.nch ≠ 0 →
          ∃ t, exec (.slexp f) s = .next t ∧ SlDone s t f.d [1] path .weak m tr true) ∧
        (x.unlinked = false → x.cut = false → x.nch = 0 → noRun tr n → s.cw.dry = true →
          ∃ t, exec (.slexp f) s = .next t ∧ SlDone s t f.d [2] path .weak m tr true ∧ t.cw.dry = false) ∧
        (∀ i, x.unlinked = false → x.cut = false → x.nch = 0 → lowestRun tr n i →
          ∃ t tr', exec (.slexp f) s = .next t ∧ SlDone s t f.d [BitVec.ofNat 64 (2 ^ 32 * i)] path .weak m tr' true ∧
            t.cw.dry = false ∧ tr'.node? leaf = some { x with first := i, nch := n } ∧
            tr'.nodes.length = tr.nodes.length + n ∧
            (∀ j, j < n → tr'.node? (i + j) = some (childRec leaf (recd j))) ∧
            ∀ k, k ≠ leaf → (k < i ∨ i + n ≤ k) → tr'.node? k = tr.node? k)))

/-- R295, R307, R310: SLPICK reads the children one by one and gives the child with the most visits, then the greatest value, then the lowest index; SLREAD gives
the node's words. -/
def Sys2Proof.Claims.SlalomReads : Prop :=
  (∀ (s : State) (f : X3) (m i : Nat) (tr : Tree) (x : Node), sOk s f.d.toNat = true →
    sReady s [f.sa.toNat, f.sb.toNat] = true → slTree s f.sa m tr → slNode s f.sb tr i x → soundTree s tr →
    classRoom s 7 = true → idsBelow s → ∃ t k, exec (.slpick f) s = .next t ∧ t.mem = s.mem ∧
      ((∀ y ny, ¬kidOf tr x y ny) → SlDone s (times (exec (.resultDelivery s.seq)) k t) f.d [0xFFFFFFFFFFFFFFFF] none .acq m tr) ∧
      (∀ y ny, kidOf tr x y ny → (∀ z nz, kidOf tr x z nz → z ≠ y → nz.n < ny.n ∨
          (nz.n = ny.n ∧ (lower nz.w ny.w ∨ (¬lower ny.w nz.w ∧ y < z)))) →
        SlDone s (times (exec (.resultDelivery s.seq)) k t) f.d [ny.token ++ (BitVec.ofNat 32 y : Word)] none .acq m tr)) ∧
  (∀ (s : State) (f : X3) (m i : Nat) (tr : Tree) (x : Node), (List.range 5).all (fun j => sOk s (f.d.toNat + j)) = true →
    sReady s [f.sa.toNat, f.sb.toNat] = true → slTree s f.sa m tr → slNode s f.sb tr i x → s.nodeBad tr i = false →
    classRoom s 7 = true → 1 ≤ f.d.toNat → f.d.toNat ≤ 59 → x.first < 2 ^ 26 → x.nch < 2 ^ 12 → x.parent < 2 ^ 26 →
    ∃ t, exec (.slread f) s = .next t ∧ t.mem = s.mem ∧
      SlDone s t f.d [x.w ++ x.n, (BitVec.ofNat 32 x.first : Word) ++ x.vl ++ x.p, x.token ++ (BitVec.ofNat 32 x.nch : Word),
        0#28 ++ BitVec.ofBool x.unlinked ++ BitVec.ofBool x.cut ++ BitVec.ofBool x.root ++ 1#1 ++ (BitVec.ofNat 32 x.parent : Word),
        x.user] none .acq m tr) ∧
  (∀ (s : State) (f : X3), f.d = 0 ∨ 59 < f.d.toNat → exec (.slread f) s = .next (s.takeTrap ⟨0x01, 0, 0, false⟩))

/-- R308, R296, R312: a poisoned node that SLROOT or SLPRUNE reads stops the gang. SLROOT moves the root to a child and SLPRUNE cuts a node off; the nodes cut off are freed when nothing
pins the tree's name (1), wait UNLINKED for the groomer while its bucket has room (2), and else nothing changes (3); 4
for a node that cannot be cut, 0 for one without children. -/
def Sys2Proof.Claims.SlalomCuts : Prop :=
  ∀ (s : State) (i : Instr) (f : X3) (m x : Nat) (tr : Tree) (nx : Node) (isRoot : Bool),
    (i = .slroot f ∧ isRoot = true) ∨ (i = .slprune f ∧ isRoot = false) → sOk s f.d.toNat = true →
    sReady s [f.sa.toNat, f.sb.toNat] = true → slTree s f.sa m tr → slNode s f.sb tr x nx →
    s.settled = true → s.walking s.cg.vd m = false → classRoom s 7 = true → s.cw.mode ≠ .recompute →
    let d := s.cg.vd
    let name : DWord := BitVec.ofNat 64 (2 ^ 57 + m)
    let inBucket := (s.cv.deferred.filter fun e => bucketOf e.name = bucketOf name).length
    let bad : Prop := if isRoot then tr.rootv = false ∨ ∀ ny, ¬kidOf tr (Tree.at tr tr.root) x ny else nx.unlinked = true
    let bare : Prop := isRoot = false ∧ ¬(tr.rootv = true ∧ tr.root = x) ∧ nx.nch = 0
    (s.nodeBad tr x = true → exec i s = .next (s.commitMark.done.engineFault s.cw.gang s.cur.wave)) ∧
    (isRoot = false → ¬bad → ¬bare → ∀ j, InSubtree tr x j → s.nodeBad tr j = true →
      exec i s = .next (s.commitMark.done.engineFault s.cw.gang s.cur.wave)) ∧
    ((∀ j, j = x ∨ InSubtree tr tr.root j ∨ InSubtree tr x j → s.nodeBad tr j = false) →
    (bad → ∃ t, exec i s = .next t ∧ SlDone s t f.d [4] none .weak m tr) ∧
    (¬bad → bare → ∃ t tr', exec i s = .next t ∧ SlDone s t f.d [0] none .weak m tr' ∧
      ∀ k, tr'.node? k = if k = x then some { nx with cut := true } else tr.node? k) ∧
    (¬bad → ¬bare → ∃ gone after root rootv, CutOf tr x isRoot gone after root rootv ∧
      (s.pinned d name = false → ∃ t tr', exec i s = .next t ∧ SlDone s t f.d [1] none .weak m tr' ∧ tr'.root = root ∧
        tr'.rootv = rootv ∧ ∀ k, tr'.node? k = if k ∈ gone then none else (tr.node? k).map (after k)) ∧
      (s.pinned d name = true → inBucket < 16 → ∃ t tr', exec i s = .next t ∧ SlDone s t f.d [2] none .weak m tr' ∧
        tr'.root = root ∧ tr'.rootv = rootv ∧ (∀ k, tr'.node? k = (tr.node? k).map (after k)) ∧
        t.cv.deferred = s.cv.deferred ++ [⟨name, .nodes m gone⟩]) ∧
      (s.pinned d name = true → 16 ≤ inBucket → ∃ t, exec i s = .next t ∧ SlDone s t f.d [3] none .weak m tr ∧
        t.cv.deferred = s.cv.deferred)))

/-- R309, R311: SLNEW makes a root at the lowest free node of a tree without one; SLCFG reads and writes C, VLOSS, FPU,
FREE, ROOT and the wave's DRY grant; any other selector raises ILL. -/
def Sys2Proof.Claims.SlalomSets : Prop :=
  (∀ (s : State) (f : X3) (m : Nat) (tr : Tree), sOk s f.d.toNat = true → sReady s [f.sa.toNat, f.sb.toNat] = true →
    slTree s f.sa m tr → (sv s f.sb).toNat < 2 ^ 32 → s.settled = true → classRoom s 7 = true → s.cw.mode ≠ .recompute →
    (tr.rootv = true ∨ noRun tr 1 → ∃ t, exec (.slnew f) s = .next t ∧ SlDone s t f.d [0xFFFFFFFFFFFFFFFF] none .weak m tr) ∧
    (∀ i, tr.rootv = false → lowestRun tr 1 i → ∃ t tr', exec (.slnew f) s = .next t ∧
      SlDone s t f.d [BitVec.ofNat 64 i] none .weak m tr' ∧ tr'.root = i ∧ tr'.rootv = true ∧
      tr'.node? i = some { token := (sv s f.sb).setWidth 32, root := true, parent := i } ∧
      ∀ k, k ≠ i → tr'.node? k = tr.node? k)) ∧
  (∀ (s : State) (f : X3) (m : Nat) (tr : Tree), sOk s f.d.toNat = true →
    sReady s [f.sa.toNat, f.sb.toNat, f.sb.toNat + 1] = true → slTree s f.sa m tr → classRoom s 7 = true →
    s.cw.mode ≠ .recompute → s.cur.wave < s.waves.length →
    let sel := (sv s f.sb).toNat
    let v := (s.sreg (f.sb.toNat + 1)).val
    let w : Word := v.setWidth 32
    (6 ≤ sel → exec (.slcfg f) s = .next (s.takeTrap ⟨0x01, 0, 0, false⟩)) ∧
    (sel < 3 → 2 ^ 32 ≤ v.toNat → exec (.slcfg f) s = .next (s.takeTrap ⟨0x01, 0, 0, false⟩)) ∧
    (sel = 5 → 2 ≤ v.toNat → exec (.slcfg f) s = .next (s.takeTrap ⟨0x01, 0, 0, false⟩)) ∧
    ((sel < 3 → v.toNat < 2 ^ 32) → (sel = 5 → v.toNat < 2) → sel < 6 → ∃ t, exec (.slcfg f) s = .next t ∧
      SlDone s t f.d [[tr.c.setWidth 64, tr.vloss.setWidth 64, tr.fpu.setWidth 64, BitVec.ofNat 64 (tr.cap - tr.nodes.length),
          if tr.rootv then BitVec.ofNat 64 tr.root else 0xFFFFFFFFFFFFFFFF, if s.cw.dry then 1 else 0].getD sel 0] none .weak m
        (if sel = 0 then { tr with c := w } else if sel = 1 then { tr with vloss := w } else if sel = 2 then { tr with fpu := w } else tr) ∧
      t.cw.dry = if sel = 5 then v == 1 else s.cw.dry))

namespace Sys2Proof.Claims

/-! ## The matrix engine -/

/-- A byte of an operand as an engine of device d reads it now. -/
def heldNow (s : State) (d : Nat) (p : Place) : Byte × Bool :=
  match p with
  | .direct l => s.raw l
  | .homed l _ => s.homeByte l
  | p => s.engByte d p

/-- The gang whose banks a descriptor numbers: the unit's own, or with REM the resident gang of the same device and
cluster that OWNER names (R210). -/
def bankGang (s : State) (v : DWord) : Option Gang :=
  if v.getLsbD 22 then s.gangs.find? fun g => (g.st == .resident || g.st == .engine) && g.vd == s.cg.vd && g.die == s.cg.die &&
    g.cluster == s.cg.cluster && g.wgs.any fun w => w.core == (v.extractLsb' 40 2).toNat && w.slot == (v.extractLsb' 42 4).toNat
  else some s.cg

/-- A descriptor (R210-R212): the region of `rows` rows of `len` bytes and `sc` scale bytes after them, or the cause and
TRAPA of the first check that fails. -/
def descOf (s : State) (v : DWord) (rows len sc : Nat) (isB flat : Bool) : Except (Byte × Addr) Region :=
  let addr := (v.extractLsb' 0 22).toNat
  let stride := (v.extractLsb' 24 16).toNat
  if addr % 8 ≠ 0 ∨ stride % 8 ≠ 0 then .error (0x02, BitVec.ofNat 72 addr)
  else if v.extractLsb' 46 18 ≠ 0 ∨ (v.getLsbD 22 = false ∧ v.extractLsb' 40 6 ≠ 0) ∨ (isB = false ∧ v.getLsbD 23 = true) then .error (0x1B, BitVec.ofNat 72 addr)
  else match bankGang s v with
    | none => .error (0x1B, BitVec.ofNat 72 addr)
    | some g =>
      let S := if stride = 0 then len else stride
      let rs := (List.range rows).map fun i => (List.range len).map fun j => addr + i * S + j
      let ss := (List.range sc).map fun j => addr + rows * S + j
      match (rs.flatten ++ ss).find? fun a => (g.localLoc a).isNone with
      | some a => .error (0x1B, BitVec.ofNat 72 a)
      | none =>
        if flat = true ∧ stride ≠ 0 then .error (0x1B, BitVec.ofNat 72 addr) else
        let at' (a : Nat) : Place := .direct ((g.localLoc a).getD ⟨.sram, 0⟩)
        .ok ⟨rs.map fun r => r.map at', ss.map at'⟩

/-- K, the bytes of a row and the slice of a type (R214, R87). -/
def typeK (ty : Nat) : Nat := [32, 32, 64, 64, 64, 64, 64, 64, 128, 64, 128, 128].getD ty 128
def typeLen (ty : Nat) : Nat := [64, 64, 64, 64, 64, 64, 72, 48, 64, 64, 64, 64].getD ty 64
def typeSlice (ty : Nat) : Nat := [8, 8, 16, 16, 16, 16, 16, 16, 32, 16, 32, 32].getD ty 32

/-- Tile n of the unit's workgroup on its partition, as accumulator memory numbers it (R208). -/
def tileAt (s : State) (n : Nat) : Nat := (4 * s.cw.coreNo + s.cw.part) * 128 + (s.cwg.tileBase + n)

/-- The follower's tile of a paired operation, on the other core of the matrix pair, or PAIR (R216). -/
def followerAt (s : State) (n : Nat) : Except (Byte × Addr) Nat :=
  match s.cg.wgs.find? fun g => g.core == s.cw.core ^^^ 1 with
  | none => .error (0x17, 0)
  | some g => if n < g.tiles then
      .ok ((4 * ((20 * s.cw.die + s.cw.cluster) * 4 + (s.cw.core ^^^ 1)) + s.cw.part) * 128 + (g.tileBase + n))
    else .error (0x17, 0)

/-- The words of 16 KiB of global memory, for MSAVE and MREST (R222). -/
def saveWords (s : State) (x : SReg) (p : Perm) : Except (Byte × Addr) (List Place) :=
  if x.val.toNat % 128 ≠ 0 then .error (0x02, x.tag ++ x.val)
  else
    let as := (List.range 4096).map fun i => (x.tag ++ (x.val + BitVec.ofNat 64 (4 * i)) : Addr)
    let tr (a : Addr) : Except Byte Place :=
      if x.tag = 2 ∨ (x.tag = 1 ∧ p = .w) then .error 0x04 else s.translate s.cw.coreNo s.cg.vd s.cw.win 0 a p
    let bad (c : Byte) := as.filter fun a => match tr a with | .error d => d == c | .ok _ => false
    match [0x05, 0x03, 0x04].find? fun c => !(bad c).isEmpty with
    | some c => .error (c, (bad c).headD 0)
    | none => match as.find? fun a => s.watched a 4 with
      | some a => .error (0x13, a)
      | none => .ok (as.filterMap fun a => match tr a with | .ok q => some q | .error _ => none)

/-- A matrix or tile instruction: its tile, its scalars, and the operation with the other array's tile, or its fault. -/
structure MxOp where
  tile : Nat
  srcs : List Nat
  res : Except (Byte × Addr) (MxKind × Option Nat)

def mxOp (s : State) : Instr → Option MxOp
  | .mma f => some ⟨f.t.toNat, [f.sa.toNat, f.sb.toNat], do
      let fol ← if f.pair = 1 then (followerAt s f.t.toNat).map some else .ok none
      let n := if f.pair = 1 then 128 else 64
      let sc (r : Nat) : Nat := if f.bs = 1 then 2 * (r * (typeK f.ty.toNat / 32)) else 0
      let a ← descOf s (sv s f.sa) 64 (typeLen f.ty.toNat) (sc 64) false false
      let b ← descOf s (sv s f.sb) n (typeLen f.ty.toNat) (sc n) true false
      .ok (.mma f.ty.toNat (f.z == 1) (f.bs == 1) a b (tileAt s f.t.toNat) fol, fol)⟩
  | .mzero t => some ⟨t.toNat, [], .ok (.mzero (tileAt s t.toNat), none)⟩
  | .mldt f => some ⟨f.t.toNat, [f.sa.toNat], do
      let r ← descOf s (sv s f.sa) 64 ([256, 128, 128, 64, 64, 72, 48, 32].getD f.f3.toNat 64) 0 false false
      .ok (.mldt (tileAt s f.t.toNat) f.f3.toNat r, none)⟩
  | .mstt f => some ⟨f.t.toNat, [f.sa.toNat], do
      let r ← descOf s (sv s f.sa) 64 ([256, 128, 128, 64, 64, 72, 48, 32].getD f.f3.toNat 64) 0 false false
      .ok (.mstt (tileAt s f.t.toNat) f.f3.toNat r, none)⟩
  | .msave a t => some ⟨t.toNat, [a.toNat], do
      let ps ← saveWords s (s.sreg a.toNat) .w
      .ok (.msave (tileAt s t.toNat) ps, none)⟩
  | .mrest a t => some ⟨t.toNat, [a.toNat], do
      let ps ← saveWords s (s.sreg a.toNat) .r
      .ok (.mrest (tileAt s t.toNat) ps, none)⟩
  | .mscale f => some ⟨f.t.toNat, [f.sa.toNat], do
      let r ← descOf s (sv s f.sa) 1 256 0 false true
      .ok (.mscale (tileAt s f.t.toNat) (f.f3 == 1) r, none)⟩
  | _ => none

/-- The arrays' queues have room for one more: the unit's partition, and the follower's (R214, R217). -/
def arrayRoom (s : State) (p : Nat) : Prop := (s.flight.filter fun o => o.arrays.contains p).length < 8

/-- Element k of a row in a format: 0 bf16, 1 h16, 2 e4m3, 3 e5m2, 4 sx7, 5 sx4, 6 sx2, 7 e2m1, 8 s8, 9 int4 (R82, R84). -/
def elemAt (fmt : Nat) (row : List Byte) (k : Nat) : Num.Ex :=
  let byte := (row.getD k 0)
  let nib := (row.getD (k / 2) 0).toNat / 16 ^ (k % 2) % 16
  let pairOf := natOf ((row.drop (2 * k)).take 2)
  let sx (m n : Nat) : Num.Ex := Num.decSx m (natOf ((row.drop (n * (k / 16))).take n)) (k % 16)
  match fmt with
  | 0 => Num.val Num.bf16 pairOf
  | 1 => Num.val Num.h16 pairOf
  | 2 => Num.val Num.e4m3 byte.toNat
  | 3 => Num.val Num.e5m2 byte.toNat
  | 4 => sx 7 18
  | 5 => sx 4 12
  | 6 => sx 2 8
  | 7 => Num.val Num.e2m1 nib
  | 8 => Num.ofInt byte.toInt
  | _ => Num.ofInt (if nib < 8 then (nib : Int) else (nib : Int) - 16)

/-- The A and B formats of a type (R214). -/
def fmtA (ty : Nat) : Nat := [0, 1, 2, 2, 3, 3, 4, 5, 6, 8, 9, 7].getD ty 7
def fmtB (ty : Nat) : Nat := [0, 1, 2, 3, 2, 3, 4, 5, 6, 8, 9, 7].getD ty 7

/-- The exact dot product of one group (R87). -/
def dotGroup (a b : Nat → Num.Ex) (g n : Nat) : Num.Ex :=
  let e := (List.range n).foldl (fun (e : Num.Ex) k => e.add ((a (g * n + k)).mul (b (g * n + k)))) (.fin false 0 0)
  if e.isZero then .fin false 0 0 else e

/-- One element of C (R215): from acc, over the groups of row a and row b, with the scales sa and sb where `bs`. -/
def mmaWord (ty : Nat) (bs : Bool) (acc : Nat) (a b sa sb : List Byte) : Nat :=
  let G := if bs then 32 else typeSlice ty
  (List.range (typeK ty / G)).foldl (fun acc g =>
    let d := dotGroup (elemAt (fmtA ty) a) (elemAt (fmtB ty) b) g G
    let e := if bs then ((elemAt 0 sa g).mul (elemAt 0 sb g)).mul d else d
    let e := if e.isZero then .fin false 0 0 else e
    if ty = 9 ∨ ty = 10 then (BitVec.ofInt 32 ((acc : Int) + exInt e)).toNat else (rnd32 ((Num.val Num.f32 acc).add e)).toNat) acc

/-- Word w of a tile. -/
def tileWord (s : State) (t w : Nat) : Nat := natOf ((s.raws ⟨.tile, t * 16384 + 4 * w⟩ 4).map (·.1))

/-- The bytes of an operand list as they stand. -/
def bytesOfPlaces (s : State) (ps : List Place) : List Byte := ps.map fun p => (heldNow s 0 p).1

/-- A matrix operation that has started, whose operands have not changed since it was issued and hold no poison; its
tile holds none either, and no earlier operation on it is outstanding. -/
def steady (s : State) (o : Op) (k : MxKind) (leader tile : Nat) : Prop :=
  inFlight s o ∧ o.kind = .mx k leader true (k.operands.map fun l => l.map (heldNow s (s.gang o.gang).vd)) ∧
  (∀ l ∈ k.operands, ∀ p ∈ l, (heldNow s (s.gang o.gang).vd p).2 = false ∧ s.served p false = true ∧ ∀ sl off, p ≠ .peer sl off) ∧
  (∀ i, i < 16384 → (s.raw ⟨.tile, tile * 16384 + i⟩).2 = false) ∧ s.canon ∧
  ∀ p ∈ s.flight, p.id < o.id → ∀ x ∈ p.tiles, x ∉ o.tiles

/-- The operation has retired: it has left flight, and no byte outside the tile has changed. -/
def retired (s t : State) (o : Op) (tile : Nat) : Prop :=
  gone s t o ∧ ∀ l : Loc, (∀ i, i < 16384 → l.key ≠ Loc.key ⟨.tile, tile * 16384 + i⟩) → t.raw l = s.raw l

/-- A row as MSTT writes it (R223): 64 words in a format. -/
def sttRow (fmt : Nat) (w : Nat → Nat) : List Byte :=
  let each (f : Num.Fmt) (n : Nat) : List Byte := (List.range 64).flatMap fun j => bytesOf n (rnd f (Num.val Num.f32 (w j)))
  let sx (m n : Nat) : List Byte := (List.range 4).flatMap fun b =>
    bytesOf n (Num.encSx m ((List.range 16).map fun j => Num.val Num.f32 (w (16 * b + j))))
  match fmt with
  | 0 => (List.range 64).flatMap fun j => bytesOf 4 (w j)
  | 1 => each Num.bf16 2
  | 2 => each Num.h16 2
  | 3 => each Num.e4m3 1
  | 4 => each Num.e5m2 1
  | 5 => sx 7 18
  | 6 => sx 4 12
  | _ => sx 2 8

end Sys2Proof.Claims

/-- R208, R210-R212, R214, R216-R218, R222, R413: MMA and the tile instructions: a tile not held raises ILL, then the scalars,
then PAIR and the checks of the descriptors or of the global range; then the operation enters its arrays' queues, or
waits while one holds eight. -/
def Sys2Proof.Claims.MatrixIssue : Prop :=
  ∀ (s : State) (i : Instr) (m : MxOp), mxOp s i = some m →
    (s.cwg.tiles ≤ m.tile → exec i s = .next (s.takeTrap ⟨0x01, 0, 0, false⟩)) ∧
    (m.tile < s.cwg.tiles → sReady s m.srcs = true →
      (∀ c a, m.res = .error (c, a) → exec i s = .next (s.takeTrap ⟨c, a, 0, false⟩)) ∧
      (∀ k fol, m.res = .ok (k, fol) →
        (arrayRoom s (4 * s.cw.coreNo + s.cw.part) → (∀ f, fol = some f → arrayRoom s (f / 128)) → classRoom s 2 = true →
          exec i s = .next (s.launchOp (some 2) (.mx k (4 * s.cw.coreNo + s.cw.part) false
            (k.operands.map fun l => l.map (heldNow s s.cg.vd)))).done) ∧
        (¬arrayRoom s (4 * s.cw.coreNo + s.cw.part) → exec i s = .next (stalls s)) ∧
        (∀ f, fol = some f → ¬arrayRoom s (f / 128) → exec i s = .next (stalls s))))

/-- R217, R219, R195: an operation starts when it heads the queue of each of its arrays, after the fragment's earlier acquires
and the releases that name M, and not before: an earlier one of an array keeps it back until that has started, a paired one until
it has retired where the array is its follower's. Of two on one tile the later does not retire first. -/
def Sys2Proof.Claims.MatrixStarts : Prop :=
  (∀ (s : State) (o : Op) (k : MxKind) (l : Nat) (b : List (List (Byte × Bool))), inFlight s o → o.kind = .mx k l false b →
    let before : Op → Prop := fun p => p.id < o.id ∧ ∃ j m st c, p.kind = .mx j m st c ∧ ∃ a ∈ p.arrays, a ∈ o.arrays ∧ (st = false ∨ a ≠ m)
    let held : Op → Prop := fun p => p.precedes o = true ∧ (p.ord.acquires = true ∨ (p.ord.releases = true ∧ p.mask.getLsbD 2 = true))
    ((∀ p ∈ s.flight, ¬before p ∧ ¬held p) → exec (.matrixOpStart o.id) s = .next (s.setOp { o with kind := .mx k l true b })) ∧
    ((∃ p ∈ s.flight, before p ∨ held p) → exec (.matrixOpStart o.id) s = .next s)) ∧
  (∀ (s : State) (o p : Op) (k : MxKind) (l x : Nat) (b : List (List (Byte × Bool))), inFlight s o → o.kind = .mx k l true b →
    p ∈ s.flight → p.id < o.id → x ∈ p.tiles → x ∈ o.tiles → exec (.matrixOpRetire o.id) s = .next s)

/-- R84, R87, R214, R215, R218: an MMA that retires has the product of R215 in its tile, the second half of B's rows in
the follower's; a poisoned operand stops the gang instead. -/
def Sys2Proof.Claims.MatrixProducts : Prop :=
  (∀ (s : State) (o : Op) (ty l tile : Nat) (z bs : Bool) (a b : Region), ty < 12 → (bs = true → ty < 6 ∨ ty = 11) →
    a.rows.length = 64 → b.rows.length = 64 → (∀ r ∈ a.rows ++ b.rows, r.length = typeLen ty) →
    (bs = true → a.scales.length = 64 * (typeK ty / 32 * 2) ∧ b.scales.length = 64 * (typeK ty / 32 * 2)) →
    steady s o (.mma ty z bs a b tile none) l tile →
    ∃ t, exec (.matrixOpRetire o.id) s = .next t ∧ retired s t o tile ∧ ∀ i j, i < 64 → j < 64 →
      let per := typeK ty / 32 * 2
      tileWord t tile (64 * i + j) = mmaWord ty bs (if z then 0 else tileWord s tile (64 * i + j))
        (bytesOfPlaces s (a.rows.getD i [])) (bytesOfPlaces s (b.rows.getD j []))
        (bytesOfPlaces s ((a.scales.drop (per * i)).take per)) (bytesOfPlaces s ((b.scales.drop (per * j)).take per))) ∧
  (∀ (s : State) (o : Op) (ty l tile fol : Nat) (z : Bool) (a b : Region), ty < 12 → fol ≠ tile →
    a.rows.length = 64 → b.rows.length = 128 → (∀ r ∈ a.rows ++ b.rows, r.length = typeLen ty) →
    steady s o (.mma ty z false a b tile (some fol)) l tile → steady s o (.mma ty z false a b tile (some fol)) l fol →
    ∃ t, exec (.matrixOpRetire o.id) s = .next t ∧ gone s t o ∧ ∀ i j, i < 64 → j < 64 →
      tileWord t tile (64 * i + j) = mmaWord ty false (if z then 0 else tileWord s tile (64 * i + j))
        (bytesOfPlaces s (a.rows.getD i [])) (bytesOfPlaces s (b.rows.getD j [])) [] [] ∧
      tileWord t fol (64 * i + j) = mmaWord ty false (if z then 0 else tileWord s fol (64 * i + j))
        (bytesOfPlaces s (a.rows.getD i [])) (bytesOfPlaces s (b.rows.getD (64 + j) [])) [] []) ∧
  (∀ (s : State) (o : Op) (k : MxKind) (l : Nat), inFlight s o →
    let u := match k with | .mrest _ src => s.touchPlaces src | _ => s
    let d := (s.gang o.gang).vd
    o.kind = .mx k l true (k.operands.map fun l => l.map (heldNow u d)) → (∀ a b, k ≠ .msave a b) →
    (∀ l ∈ k.operands, ∀ p ∈ l, s.served p false = true ∧ ∀ sl off, p ≠ .peer sl off) →
    (∀ p ∈ s.flight, p.id < o.id → ∀ x ∈ p.tiles, x ∉ o.tiles) → (∃ l ∈ k.operands, ∃ p ∈ l, (heldNow u d p).2 = true) →
    exec (.matrixOpRetire o.id) s = .next (({ u with free := u.free + 17 + 4096 }.engineFault o.gang o.wave).credit
      s.exchanges.length (.wave o.wave o.code o.ord)))

/-- R222, R379: what MZERO, MLDT, MREST and MSCALE leave in their tile; MREST's words are those at their homes once its reads have
had the host's modified halves snooped. -/
def Sys2Proof.Claims.TileResults : Prop :=
  (∀ (s : State) (o : Op) (l tile : Nat), steady s o (.mzero tile) l tile →
    ∃ t, exec (.matrixOpRetire o.id) s = .next t ∧ retired s t o tile ∧ ∀ w, w < 4096 → tileWord t tile w = 0) ∧
  (∀ (s : State) (o : Op) (l tile fmt : Nat) (r : Region), fmt < 3 → r.rows.length = 64 →
    (∀ x ∈ r.rows, x.length = [256, 128, 128].getD fmt 0) → steady s o (.mldt tile fmt r) l tile →
    ∃ t, exec (.matrixOpRetire o.id) s = .next t ∧ retired s t o tile ∧ ∀ i j, i < 64 → j < 64 →
      let row := bytesOfPlaces s (r.rows.getD i [])
      tileWord t tile (64 * i + j) = (if fmt = 0 then natOf ((row.drop (4 * j)).take 4)
        else (rnd32 (elemAt (fmt - 1) row j)).toNat)) ∧
  (∀ (s : State) (o : Op) (l tile : Nat) (src : List Place), src.length = 4096 →
    (∀ p ∈ src, ∀ q ∈ placeBytes p 4, s.served q false = true) → let u := s.touchPlaces src
    steady u o (.mrest tile src) l tile →
    ∃ t, exec (.matrixOpRetire o.id) s = .next t ∧ retired u t o tile ∧ ∀ w p, src[w]? = some p →
      tileWord t tile w = natOf (bytesOfPlaces u (placeBytes p 4))) ∧
  (∀ (s : State) (o : Op) (l tile : Nat) (cols : Bool) (row : List Place) (sc : List Place), row.length = 256 →
    steady s o (.mscale tile cols ⟨[row], sc⟩) l tile →
    ∃ t, exec (.matrixOpRetire o.id) s = .next t ∧ retired s t o tile ∧ ∀ i j, i < 64 → j < 64 →
      let f := natOf (((bytesOfPlaces s row).drop (4 * (if cols then j else i))).take 4)
      tileWord t tile (64 * i + j) =
        (rnd32 ((Num.val Num.f32 (tileWord s tile (64 * i + j))).mul (Num.val Num.f32 f))).toNat)

/-- R222, R223: MSTT writes each row of its tile in its format, MSAVE the tile's words; the tile stays. -/
def Sys2Proof.Claims.TileStores : Prop :=
  (∀ (s : State) (o : Op) (l tile fmt : Nat) (r : Region) (ls : List (List Loc)), fmt < 8 → ls.length = 64 →
    (r.rows = ls.map fun x => x.map Place.direct) → (∀ x ∈ ls, x.length = [256, 128, 128, 64, 64, 72, 48, 32].getD fmt 0) →
    (∀ x ∈ ls, ∀ y ∈ x, y.sp = .sram) → ls.flatten.Nodup → steady s o (.mstt tile fmt r) l tile →
    ∃ t, exec (.matrixOpRetire o.id) s = .next t ∧ gone s t o ∧
      (∀ i k y, i < 64 → (ls.getD i [])[k]? = some y →
        t.raw y = ((sttRow fmt fun j => tileWord s tile (64 * i + j)).getD k 0, false)) ∧
      ∀ y : Loc, (∀ x ∈ ls.flatten, x.key ≠ y.key) → t.raw y = s.raw y) ∧
  (∀ (s : State) (o : Op) (l tile a : Nat), a % 128 = 0 → a < 2 ^ 41 → s.moves = [] → LlcSound s →
    steady s o (.msave tile ((List.range 4096).map fun i => .homed ⟨.phys, a + 4 * i⟩ false)) l tile →
    (∀ i, i < 4096 → s.writable engineCore (.homed ⟨.phys, a + 4 * i⟩ false) = true) →
    ∃ t, exec (.matrixOpRetire o.id) s = .next t ∧ gone s t o ∧
      ∀ w, w < 4096 → natOf ((t.homeBytes ⟨.phys, a + 4 * w⟩ 4).map (·.1)) = tileWord s tile w)

/-- R220: OPRDY waits for the fragment's earlier stores and atomics, and changes nothing. -/
def Sys2Proof.Claims.OperandReady : Prop :=
  ∀ s : State, let stores := fun o : Op => o.wave = s.cur.wave ∧ s.cur.frag ∈ o.owners ∧ (o.isStore = true ∨ o.isAtomic = true)
    ((∀ o ∈ s.flight, ¬stores o) → exec .oprdy s = .next s.done) ∧
    ((∃ o ∈ s.flight, stores o) → exec .oprdy s = .next (stalls s))

namespace Sys2Proof.Claims

/-! ## Tasks, launches, placement -/

/-- Task records are kept under die and index, one each. -/
def oneRecord (s : State) : Prop := (s.tasks.map fun t => (t.die, t.idx)).Nodup

/-- x is the lowest free record of the die (R263). -/
def lowestFree (s : State) (die x : Nat) : Prop :=
  x < 65536 ∧ (s.task die x).st = .free ∧ ∀ y, y < x → (s.task die y).st ≠ .free

/-- The handle of a record (R262): 1, die, GEN, index. -/
def handleOf (t : Task) : DWord := (1#1 ++ BitVec.ofNat 3 t.die ++ t.gen ++ BitVec.ofNat 16 t.idx : BitVec 32).setWidth 64

/-- The record that a handle names, when it is live (R262). -/
def liveRec (s : State) (h : DWord) : Option Task :=
  let t := s.task (h.extractLsb' 28 3).toNat (h.extractLsb' 0 16).toNat
  if h.toNat < 2 ^ 32 ∧ h.getLsbD 31 = true ∧ t.gen = h.extractLsb' 16 12 ∧ t.st ≠ .free then some t else none

/-- The ROLE prefix of the unit. -/
def rolePrefix (s : State) : Option Nat := match s.cur.pfx with | some (.role r) => some r.toNat | _ => none

/-- Only the task table, the issue order and the open commit have changed. -/
def tasksOnly (s u : State) : Prop :=
  u = { s.commitMark with tasks := u.tasks, seq := u.seq }

/-- A record that has lost a predecessor (R262, R264, R266). -/
def lessDep (t u : Task) : Prop :=
  u = { t with dep := t.dep - 1, st := if t.dep - 1 = 0 ∧ t.st = .waiting then .ready else t.st, since := u.since }

/-- Every bridge of the route between two dies is open (R12). -/
def bridged (s : State) (a b : Nat) : Prop := ∀ i ∈ route a b, (s.firewall.getD i ⟨true, false, 0, 0⟩).opened = true

/-- The task fits the unit's wave (R260): its role, and registers, tiles and local bytes within the role's and the gang's
budgets. -/
def fitsUnit (s : State) (t : Task) : Prop :=
  let e := s.cv.types.getD t.typ 0
  t.st = .ready ∧ t.launch = s.cg.launch ∧ t.die = s.cw.die ∧ t.role = s.cw.role ∧
  (e.extractLsb' 72 6).toNat ≤ s.crole.regs ∧ (e.extractLsb' 80 5).toNat ≤ s.crole.tiles ∧
  (e.extractLsb' 88 24).toNat ≤ s.cl.block.scratch

/-- It is the one handed out: highest PRIO, then the earliest to become READY (R40, R265). -/
def handedOut (s : State) (t : Task) : Prop :=
  let prio (t : Task) : Nat := ((s.cv.types.getD t.typ 0).extractLsb' 85 3).toNat
  t ∈ s.tasks ∧ fitsUnit s t ∧
  ∀ u ∈ s.tasks, fitsUnit s u → u ≠ t → prio u < prio t ∨ (prio u = prio t ∧ t.since < u.since)

/-- The launch is drained (R265). -/
def isDrained (s : State) : Prop :=
  ∀ t ∈ s.tasks, t.launch = s.cg.launch → t.st ≠ .waiting ∧ t.st ≠ .ready ∧ (t.st = .running → t.holder = some s.cur.wave)

/-- Five scalars from s[d] (R265). -/
def putFive (s : State) (d : Nat) (vs : List DWord) : State :=
  (List.range 5).foldl (fun s i => s.writeS (d + i) (vs.getD i 0) 0) s

end Sys2Proof.Claims

/-- R261-R263, R268: TASKNEW's checks, a role that the launch does not define among them, and the record it makes in the lowest
free place of its die, with the slot that the launch's other records there have. -/
def Sys2Proof.Claims.TaskCreation : Prop :=
  ∀ (s : State) (f : X3), let sb := f.sb.toNat
    sOk s f.d.toNat = true → sReady s [f.sa.toNat, sb, sb + 1] = true →
    let i := (sv s f.sa).toNat
    let n := (s.sreg sb).val.toNat
    let c := (s.sreg (sb + 1)).val
    let lacks := ∃ r, rolePrefix s = some r ∧ (s.cl.block.roles.length ≤ r ∨ (s.cl.block.roles.getD r {}).wgs = 0)
    ((s.sreg f.sa.toNat).tag ≠ 0 ∨ 256 ≤ i ∨ 65536 ≤ n ∨ 2 ^ 48 ≤ c.toNat →
      exec (.tasknew f) s = .next (s.takeTrap ⟨0x01, 0, 0, false⟩)) ∧
    ((s.sreg f.sa.toNat).tag = 0 → i < 256 → n < 65536 → c.toNat < 2 ^ 48 →
      (lacks → exec (.tasknew f) s = .next (s.takeTrap ⟨0x19, BitVec.ofNat 72 ((rolePrefix s).getD 0), 0, false⟩)) ∧
      (¬lacks → s.cl.block.ttcount ≤ i → exec (.tasknew f) s = .next (s.takeTrap ⟨0x01, 0, 0, false⟩)) ∧
      (¬lacks → i < s.cl.block.ttcount → s.settled = true → s.cw.mode ≠ .recompute → oneRecord s →
        ((∀ x, x < 65536 → (s.task s.cw.die x).st ≠ .free) →
          exec (.tasknew f) s = .next (s.commitMark.writeS f.d.toNat 0 0).done) ∧
        (∀ x, lowestFree s s.cw.die x → s.cl.vd = s.cg.vd → s.cw.die < 8 →
          ∃ u, exec (.tasknew f) s = .next (u.writeS f.d.toNat (handleOf (u.task s.cw.die x)) 0).done ∧ tasksOnly s u ∧
            u.task s.cw.die x = { s.task s.cw.die x with
              typ := s.cl.block.ttfirst + i
              st := if n = 0 then .ready else .waiting
              launch := s.cg.launch
              lslot := (u.task s.cw.die x).lslot
              tx := c.extractLsb' 0 16
              ty := c.extractLsb' 16 16
              tz := c.extractLsb' 32 16
              dep := n
              succ := []
              rrole := (rolePrefix s).isSome
              role := (rolePrefix s).getD ((s.cv.types.getD (s.cl.block.ttfirst + i) 0).extractLsb' 64 2).toNat
              holder := none
              since := (u.task s.cw.die x).since } ∧
            (∀ t ∈ s.tasks, t.die = s.cw.die → t.st ≠ .free → t.launch = s.cg.launch →
              (∀ t' ∈ s.tasks, t'.die = s.cw.die → t'.st ≠ .free → t'.launch = s.cg.launch → t'.lslot = t.lslot) →
              (u.task s.cw.die x).lslot = t.lslot) ∧
            ∀ d y, (d, y) ≠ (s.cw.die, x) → u.task d y = s.task d y)))

/-- R264: TASKDEP links a successor, or counts a predecessor that is done, or says why not. That a successor's die behind a closed
bridge is BAD, and counted there, is the model's choice, log 117. -/
def Sys2Proof.Claims.TaskDependences : Prop :=
  ∀ (s : State) (f : X3), sOk s f.d.toNat = true → sReady s [f.sa.toNat, f.sb.toNat] = true → s.settled = true →
    s.cw.mode ≠ .recompute →
    let p := sv s f.sa
    let q := sv s f.sb
    let answer (u : State) (v : DWord) := exec (.taskdep f) s = .next (u.writeS f.d.toNat v 0).done
    let die := (q.extractLsb' 28 3).toNat
    (¬bridged s s.cw.die die → answer (s.commitMark.drops s.cw.die die) 3) ∧
    (bridged s s.cw.die die →
    (liveRec s q = none → answer s.commitMark 3) ∧
    (∀ t, liveRec s q = some t → t.st ≠ .waiting ∨ t.dep = 0 ∨ (p.extractLsb' 28 3).toNat ≠ t.die → answer s.commitMark 3) ∧
    (∀ t, liveRec s q = some t → t.st = .waiting → t.dep ≠ 0 → (p.extractLsb' 28 3).toNat = t.die →
      (∀ u, liveRec s p = some u → 6 ≤ u.succ.length → answer s.commitMark 2) ∧
      (∀ u, liveRec s p = some u → u.succ.length < 6 → ∃ x, answer x 0 ∧ tasksOnly s x ∧
        x.task u.die u.idx = { u with succ := u.succ ++ [t.idx] } ∧
        ∀ d y, (d, y) ≠ (u.die, u.idx) → x.task d y = s.task d y) ∧
      (liveRec s p = none → ∃ x, answer x 1 ∧ tasksOnly s x ∧ lessDep t (x.task t.die t.idx) ∧
        ∀ d y, (d, y) ≠ (t.die, t.idx) → x.task d y = s.task d y)))

/-- R260, R265: TASKGET receives the fitting task of highest priority, the earliest READY among equals; zeros when the
launch is drained; else its fragment parks. R364: in recompute code it raises PRIV. -/
def Sys2Proof.Claims.TaskHandOut : Prop :=
  ∀ (s : State) (d : BitVec 6), (List.range 5).all (fun i => sOk s (d.toNat + i)) = true →
    (∀ t, handedOut s t → s.waiterBefore t (if s.cf.park = .task then s.cf.parkSeq else s.seq) = false →
      s.cw.mode ≠ .recompute → t.die < 8 → t.idx < 65536 → ∃ u, tasksOnly s u ∧
      exec (.taskget d) s = .next (putFive u d.toNat [handleOf t, (s.cv.types.getD t.typ 0).extractLsb' 0 64,
        t.tx.setWidth 64, t.ty.setWidth 64, t.tz.setWidth 64]).done ∧
      u.task t.die t.idx = { t with st := .running, holder := some s.cur.wave } ∧
      ∀ e y, (e, y) ≠ (t.die, t.idx) → u.task e y = s.task e y) ∧
    ((∀ t ∈ s.tasks, ¬fitsUnit s t) → isDrained s → s.cw.mode ≠ .recompute →
      exec (.taskget d) s = .next (putFive s.commitMark d.toNat []).done) ∧
    (s.cw.mode = .recompute → exec (.taskget d) s = .next (s.takeTrap ⟨0x1A, 0, 0, false⟩)) ∧
    ((∀ t ∈ s.tasks, ¬fitsUnit s t) → ¬isDrained s → s.cw.mode ≠ .recompute →
      (s.cf.park = .task → exec (.taskget d) s = .next (stalls s)) ∧
      (s.cf.park ≠ .task → Cur s → s.cur.undo = none → ∃ t, exec (.taskget d) s = .next t ∧ t.cf = { s.cf with park := .task, parkSeq := s.seq } ∧
        t.tasks = s.tasks ∧ t.mem = s.mem ∧ t.flight = s.flight))

/-- R266: TASKDONE frees a task its wave holds and lowers its successors' counts; 1 for any other handle. -/
def Sys2Proof.Claims.TaskCompletion : Prop :=
  ∀ (s : State) (a d : BitVec 6), sOk s d.toNat = true → sReady s [a.toNat] = true → s.settled = true → s.cw.mode ≠ .recompute →
    (∀ t, liveRec s (sv s a) = some t → t.st = .running → t.holder = some s.cur.wave → t.succ.Nodup → t.idx ∉ t.succ →
      ∃ u, exec (.taskdone a d) s = .next (u.writeS d.toNat 0 0).done ∧ tasksOnly s u ∧
        u.task t.die t.idx = { die := t.die, idx := t.idx, gen := t.gen + 1 } ∧
        (∀ i ∈ t.succ, lessDep (s.task t.die i) (u.task t.die i)) ∧
        ∀ e y, (e, y) ≠ (t.die, t.idx) → (e ≠ t.die ∨ y ∉ t.succ) → u.task e y = s.task e y) ∧
    ((∀ t, liveRec s (sv s a) = some t → t.st ≠ .running ∨ t.holder ≠ some s.cur.wave) →
      exec (.taskdone a d) s = .next (s.commitMark.writeS d.toNat 1 0).done)

/-- R268, R413: LNCH's checks; it appends an entry to the stream's device queue with the stream's next number, or says that the
queue is full. -/
def Sys2Proof.Claims.LaunchAppends : Prop :=
  ∀ (s : State) (f : X3), sOk s f.d.toNat = true → sReady s [f.sa.toNat, f.sb.toNat] = true →
    let a := s.sreg f.sa.toNat
    let st := (sv s f.sb).toNat
    (16 ≤ st → exec (.lnch f) s = .next (s.takeTrap ⟨0x01, 0, 0, false⟩)) ∧
    (st < 16 → a.val.toNat % 128 ≠ 0 → exec (.lnch f) s = .next (s.takeTrap ⟨0x02, a.tag ++ a.val, 0, false⟩)) ∧
    (st < 16 → a.val.toNat % 128 = 0 → a.tag ≠ 0 → exec (.lnch f) s = .next (s.takeTrap ⟨0x04, a.tag ++ a.val, 0, false⟩)) ∧
    (∀ ps v, st < 16 → a.val.toNat % 128 = 0 → a.tag = 0 → globalRange s a 512 .r = some ps → watchedAt s [(a, 512)] = some v →
      exec (.lnch f) s = .next (s.takeTrap ⟨0x13, v, 0, false⟩)) ∧
    (∀ ps l ms, st < 16 → a.val.toNat % 128 = 0 → a.tag = 0 → globalRange s a 512 .r = some (.homed l ms :: ps) →
      watchedAt s [(a, 512)] = none → s.settled = true →
      let last := ((s.homeByte (l.plus 1)).1.extractLsb' 0 2).toNat
      (∀ r, rolePrefix s = some r → last < r → exec (.lnch f) s = .next (s.takeTrap ⟨0x19, BitVec.ofNat 72 r, 0, false⟩)) ∧
      ((∀ r, rolePrefix s = some r → r ≤ last) → s.cw.mode ≠ .recompute → st < s.cv.streams.length →
        let q := s.cv.streams.getD st {}
        (32 ≤ q.devq.length → exec (.lnch f) s = .next (s.commitMark.writeS f.d.toNat 0 0).done) ∧
        (q.devq.length < 32 → ∃ u : State, exec (.lnch f) s = .next (u.writeS f.d.toNat (q.seqc.setWidth 64) 0).done ∧
          u = { s.commitMark with vds := u.vds } ∧ (∀ e, e ≠ s.cg.vd → u.vd e = s.vd e) ∧
          u.cv.streams.getD st {} = { q with
            devq := q.devq ++ [⟨a.val, q.seqc, rolePrefix s⟩]
            seqc := if q.seqc = 0xFFFFFFFF then 1 else q.seqc + 1
            order := q.order ++ [true] })))

namespace Sys2Proof.Claims

/-! ## The stream engine and the placer -/

/-- A field of a launch block: n bits from bit lo of byte off (R256). -/
def blk (x : BitVec 4096) (off lo n : Nat) : Nat := (x.extractLsb' (8 * off + lo) n).toNat

/-- The bits of a block that have a meaning: first bit and width (R256, R257). -/
def assigned (nroles nseed : Nat) : List (Nat × Nat) :=
  [(0, 10), (32, 32), (64, 64), (8 * 0x50, 38), (8 * 0x58, 17), (8 * 0x58 + 24, 4), (8 * 0x60, 64)]
    ++ (List.range nroles).map (fun r => (8 * 0x10 + 128 * r, 84))
    ++ (List.range 15).flatMap (fun i => [(8 * 0x80 + 128 * i, 72), (8 * 0x170 + 16 * i, 2), (8 * 0x170 + 16 * i + 8, 8)])
    ++ (List.range nseed).flatMap fun j => [(8 * 0x190 + 64 * j, 8), (8 * 0x190 + 64 * j + 16, 48)]

/-- Role r as the block lists it: entry, registers, waves, workgroups, VXACQ allowed, tiles (R256). -/
def roleAt (x : BitVec 4096) (r : Nat) : Role :=
  { entry := BitVec.ofNat 64 (blk x (0x10 + 16 * r) 0 64), regs := blk x (0x10 + 16 * r) 64 6
    waves := blk x (0x10 + 16 * r) 70 5, wgs := blk x (0x10 + 16 * r) 75 3, xb := blk x (0x10 + 16 * r) 78 1 == 1
    tiles := blk x (0x10 + 16 * r) 79 5 }

/-- The block is one that R256 accepts; `role`: LNCH's role, which it is then read to list alone (R268). -/
structure GoodBlock (s : State) (d : Nat) (x : BitVec 4096) (role : Option Nat) : Prop where
  reserved : ∀ i, i < 4096 → x.getLsbD i = true →
    ∃ r ∈ assigned (blk x 0 8 2 + 1) (min (blk x 0x58 24 4) 8), r.1 ≤ i ∧ i < r.1 + r.2
  version : blk x 0 0 8 = 1
  gangs : 1 ≤ blk x 0 32 32
  types : blk x 0x58 8 9 ≤ 256 ∧ blk x 0x58 0 8 + blk x 0x58 8 9 ≤ 256
  banks : blk x 0x50 32 6 ≤ 32 ∧ (blk x 0x50 0 32 + 131071) / 131072 + blk x 0x50 32 6 ≤ 32
  roles : ∀ r, r ≤ blk x 0 8 2 → let p := roleAt x r
    p.entry.getLsbD 0 = false ∧ 1 ≤ p.regs ∧ p.regs ≤ 40 ∧ 1 ≤ p.waves ∧ p.waves ≤ 16 ∧ 1 ≤ p.wgs ∧ p.wgs ≤ 4 ∧ p.tiles ≤ 16
  groups : let n := (((List.range (blk x 0 8 2 + 1)).filter fun r => role.all (· == r)).map fun r => (roleAt x r).wgs).sum
    1 ≤ n ∧ n ≤ 4
  tags : ∀ i, i < 15 → blk x (0x170 + 2 * i) 0 1 = 1 →
    let t := blk x (0x170 + 2 * i) 8 8
    t = 0 ∨ t = 1 ∨ t = 0xF0 ∨ (0x10 ≤ t ∧ t ≤ 0x1F)
  tasks : ∀ k, k < blk x 0x58 8 9 → let e := (s.vd d).types.getD (blk x 0x58 0 8 + k) 0
    let r := (e.extractLsb' 64 2).toNat
    e.getLsbD 66 = true ∧ r ≤ blk x 0 8 2 ∧ role.all (· == r) = true ∧ (e.extractLsb' 72 6).toNat ≤ (roleAt x r).regs ∧
    (e.extractLsb' 80 5).toNat ≤ (roleAt x r).tiles ∧ (e.extractLsb' 88 24).toNat ≤ blk x 0x50 0 32
  seeds : blk x 0x58 24 4 ≤ 8 ∧ ∀ j, j < blk x 0x58 24 4 → blk x (0x190 + 8 * j) 0 8 < blk x 0x58 8 9

/-- The binding rows hold (R257): the argument carries the tag, and its first byte's page allows the access. -/
def bindsHold (s : State) (d : Nat) (x : BitVec 4096) : Prop :=
  ∀ i, i < 15 → blk x (0x170 + 2 * i) 0 1 = 1 →
    blk x (0x80 + 16 * i) 64 8 = blk x (0x170 + 2 * i) 8 8 ∧
    ∃ p, s.translate engineCore d 0 0 (x.extractLsb' (8 * (0x80 + 16 * i)) 72) (if blk x (0x170 + 2 * i) 1 1 = 1 then .rw else .r) = .ok p

/-- An entry of this kind and code has been written in the device's event queue (R396). -/
def reported (s t : State) (d kind code : Nat) : Prop :=
  (t.raw ⟨.cmd d, 32 * ((s.vd d).eqwr % 1024)⟩).1.toNat = kind ∧
  (t.raw ⟨.cmd d, 32 * ((s.vd d).eqwr % 1024) + 1⟩).1.toNat = code ∧ (t.vd d).eqwr = ((s.vd d).eqwr + 1) % 2048

/-- The device's event queue has room, and nothing waits before it. -/
def eqRoom (s : State) (d : Nat) : Prop :=
  (s.vd d).eqHeld = [] ∧ ((s.vd d).eqwr + 2048 - (s.vd d).eqrd) % 2048 < 1024

/-- The device exists, is not lodged and is not being reset: its streams run (R404, R406). -/
def runs (s : State) (d : Nat) : Prop :=
  d < s.vds.length ∧ (s.vd d).live = true ∧ (s.vd d).lodge = 0 ∧ (s.vd d).resetting = none

/-- What becomes of a launch that has been taken (R254, R256-R258): status BADBLOCK, BADBIND, or a launch for the placer. -/
def taken (s t : State) (d : Nat) (addr : DWord) (bad : Bool) (role : Option Nat) : Prop :=
  let l := t.launch s.launches.length
  let code (c : Nat) : Prop := l.done = true ∧ reported s t d 1 c
  (bad = true ∨ addr.toNat % 128 ≠ 0 ∨ s.engRead d addr.toNat 512 = none → code 1) ∧
  (∀ bs, bad = false → addr.toNat % 128 = 0 → s.engRead d addr.toNat 512 = some bs →
    let x := BitVec.ofNat 4096 (natOf bs)
    (¬GoodBlock s d x role → code 1) ∧
    (GoodBlock s d x role → ¬bindsHold s d x → code 2) ∧
    (GoodBlock s d x role → bindsHold s d x → l.done = false ∧ l.placed = 0 ∧ l.retired = 0 ∧
      l.block.ngangs = blk x 0 32 32 ∧ l.block.ttfirst = blk x 0x58 0 8 ∧ l.block.ttcount = blk x 0x58 8 9 ∧
      l.block.scratch = blk x 0x50 0 32 ∧ l.block.fifos = blk x 0x50 32 6 ∧
      l.block.event.toNat = blk x 0x60 0 64 ∧
      (∀ r, r ≤ blk x 0 8 2 → l.block.roles.getD r {} =
        { roleAt x r with wgs := if role.all (· == r) then (roleAt x r).wgs else 0 }) ∧
      ∀ i, i < 15 → l.block.args.getD i {} = { val := BitVec.ofNat 64 (blk x (0x80 + 16 * i) 0 64)
                                               tag := BitVec.ofNat 8 (blk x (0x80 + 16 * i) 64 8) }))

/-- Free wave slots of partition p of a core. -/
def freeIn (s : State) (die cl core p : Nat) : Nat :=
  ((List.range 16).filter fun k => !(s.waves.any fun w => w.mode != .ended && (s.gang w.gang).placed &&
    w.partNo == ((20 * die + cl) * 4 + core) * 4 + p && w.slot == k)).length

/-- A workgroup of n waves and t tiles fits on the core (R32, R208): a workgroup slot, the tiles, and a wave slot for wave
i on partition (p + i) mod 4, where p is the partition with the most free slots, the lowest on a tie. -/
def wgRoom (s : State) (die cl core n t : Nat) : Prop :=
  let here := s.gangs.flatMap fun g => if g.placed && g.die == die && g.cluster == cl then g.wgs.filter (·.core == core) else []
  (∃ k, k < 16 ∧ ∀ w ∈ here, w.slot ≠ k) ∧ (here.map (·.tiles)).sum + t ≤ 16 ∧
  ∃ p, p < 4 ∧ (∀ q, q < 4 → freeIn s die cl core q ≤ freeIn s die cl core p) ∧
    (∀ q, q < p → freeIn s die cl core q < freeIn s die cl core p) ∧
    ∀ q, q < 4 → ((List.range n).filter fun i => (p + i) % 4 == q).length ≤ freeIn s die cl core q

/-- The gang fits with its first workgroup on core c (R33): each workgroup on the next core, and its banks. -/
def gangRoom (s : State) (die cl c : Nat) (ws : List Want) (banks : Nat) : Prop :=
  banks ≤ ((List.range 32).filter fun b => !(s.banksUsed die cl).contains b).length ∧
  ∀ i w, ws[i]? = some w → wgRoom s die cl (c + i) w.waves w.tiles

/-- The dies of a hard partition, the lowest first (R259, R262). -/
def diesUp (s : State) (part : Nat) : List Nat := (List.range 8).filter fun die => (s.partitions.getD part []).contains die

/-- The priority of a launch's stream. -/
def prioAt (s : State) (i : Nat) : Nat := ((s.vd (s.launch i).vd).streams.getD (s.launch i).stream {}).prio

/-- The next gang of launch j, of a device of the partition whose streams run, has starved. -/
def stops (s : State) (part j : Nat) : Prop :=
  j < s.launches.length ∧ (s.launch j).done = false ∧ (s.launch j).placed < (s.launch j).block.ngangs ∧
  (s.launch j).starved = true ∧ runs s (s.launch j).vd ∧ (s.vd (s.launch j).vd).part = part

/-- The lowest FREE slot of a die (R272). -/
def freeSlot (s : State) (d die own : Nat) : Prop :=
  ((List.range 1024).find? fun i => (s.btRead d die i).map (fun x => field x 0 2) == some 0) = some own

/-- Allowed first cores (R33). -/
def coresFor (n : Nat) : List Nat := [[], [0, 1, 2, 3], [0, 2], [0, 1], [0]].getD n []

end Sys2Proof.Claims

/-- R253-R258, R268: the stream engine takes a stream's oldest entry, from the device queue or the ring, once the
launch before it is placed, and complete where SERIAL asks for it. What the host holds modified of the block is snooped first
(R379), once no request of the host is in flight for it (R382). That an entry of the ring is taken at
RDIDX, the head of the stream, is the model's choice, log 84. -/
def Sys2Proof.Claims.LaunchTaken : Prop :=
  (∀ (s : State) (d st : Nat) (e : DevEnt) (es : List DevEnt) (rest : List Bool), runs s d → (s.vd d).rerun = [] →
    (s.vd d).recording = false → st < (s.vd d).streams.length →
    let q := (s.vd d).streams.getD st {}
    q.en = true → q.order = true :: rest → q.devq = e :: es → eqRoom s d → s.canon →
    (∀ p, s.lastLaunch d st = some p → p.done = true ∨ p.placed = p.block.ngangs) → s.engReady d e.block.toNat 512 = true →
    ∃ t, exec (.launchTake d st true) s = .next t ∧ t.launches.length = s.launches.length + 1 ∧
      (t.vd d).streams.getD st {} = { q with devq := es, order := rest } ∧
      (let l := t.launch s.launches.length
       l.vd = d ∧ l.stream = st ∧ l.dev = true ∧ l.seq = e.seq) ∧ taken (s.engSnoop d e.block.toNat 512) t d e.block false e.role) ∧
  (∀ (s : State) (d st : Nat) (rest : List Bool), runs s d → (s.vd d).rerun = [] →
    (s.vd d).recording = false → st < (s.vd d).streams.length →
    let q := (s.vd d).streams.getD st {}
    let e := BitVec.ofNat 512 (natOf ((s.raws ⟨.cmd d, 0x8040 + 0x800 * st + 0x40 * q.rdidx⟩ 64).map (·.1)))
    q.en = true → q.order = false :: rest → eqRoom s d → s.canon →
    (∀ p, s.lastLaunch d st = some p → p.done = true ∨ (p.placed = p.block.ngangs ∧ e.getLsbD 96 = false)) →
    s.engReady d (e.extractLsb' 0 64).toNat 512 = true →
    ∃ t, exec (.launchTake d st false) s = .next t ∧ t.launches.length = s.launches.length + 1 ∧
      (t.vd d).streams.getD st {} = { q with rdidx := (q.rdidx + 1) % 31, order := rest } ∧
      (let l := t.launch s.launches.length
       l.vd = d ∧ l.stream = st ∧ l.dev = false ∧ l.seq = e.extractLsb' 64 32 ∧ l.serial = e.getLsbD 96) ∧
      taken (s.engSnoop d (e.extractLsb' 0 64).toNat 512) t d (e.extractLsb' 0 64) (e.extractLsb' 97 415 != 0) none)

/-- R32, R33, R208, R259: the placer takes the first fit: dies, clusters and first cores in ascending order. -/
def Sys2Proof.Claims.FirstFit : Prop :=
  ∀ (s : State) (dies : List Nat) (ws : List Want) (banks : Nat), 1 ≤ ws.length → ws.length ≤ 4 → (∀ w ∈ ws, w.old = none) →
    (s.fitGang dies ws banks = none ↔
      ∀ die ∈ dies, ∀ cl, cl < 20 → ∀ c ∈ coresFor ws.length, ¬gangRoom s die cl c ws banks) ∧
    (∀ f, s.fitGang dies ws banks = some f → let c := (f.wgs.headD default).core
      f.die ∈ dies ∧ f.cluster < 20 ∧ c ∈ coresFor ws.length ∧ gangRoom s f.die f.cluster c ws banks ∧
      f.wgs.length = ws.length ∧ (∀ i w, f.wgs[i]? = some w → w.core = c + i ∧ w.places.length = (ws.getD i default).waves) ∧
      f.banks.length = banks ∧ (∀ b ∈ f.banks, b < 32 ∧ b ∉ s.banksUsed f.die f.cluster) ∧ f.banks.Nodup ∧
      (∀ die ∈ dies.takeWhile (· != f.die), ∀ cl, cl < 20 → ∀ c' ∈ coresFor ws.length, ¬gangRoom s die cl c' ws banks) ∧
      (∀ cl, cl < f.cluster → ∀ c' ∈ coresFor ws.length, ¬gangRoom s f.die cl c' ws banks) ∧
      ∀ c' ∈ coresFor ws.length, c' < c → ¬gangRoom s f.die f.cluster c' ws banks)

/-- R33, R35, R91, R156, R208, R262: a gang is placed whole: its banks and tiles are 0, its waves start with the launch's
scalars and every other register 0 and FULL, and the seeds become READY with its launch's first gang. -/
def Sys2Proof.Claims.GangPlaced : Prop :=
  ∀ (s : State) (part d i : Nat) (f : GangFit), let l := s.launch i
    let b := l.block
    let dies := diesUp s part
    s.holder part = some d → (s.hasPlaced d = true ∨ s.wants d = true) → runs s d → s.ending d = false →
    s.candidates d = [i] → s.stopped d i = false → i < s.launches.length → l.vd = d →
    (l.placed ≠ 0 ∨ (s.tasks = [] ∧ b.seeds.length ≤ 8 ∧ dies ≠ [])) →
    s.fitGang dies b.wants (b.scratchBanks + b.fifos) = some f →
    ∃ t, exec (.gangPlace part) s = .next t ∧ t.gangs.length = s.gangs.length + 1 ∧ (t.launch i).placed = l.placed + 1 ∧
      (∀ g, g < s.gangs.length → t.gang g = s.gang g) ∧ (∀ w, w < s.waves.length → t.wave w = s.wave w) ∧
      (let g := t.gang s.gangs.length
       g.launch = i ∧ g.vd = d ∧ g.index = l.placed ∧ g.die = f.die ∧ g.cluster = f.cluster ∧ g.st = .resident ∧
       g.banks.length = f.banks.length ∧
       (∀ k p, f.banks[k]? = some p → g.banks.getD k {} = { phys := p, mode := if k < (b.scratch + 131071) / 131072 then .scratch else .fifo } ∧
         ∀ j, j < 2 ^ 17 → t.raw ⟨.sram, ((20 * f.die + f.cluster) * 32 + p) * 2 ^ 17 + j⟩ = (0, false)) ∧
       (∀ (k : Nat) (wg : Wg), g.wgs[k]? = some wg → ∀ p tile j, p < 4 → tile < wg.tiles → j < 16384 →
         t.raw ⟨.tile, (((20 * f.die + f.cluster) * 4 + wg.core) * 4 * 128 + p * 128 + (wg.tileBase + tile)) * 16384 + j⟩ = (0, false)) ∧
       (∀ (k : Nat) (wg : Wg) (j w : Nat), g.wgs[k]? = some wg → wg.waves[j]? = some w → s.waves.length ≤ w ∧
         let x := t.wave w
         let h := x.frags.headD {}
         x.gang = s.gangs.length ∧ x.wg = k ∧ x.idx = j ∧ x.role = wg.role ∧ x.mode = .run ∧ x.commit = false ∧
         x.v = List.replicate 56 {} ∧ x.k = 0xFFFFFFFF :: List.replicate 7 0 ∧ x.piste = 32 ∧ x.obsd = 0x21 ∧ x.rngc = 0 ∧
         x.rngk = 0 ∧ x.xbh = 0 ∧ x.stat = 0 ∧ x.ports = List.replicate 8 none ∧ x.frags.tail = List.replicate 7 {} ∧
         h.live = true ∧ h.lanes = 0xFFFFFFFF ∧ h.exm = 0xFFFFFFFF ∧ h.pc = (b.roles.getD wg.role {}).entry ∧
         h.s.length = 64 ∧ (∀ r, 1 ≤ r → r ≤ 15 → h.s.getD r {} = b.args.getD (r - 1) {}) ∧
         ((List.range 6).map fun r => h.s.getD (16 + r) {}) =
           [l.placed, k, j, wg.role, (b.roles.getD wg.role {}).waves, b.ngangs].map (fun v => ({ val := BitVec.ofNat 64 v } : SReg)) ∧
         ∀ r, 22 ≤ r → r < 64 → h.s.getD r {} = {})) ∧
      (l.placed = 0 → ∀ j e, b.seeds[j]? = some e →
        let u := t.task (dies.getD (j % dies.length) 0) (j / dies.length)
        u.st = .ready ∧ u.typ = b.ttfirst + (e.extractLsb' 0 8).toNat ∧ u.launch = i ∧ u.dep = 0 ∧
        u.tx = e.extractLsb' 16 16 ∧ u.ty = e.extractLsb' 32 16 ∧ u.tz = e.extractLsb' 48 16)

/-- R259: a gang that has waited 1 ms stops the gangs of equal or lower priority of its hard partition, its own device's and
others', from being placed, and pre-empted ones from being placed again; of those of equal priority that have waited so long
themselves, log 97 says which. -/
def Sys2Proof.Claims.Starvation : Prop :=
  (∀ (s : State) (l : Nat), l < s.launches.length → (s.launch l).done = false → (s.launch l).placed < (s.launch l).block.ngangs →
    (s.launch l).starved = false → (s.launch l).waitFrom + 1000000 ≤ s.time →
    exec (.placementStarvation l) s = .next (s.modLaunch l fun x => { x with starved := true })) ∧
  (∀ (s : State) (l : Nat), s.time < (s.launch l).waitFrom + 1000000 → exec (.placementStarvation l) s = .next s) ∧
  (∀ (s : State) (d i j : Nat), stops s (s.vd d).part j → j ≠ i → prioAt s i ≤ prioAt s j →
    (s.launch i).starved = false ∨ prioAt s i ≠ prioAt s j → s.stopped d i = true) ∧
  (∀ (s : State) (g j : Nat), stops s (s.vd (s.gang g).vd).part j → prioAt s (s.gang g).launch ≤ prioAt s j →
    exec (.gangResume g) s = .next s)

/-- R271, R272: BTBASE; a steal takes the oldest IDLE slot with NEXT set of another die once its own die has been without
a task for 10 µs; its claim compares word 0 as the engine read it and takes the slot from IDLE to MOVING, once the leases on the
records have passed, with a page for each of the sequence's, and takes nothing where the word has changed or the pool is short;
at its end the sequence's pages are those it copied and a task of STEPTYPE is ready, or, if word 0 of the old slot is no longer
the one that the engine wrote, the copies go back to the pool. That a claim takes nothing where the pool is short is the model's
choice, log 54. -/
def Sys2Proof.Claims.Steals : Prop :=
  (∀ (s : State) (die d l : Nat) (base : DWord), d < s.vds.length → (s.vd d).live = true →
    ∃ t, exec (.btbaseSet die d base l) s = .next t ∧ (t.vd d).btlaunch = some l ∧
      ((t.vd d).btbase.find? fun b => b.1 == die) = some (die, base) ∧ ∀ e, e ≠ d → t.vd e = s.vd e) ∧
  (∀ (s : State) (die : Nat), (∀ x ∈ s.steals, x.die ≠ die) →
    (∀ d l, (s.vd d).btlaunch = some l → s.btIdle d l die = false ∨ s.stealable d die = []) →
    exec (.steal die) s = .next s) ∧
  (∀ (s : State) (die d l own : Nat) (v : Nat × Nat × Nat) (vs : List (Nat × Nat × Nat)), d < 64 →
    (∀ e, e ≠ d → (s.vd e).btlaunch = none) → (s.vd d).btlaunch = some l → (s.vd d).live = true → s.btIdle d l die = true →
    (s.launch l).done = false → (∀ x ∈ s.steals, x.die ≠ die) → s.stealable d die = v :: vs → freeSlot s d die own →
    exec (.steal die) s = .next { (s.btSnoop d v.2.1 v.2.2).btSnoop d die own with
      steals := s.steals ++ [⟨die, own, v.2.1, v.2.2, d, false, [], (s.btRead d v.2.1 v.2.2).getD 0 % 2 ^ 64⟩] }) ∧
  (∀ (s : State) (st : Steal) (x own : Nat), s.steals.find? (fun y => y.die == st.die) = some st → st.claimed = false →
    s.btRead st.vd st.from_ st.fromSlot = some x → freeSlot s st.vd st.die own →
    let held := match (s.vd st.vd).rink (field x 16 16) with | some r => r.pages | none => []
    let rest := s.steals.filter fun y => y.die != st.die
    ((s.btFree st.vd st.from_ st.fromSlot && s.btFree st.vd st.die own) = false → exec (.steal st.die) s = .next s) ∧
    ((s.btFree st.vd st.from_ st.fromSlot && s.btFree st.vd st.die own) = true →
      (x % 2 ^ 64 ≠ st.word ∨ (s.vd st.vd).pool.length < held.length →
        exec (.steal st.die) s = .next { s.btSnoop st.vd st.from_ st.fromSlot with steals := rest }) ∧
      (x % 2 ^ 64 = st.word → field x 0 2 = 1 → held.length ≤ (s.vd st.vd).pool.length → st.vd < s.vds.length → ∃ t c, exec (.steal st.die) s = .next t ∧
        t.steals = rest ++ [{ st with slot := own, claimed := true, word := (x + 2) % 2 ^ 64, copied := c }] ∧
        (c.map fun y => (y.1, y.2.1, y.2.2.1)) = held ∧ c.map (·.2.2.2) = (s.vd st.vd).pool.take held.length ∧
        (t.vd st.vd).pool = (s.vd st.vd).pool.drop held.length ∧
        t.mem = ((s.btWrite st.vd st.from_ st.fromSlot (bytesOf 8 ((x + 2) % 2 ^ 64))).btWrite st.vd st.die own
          (bytesOf 32 (x + 2))).mem))) ∧
  (∀ (s : State) (st : Steal) (o n h : Nat) (r : Rink), s.steals.find? (fun x => x.die == st.die && x.claimed) = some st →
    s.btRead st.vd st.from_ st.fromSlot = some o → s.btRead st.vd st.die st.slot = some n → h = field n 16 16 →
    s.btFree st.vd st.from_ st.fromSlot = true → s.btFree st.vd st.die st.slot = true →
    (∀ c ∈ st.copied, s.copyReady c = true) → st.vd < s.vds.length → (s.vd st.vd).rink h = some r →
    let was (c : Nat × Nat × Nat × Nat) := (c.1, c.2.1, c.2.2.1)
    let is (c : Nat × Nat × Nat × Nat) := (c.1, c.2.1, c.2.2.2)
    (o % 2 ^ 64 ≠ st.word → ∃ t, exec (.stealFinish st.die) s = .next t ∧ t.steals = s.steals.filter (fun x => x.die != st.die) ∧
      (t.vd st.vd).pool = (s.vd st.vd).pool ++ st.copied.map (·.2.2.2) ∧ (t.vd st.vd).rink h = some r ∧ t.tasks = s.tasks) ∧
    (o % 2 ^ 64 = st.word → s.pinned st.vd (BitVec.ofNat 64 (2 ^ 56 + h)) = false → r.pages.Nodup → (st.copied.map was).Nodup →
      (∀ c ∈ st.copied, was c ∈ r.pages ∧ is c ∉ r.pages) →
      ∃ t r', exec (.stealFinish st.die) s = .next t ∧ t.steals = s.steals.filter (fun x => x.die != st.die) ∧
        (t.vd st.vd).pool = (s.vd st.vd).pool ++ st.copied.map (·.2.2.1) ∧ (t.vd st.vd).rink h = some r' ∧
        r' = { r with pages := r'.pages } ∧
        (∀ e, e ∈ r'.pages ↔ (e ∈ r.pages ∧ e ∉ st.copied.map was) ∨ e ∈ st.copied.map is) ∧
        (∀ k l, oneRecord s → lowestFree s st.die k → (s.vd st.vd).btlaunch = some l → (s.launch l).done = false →
          (t.task st.die k).st = .ready ∧ (t.task st.die k).launch = l ∧ (t.task st.die k).tx = BitVec.ofNat 16 st.slot ∧
          (t.task st.die k).typ = (s.launch l).block.ttfirst + field n 8 8)))

namespace Sys2Proof.Claims

/-! ## Saved state -/

/-- A number of n bytes in the entry that comes next in the device's event queue (R396). -/
def entryAt (s t : State) (d off n : Nat) : Nat := natOf ((t.raws ⟨.cmd d, 32 * ((s.vd d).eqwr % 1024) + off⟩ n).map (·.1))

/-- The supervisor's queue has room, and reports are made (R396, R397). -/
def pfRoom (s : State) : Prop := s.recovery = false ∧ s.pfHeld = [] ∧ (s.pfWr + 2048 - s.pfRd) % 2048 < 1024

/-- A report of kind 4 with this cause about gang g and wave w stands in the supervisor's queue (R352, R396). -/
def supervised (s t : State) (g w : Nat) (cause : Byte) : Prop :=
  (t.raw ⟨.cmd 64, 32 * (s.pfWr % 1024)⟩).1 = 4 ∧ (t.raw ⟨.cmd 64, 32 * (s.pfWr % 1024) + 1⟩).1 = cause ∧
  natOf ((t.raws ⟨.cmd 64, 32 * (s.pfWr % 1024) + 4⟩ 4).map (·.1)) = (s.gang g).index % 2 ^ 32 ∧
  natOf ((t.raws ⟨.cmd 64, 32 * (s.pfWr % 1024) + 16⟩ 8).map (·.1)) = ((s.gang g).vd * 2 ^ 24 + (s.wave w).wid) % 2 ^ 64 ∧
  t.pfWr = (s.pfWr + 1) % 2048

/-- The waves of the gang exist and are listed once. -/
def waved (s : State) (g : Nat) : Prop := g < s.gangs.length ∧ (s.gang g).waves.Nodup ∧ ∀ w ∈ (s.gang g).waves, w < s.waves.length

/-- The gang's waves have stopped for the image: each has ended, has rewound, has stopped at an RWP, or is suspended (R365). -/
def atRest (s : State) (g : Nat) : Prop := ∀ w ∈ (s.gang g).waves,
  (s.wave w).mode = .ended ∨ (∃ b, (s.wave w).mode = .stopped b) ∨ ∃ f since, (s.wave w).mode = .suspended f since

/-- Nothing of the gang is in flight, and no bank of it is being read (R365 step 2). -/
def gangQuiet (s : State) (g : Nat) : Prop := s.gangBusy g = false ∧ ∀ o ∈ s.flight, o.gang ≠ g ∧ o.kind.isEngine = false ∧
  match o.kind with | .deposit t .. => (s.wave t).gang ≠ g | _ => True

/-- Pins of the gang: how many registers hold a name. -/
def pinsHeld (s : State) (g : Nat) : Nat :=
  ((s.gang g).wgs.map fun w => ((List.range 8).filter fun r => w.pins.getD r 0 != 0).length).sum

/-- Lane l of register r once the deposits are written back: the last that names it, else what the register holds. -/
def depLane (v : List VReg) (ds : List (Nat × Word × List Word)) (r l : Nat) : Word :=
  match ds.reverse.find? fun d => d.1 == r && d.2.1.getLsbD l with
  | some d => d.2.2.getD l 0
  | none => (v.getD r {}).lane l

/-- The wave goes on from its snapshot (R45): one fragment at depth 0 with the saved lanes, listed registers as saved and
the others 0 and FULL, deposits since the RWP written back, and recompute code first where the recipe names it. -/
structure FromSnapshot (w r : Wave) : Prop where
  single : r.frags.length = 8 ∧ ∀ f, 1 ≤ f → (r.frags.getD f {}).live = false
  frag : let f := r.frags.getD 0 {}
    f.live = true ∧ f.lanes = w.snap.lanes ∧ f.exm = w.snap.exm ∧ f.depth = 0 ∧ f.joins = [] ∧ f.park = .none ∧
    f.epc = w.snap.next ∧ f.pc = if w.snap.rcpc = 0 then w.snap.next else w.snap.rcpc
  scalars : ∀ i, i < 64 → ((r.frags.getD 0 {}).s.getD i {}) = ((w.snap.sregs.reverse.find? fun x => x.1 == i).map (·.2)).getD {}
  vectors : ∀ i, i < 56 → (∀ d ∈ w.deps, d.1 ≠ i) →
    r.v.getD i {} = ((w.snap.regs.reverse.find? fun x => x.1 == i).map (·.2)).getD {}
  deposited : ∀ i l, i < 56 → l < 32 → let x := ((w.snap.regs.reverse.find? fun x => x.1 == i).map (·.2)).getD {}
    (r.v.getD i {}).lane l = depLane ((List.replicate 56 {}).set i x) w.deps i l
  system : r.k = w.snap.preds ∧ r.rngk = w.snap.rngk ∧ r.rngc = w.snap.rngc ∧ r.stat = w.snap.stat ∧ r.obsd = w.snap.obsd ∧
    r.piste = w.snap.piste ∧ r.dry = w.snap.dry ∧ r.commit = false
  mode : r.mode = if w.snap.rcpc = 0 then .run else .recompute
  kept : r.ac = w.ac ∧ r.ports = w.ports ∧ r.arrs = w.arrs ∧ r.snap = w.snap ∧ r.y = w.y ∧ r.w = w.w

/-- The wave still runs forward: it has not ended, rewound, stopped or been suspended (R44). -/
def forward (s : State) (w : Nat) : Prop := match (s.wave w).mode with
  | .run | .handler _ | .recompute => True
  | _ => False

/-- dmt holds no wave of the gang (R425). -/
def unheld (s : State) (g : Nat) : Prop := ∀ w ∈ (s.gang g).waves, (s.wave w).dmtStop ≠ some 0

end Sys2Proof.Claims

/-- R357, R396, R367: killing a gang ends its waves, discards its engine commands, marks its launch and reports cause, TRAPA and
EPC; a gang that had overrun shortens its device's next slice by its overrun. -/
def Sys2Proof.Claims.GangKilled : Prop :=
  ∀ (s : State) (g : Nat) (c : Byte) (a : Addr) (e : DWord), g < s.gangs.length → (s.gang g).st ≠ .retired →
    (s.gang g).launch < s.launches.length → (s.gang g).vd < s.vds.length → eqRoom s (s.gang g).vd → s.canon →
    let t := s.killGang g c a e
    let d := (s.gang g).vd
    (∀ w ∈ (s.gang g).waves, w < s.waves.length → (t.wave w).mode = .ended) ∧
    (∀ o ∈ t.flight, o.gang = g → o.kind.isEngine = false) ∧ (t.launch (s.gang g).launch).killed = true ∧
    reported s t d 4 c.toNat ∧ entryAt s t d 2 2 = ((s.launch (s.gang g).launch).stream + 256 * (a.extractLsb' 64 8).toNat) % 65536 ∧
    entryAt s t d 4 4 = (s.gang g).index % 2 ^ 32 ∧ entryAt s t d 8 8 = (a.extractLsb' 0 64).toNat ∧
    entryAt s t d 16 8 = e.toNat ∧ (t.gang g).preempt = none ∧ (t.gang g).halted = none ∧
    (∀ p, (s.gang g).warned = true → (s.gang g).preempt = some p → (t.vd d).short = max (s.vd d).short (s.time - p)) ∧
    ((s.gang g).warned = false → (t.vd d).short = (s.vd d).short)

/-- R402, R365, R132, R228: a slice that has lasted its time, less its shortening, ends when another device of the partition wants
one: every placed gang of the device is asked to stop, and its waiting VXACQs and TASKGETs are withdrawn; else nothing happens. -/
def Sys2Proof.Claims.SliceEnds : Prop :=
  (∀ (s : State) (d since e : Nat), let v := s.vd d
    s.slices.find? (fun x => x.1 == v.part) = some (v.part, d, since) → since + (v.slice - v.short) ≤ s.time →
    s.ending d = false → (∀ g ∈ s.gangs, g.vd = d → g.ovf = false) → d < s.vds.length → s.hasPlaced d = true →
    e ≠ d → e < 64 → (s.vd e).live = true → (s.vd e).part = v.part → s.wants e = true →
    ∃ t, exec (.sliceEnd d) s = .next t ∧ ((∀ x ∈ s.waves, ∀ f ∈ x.frags, f.park ≠ .task ∧ ∀ n, f.park ≠ .vx n) → t.waves = s.waves) ∧
      (∀ g w, (s.gang g).vd = d → (s.gang g).placed = true → w ∈ (s.gang g).waves →
        ∀ f ∈ (t.wave w).frags, f.park ≠ .task ∧ ∀ n, f.park ≠ .vx n) ∧ t.mem = s.mem ∧ t.slices = s.slices ∧ (t.vd d).short = 0 ∧
      t.gangs.length = s.gangs.length ∧ ∀ g, g < s.gangs.length → t.gang g =
        if (s.gang g).vd = d ∧ (s.gang g).placed = true then { s.gang g with preempt := some s.time, warned := false } else s.gang g) ∧
  (∀ (s : State) (d : Nat), let v := s.vd d
    (s.holder v.part ≠ some d ∨ ∀ e, e < 64 → e ≠ d → (s.vd e).part = v.part → s.wants e = false) →
    exec (.sliceEnd d) s = .next s)

/-- R365, R366, R317: with its waves at rest and its work done, the gang's context image is written and its placement
released: registers, FIFO entries and barriers are kept, tiles are saved and pins move to the overflow store. Where the
store has no room the gang stays, and the supervisor is told. An RKACQ that a wave stopped at its RWP waits for is withdrawn
first: the model's choice, log 80. -/
def Sys2Proof.Claims.ContextImages : Prop :=
  (∀ (s : State) (g r : Nat), let gg := s.gang g
    waved s g → gg.st = .resident → gg.preempt = some r → gg.halted = none → atRest s g → gangQuiet s g → gg.vd < s.vds.length →
    (s.vd gg.vd).ovf.length + pinsHeld s g ≤ (s.vd gg.vd).ovfCap →
    ∃ t, exec (.contextImageWrite g) s = .next t ∧
      (let u := t.gang g
       u.st = .imaged ∧ u.preempt = none ∧ u.banks = gg.banks ∧ u.wgs.map (·.bars) = gg.wgs.map (·.bars) ∧
       (∀ x ∈ u.wgs, ∀ i, x.pins.getD i 0 = 0) ∧
       ∀ (i p k w : Nat) (x : Wg), gg.wgs[i]? = some x → p < 4 → k < x.tiles → w ∈ x.waves → (s.wave w).part = p →
         (s.wave w).mode ≠ .ended → ((∃ f n, (s.wave w).mode = .suspended f n) ∨ (s.wave w).snap.tiles.getLsbD k = true) →
         ⟨i, p, k, (s.raws ⟨.tile, (((20 * gg.die + gg.cluster) * 4 + x.core) * 4 * 128 + p * 128 + (x.tileBase + k)) * 16384⟩ 16384).map (·.1)⟩ ∈ u.saved) ∧
      (∀ (i j : Nat) (x : Wg), gg.wgs[i]? = some x → j < 8 → x.pins.getD j 0 ≠ 0 → ⟨x.pins.getD j 0, g, i, j⟩ ∈ (t.vd gg.vd).ovf) ∧
      (∀ e ∈ (s.vd gg.vd).ovf, e ∈ (t.vd gg.vd).ovf) ∧
      ∀ w ∈ gg.waves, let x := s.wave w
        let y := t.wave w
        y.mode = x.mode ∧ y.frags = x.frags ∧ y.v = x.v ∧ y.k = x.k ∧ y.snap = x.snap ∧ y.ac = x.ac ∧
        y.y = x.y ∧ y.w = x.w ∧ y.ports = x.ports ∧ y.arrs = x.arrs ∧ y.deps = x.deps ∧ y.xbh = 0) ∧
  (∀ (s : State) (g r w d h l q : Nat) (o : Op) (dst : Dst), let gg := s.gang g
    waved s g → gg.st = .resident → gg.preempt = some r → gg.halted = none → atRest s g → s.flight = [o] →
    o.kind = .rkacq d h l q dst → o.wave = w → o.gang = g → w ∈ gg.waves → (s.wave w).mode = .stopped false → o.gen = (s.wave w).gen → (∀ p, dst ≠ .port p) →
    (s.vd gg.vd).ovf.length + pinsHeld s g ≤ (s.vd gg.vd).ovfCap →
    ∃ t, exec (.contextImageWrite g) s = .next t ∧ t.flight = [] ∧ (t.gang g).st = .resident ∧ (t.gang g).preempt = some r ∧
      (t.wave w).mode = .stopped true ∧ (t.wave w).snap = (s.wave w).snap ∧ t.mem = s.mem) ∧
  (∀ (s : State) (g r : Nat), let gg := s.gang g
    waved s g → gg.st = .resident → gg.preempt = some r → gg.halted = none → atRest s g → gangQuiet s g → pfRoom s → s.canon →
    (s.vd gg.vd).ovfCap < (s.vd gg.vd).ovf.length + pinsHeld s g →
    ∃ t, exec (.contextImageWrite g) s = .next t ∧ (t.gang g).st = .resident ∧ (t.gang g).preempt = none ∧ (t.gang g).ovf = true ∧
      (t.gang g).wgs = gg.wgs ∧ supervised s t g (gg.waves.headD 0) 0x15) ∧
  (∀ (s : State) (g : Nat), (s.gang g).preempt = none ∨ (∃ w ∈ (s.gang g).waves, forward s w ∧ (s.gang g).halted = none) →
    exec (.contextImageWrite g) s = .next s)

/-- R45, R366, R359: a pre-empted gang is placed again where it fits; each rewound wave goes on from its snapshot, a
suspended one stays as it was, pins and FIFO entries come back, and the placement is the gang's checkpoint. A starved gang of its
partition that stops it is shut out (R259). -/
def Sys2Proof.Claims.GangResumes : Prop :=
  ∀ (s : State) (g : Nat) (f : GangFit), let gg := s.gang g
    let d := gg.vd
    waved s g → gg.st = .imaged → s.holder (s.vd d).part = some d → runs s d → s.ending d = false →
    (∀ j, stops s (s.vd d).part j → prioAt s j < prioAt s gg.launch) →
    (∀ e ∈ (s.vd d).ovf, e.gang = g → e.reg < 8 ∧ e.wg < gg.wgs.length) →
    ((s.vd d).ovf.filter (·.gang == g)).Pairwise (fun a b => (a.wg, a.reg) ≠ (b.wg, b.reg)) →
    (∀ x ∈ gg.wgs, x.pins.length = 8) →
    s.fitGang (diesUp s (s.vd d).part)
      (gg.wgs.map fun x => { waves := x.waves.length, tiles := x.tiles, old := some (x.core, x.first) }) gg.banks.length = some f →
    ∃ t, exec (.gangResume g) s = .next t ∧
      (let u := t.gang g
       u.st = .resident ∧ u.die = f.die ∧ u.cluster = f.cluster ∧ u.banks.map (·.entries) = gg.banks.map (·.entries) ∧
       (∀ (i : Nat) (x : WgFit), f.wgs[i]? = some x → i < gg.wgs.length → (u.wgs.getD i {}).core = x.core) ∧
       (∀ e ∈ (s.vd d).ovf, e.gang = g → (u.wgs.getD e.wg {}).pins.getD e.reg 0 = e.name) ∧
       u.ckpt.waves = gg.waves.map t.wave ∧ u.replays = 0 ∧ u.committed = false) ∧
      (∀ e ∈ (t.vd d).ovf, e.gang ≠ g) ∧
      ∀ w ∈ gg.waves, let x := s.wave w
        let y := t.wave w
        y.die = f.die ∧ y.cluster = f.cluster ∧
        ((∃ b, x.mode = .stopped b) → FromSnapshot x y) ∧
        ((∃ p n, x.mode = .suspended p n) → y.mode = x.mode ∧ y.frags = x.frags ∧ y.v = x.v ∧ y.k = x.k ∧ y.y = x.y ∧ y.w = x.w)

/-- R93, R156, R213, R359-R361, R367: REPLAY takes every wave of a gang stopped by an ENGINE fault back to the checkpoint, its registers
FULL and its deposits since written back; a placement or resumption is repeated with SCRATCH banks that read 0 and the HALT
that stood then, once no matrix operation reads them (R213). It kills the gang where a wave has committed since, and, after a
report, as the eighth replay. -/
def Sys2Proof.Claims.Replays : Prop :=
  (∀ (s : State) (g : Nat), (s.gang g).st ≠ .engine → exec (.replay g) s = .next s) ∧
  (∀ (s : State) (g : Nat), (s.gang g).ckpt.resume = true → s.banksRead g = true → exec (.replay g) s = .next s) ∧
  (∀ (s : State) (g : Nat), (s.gang g).st = .engine → s.banksRead g = false → (s.gang g).committed = true →
    exec (.replay g) s = .next (s.killGang g 0x14 0 0)) ∧
  (∀ (s : State) (g : Nat), (s.gang g).st = .engine → s.banksRead g = false → (s.gang g).committed = false → 7 ≤ (s.gang g).replays →
    ∃ t, exec (.replay g) s = .next (t.killGang g 0x14 0 0) ∧ t.waves = s.waves ∧ t.gangs = s.gangs ∧
      (pfRoom s → s.canon → supervised s t g ((s.gang g).waves.headD 0) 0x14)) ∧
  (∀ (s : State) (g : Nat), let gg := s.gang g
    waved s g → gg.st = .engine → s.banksRead g = false → gg.committed = false → gg.replays < 7 → (∀ c ∈ gg.ckpt.waves, c.v.length = 56) →
    ∃ t, exec (.replay g) s = .next t ∧ (t.gang g).st = .resident ∧ (t.gang g).replays = gg.replays + 1 ∧
      (t.gang g).wgs = gg.wgs ∧ (t.gang g).banks = gg.banks ∧
      (∀ (i w : Nat), gg.waves[i]? = some w → let c := gg.ckpt.waves.getD i {}
        let x := s.wave w
        let y := t.wave w
        y.frags = c.frags.map (fun f => { f with s := f.s.map fun x => if x.st = .empty then { x with st := .full } else x }) ∧
        y.k = c.k ∧ y.mode = c.mode ∧ y.piste = c.piste ∧ y.obsd = c.obsd ∧ y.rngk = c.rngk ∧ y.rngc = c.rngc ∧
        y.stat = c.stat ∧ y.path = c.path ∧ y.dry = c.dry ∧ y.gen = x.gen + 1 ∧ y.ac = x.ac ∧ y.ports = x.ports ∧
        ((∀ d ∈ gg.ckDeps, d.1 ≠ w) → y.v = c.v.map fun x => { x with empty := false }) ∧
        (∀ r, r < 56 → (y.v.getD r {}).empty = false) ∧
        ∀ r l, r < 56 → l < 32 →
          (y.v.getD r {}).lane l = depLane c.v ((gg.ckDeps.filter fun d => d.1 == w).map (·.2)) r l) ∧
      (gg.ckpt.resume = true → (t.gang g).halted = gg.ckpt.halted ∧ (gg.die < 8 → gg.cluster < 20 → ∀ b ∈ gg.banks,
        b.mode = .scratch → b.phys < 32 → ∀ j, j < 2 ^ 17 →
          t.raw ⟨.sram, ((20 * gg.die + gg.cluster) * 32 + b.phys) * 2 ^ 17 + j⟩ = (0, false))) ∧
      (s.canon → (∀ u ∈ gg.ckpt.tiles, u.bytes.length = 16384) → ∀ u ∈ gg.ckpt.tiles,
        let at_ (u : SavedTile) : Nat := ((20 * gg.die + gg.cluster) * 4 + (gg.wgs.getD u.wg {}).core) * 4 * 128 + u.part * 128
          + ((gg.wgs.getD u.wg {}).tileBase + u.tile)
        (∀ v ∈ gg.ckpt.tiles, at_ v = at_ u → v = u) →
        ∀ j, j < 16384 → (t.raw ⟨.tile, at_ u * 16384 + j⟩).1 = u.bytes.getD j 0))

/-- R367, R356, R361, R425: the watchdogs. That the overrun report carries cause 0 is the model's choice. -/
def Sys2Proof.Claims.Watchdogs : Prop :=
  (∀ (s : State) (g r : Nat), let gg := s.gang g
    waved s g → gg.st = .resident → gg.preempt = some r → gg.halted = none → (∃ w ∈ gg.waves, forward s w) → unheld s g →
    (r + 100000 ≤ s.time → gg.warned = false → pfRoom s → s.canon →
      ∃ t, exec (.overrunWatchdog g) s = .next t ∧ t.gang g = { gg with warned := true } ∧ t.waves = s.waves ∧
        supervised s t g (gg.waves.headD 0) 0) ∧
    (s.time < r + 100000 → exec (.overrunWatchdog g) s = .next s) ∧
    (r + 2000000 ≤ s.time → ∃ t, exec (.overrunKill g) s = .next (t.killGang g 0 0 0) ∧ t.waves = s.waves ∧ t.gangs = s.gangs ∧
        (pfRoom s → s.canon → supervised s t g (gg.waves.headD 0) 0)) ∧
    (s.time < r + 2000000 → exec (.overrunKill g) s = .next s)) ∧
  (∀ (s : State) (w f since : Nat), let x := s.wave w
    x.mode = .suspended f since → unheld s x.gang → w < s.waves.length →
    (since + 10000000 ≤ s.time → ∃ t, exec (.suspensionWatchdog w) s =
        .next (t.killGang x.gang (x.trapc.extractLsb' 0 8) x.trapa (x.frags.getD f {}).epc) ∧ t.waves = s.waves ∧ t.gangs = s.gangs ∧
        (pfRoom s → s.canon → supervised s t x.gang w (x.trapc.extractLsb' 0 8))) ∧
    (s.time < since + 10000000 → exec (.suspensionWatchdog w) s = .next s)) ∧
  (∀ (s : State) (g : Nat), (s.gang g).st = .engine ∨ (s.gang g).st = .resident →
    (8 ≤ (s.gang g).replays → ∃ t, exec (.replayWatchdog g) s = .next (t.killGang g 0x14 0 0) ∧ t.waves = s.waves ∧ t.gangs = s.gangs ∧
        (pfRoom s → s.canon → supervised s t g ((s.gang g).waves.headD 0) 0x14)) ∧
    ((s.gang g).replays < 8 → exec (.replayWatchdog g) s = .next s))

/-- R356-R358, R374: the answers to a suspension, an ENGINE fault and a HALT. RESUME takes what the supervisor wrote into the wave's
state, its rewind buffer, its extended block and its port bindings among it. -/
def Sys2Proof.Claims.SupervisorAnswers : Prop :=
  (∀ (s : State) (w f n : Nat), w < s.waves.length → (s.wave w).mode = .suspended f n → (s.wave w).frags.length = 8 → f < 8 →
    ∃ t, exec (.supervisorResume w []) s = .next t ∧ (t.wave w).mode = .run ∧
      (t.wave w).frags = (s.wave w).frags.set f { (s.wave w).frags.getD f {} with pc := ((s.wave w).frags.getD f {}).epc } ∧
      (t.wave w).v = (s.wave w).v ∧ (∀ u, u ≠ w → t.wave u = s.wave u) ∧ t.mem = s.mem ∧ t.gangs = s.gangs) ∧
  (∀ (s : State) (w f n : Nat) (es : List WaveEdit), w < s.waves.length → (s.wave w).mode = .suspended f n → (s.wave w).frags.length = 8 →
    f < 8 → ∃ t, exec (.supervisorResume w es) s = .next t ∧ (t.wave w).mode = .run ∧ t.mem = s.mem ∧ t.flight = s.flight ∧
      ((∀ v, .trapc v ∉ es) → (t.wave w).trapc = (s.wave w).trapc) ∧
      (∀ v, es = [.trapc v] → (t.wave w).trapc = v) ∧
      (∀ u, u ≠ w → t.wave u = s.wave u) ∧ ((∀ q x, .port q x ∉ es) → t.gangs = s.gangs) ∧
      (∀ i l v, es = [.snap (.vec i l v)] → i < 56 → l < 32 →
        ∃ x ∈ (t.wave w).snap.regs, x.1 = i ∧ x.2.lane l = v) ∧
      (es = [.block true] → (t.wave w).held = (s.wave w).held ∧ ((s.wave w).held = false → (t.wave w).blk = some s.seq)) ∧
      (es = [.block false] → (t.wave w).held = false ∧ (t.wave w).blk = none) ∧
      (∀ q, es = [.port q none] → (t.wave w).ports = (s.wave w).ports.set q none) ∧
      (∀ q b, es = [.port q (some (b, none))] → b < (s.gang (s.wave w).gang).banks.length →
        ((s.gang (s.wave w).gang).banks.getD b {}).mode = .fifo → (t.wave w).ports = (s.wave w).ports.set q (some ⟨b, none⟩)) ∧
      (∀ e, es = [.epc f e] → ((t.wave w).frags.getD f {}).pc = e &&& ~~~1 ∧ (t.wave w).v = (s.wave w).v) ∧
      (∀ r l v, es = [.vec r l v] → r < (s.wave w).v.length → l < 32 → ((t.wave w).v.getD r {}).lane l = v ∧
        ∀ q, q ≠ r → (t.wave w).v.getD q {} = (s.wave w).v.getD q {})) ∧
  (∀ (s : State) (w : Nat) (es : List WaveEdit), (∀ f n, (s.wave w).mode ≠ .suspended f n) → exec (.supervisorResume w es) s = .next s) ∧
  (∀ (s : State) (g : Nat), (s.gang g).st = .engine → exec (.supervisorKill ⟨g, none⟩) s = .next (s.killGang g 0x14 0 0)) ∧
  (∀ (s : State) (g w f n : Nat), let x := s.wave w
    (s.gang g).st ≠ .retired → x.gang = g → w ∈ (s.gang g).waves → x.mode = .suspended f n →
    exec (.supervisorKill ⟨g, some w⟩) s = .next (s.killGang g (x.trapc.extractLsb' 0 8) x.trapa (x.frags.getD f {}).epc)) ∧
  (∀ (s : State) (g h : Nat), (s.gang g).st = .resident → (s.gang g).halted = some h →
    exec (.supervisorKill ⟨g, none⟩) s = .next (s.killGang g 0 0 0) ∧
    exec (.continueHalt g) s = .next (s.modGang g fun x => { x with halted := none })) ∧
  (∀ (s : State) (g : Nat), (s.gang g).halted = none → exec (.continueHalt g) s = .next s)

namespace Sys2Proof.Claims

/-! ## The command region -/

/-- A module works, SYSC is not in recovery, the device exists and is not being reset: its region takes host writes (R394,
R397, R398, R406). -/
def takesWrites (s : State) (d : Nat) : Prop :=
  s.modules ≠ 0 ∧ s.recovery = false ∧ d < s.vds.length ∧ (s.vd d).live = true ∧ (s.vd d).resetting = none

/-- The UCIe modules that work (R377). -/
def working (s : State) : Nat := ((List.range 4).filter fun m => s.modules.getLsbD m).length

/-- STATE after a wake write: LODGING is abandoned, LODGED begins to lift (R398, R405). -/
def wokenTo (st : Nat) : Nat := if st = 1 then 0 else if st = 2 then 3 else st

/-- The word with the bytes of the mask replaced. -/
def merged (old v : DWord) (mask : Byte) : DWord :=
  BitVec.ofNat 64 (natOf ((List.range 8).map fun i => if mask.getLsbD i then v.extractLsb' (8 * i) 8 else old.extractLsb' (8 * i) 8))

/-- Header word 0 of a stream (R253). -/
def headerOf (q : Stream) : DWord :=
  BitVec.ofNat 64 (q.wridx + q.rdidx * 2 ^ 8 + q.prio * 2 ^ 16 + if q.en then 2 ^ 24 else 0)

/-- LODGE (R395). -/
def lodgeOf (v : Vd) : DWord :=
  BitVec.ofNat 64 (v.cls.toNat + 4 * v.auto.toNat + 8 * v.now.toNat + 16 * v.lodge + 2 ^ 16 * v.idle)

/-- The fields of a control word stay within their widths (R253, R395). -/
def inWidth (v : Vd) : Prop := v.lodge < 4 ∧ v.idle < 2 ^ 16 ∧ v.eqwr < 2048 ∧ v.eqrd < 2048 ∧
  ∀ q ∈ v.streams, q.wridx < 31 ∧ q.rdidx < 31 ∧ q.prio < 8

/-- Nothing but this device's fields, its region and messages has changed. -/
def onlyVd (s t : State) (d : Nat) : Prop :=
  t.waves = s.waves ∧ t.gangs = s.gangs ∧ t.launches = s.launches ∧ t.flight = s.flight ∧ (∀ e, e ≠ d → t.vd e = s.vd e) ∧
  ∀ l : Loc, l.sp ≠ .cmd d → l.a < 2 ^ 112 → t.raw l = s.raw l

/-- EQ.RD after a write of x: one that puts RD beyond WR is discarded whole (R395). -/
def newRd (wr rd x : Nat) : Nat := if (x + 2048 - rd) % 2048 ≤ (wr + 2048 - rd) % 2048 then x else rd

/-- Entries that a queue has room for. -/
def roomFor (wr rd : Nat) : Nat := 1024 - (wr + 2048 - rd) % 2048

/-- A stream after WRIDX x: the entries up to x are the ring's, received in order; 31 or above changes nothing (R253, R254). -/
def indexed (q q' : Stream) (x : Nat) : Prop :=
  if 31 ≤ x then q' = q
  else q'.wridx = x ∧ q'.rdidx = q.rdidx ∧ q'.devq = q.devq ∧ q'.seqc = q.seqc ∧
    (q'.order.filter fun b => !b).length = (x + 31 - q.rdidx) % 31 ∧ q'.order.filter id = q.order.filter id ∧
    ((q.order.filter fun b => !b).length ≤ (x + 31 - q.rdidx) % 31 → q.order <+: q'.order)

/-- A control word as a read returns it (R253, R395). -/
def wordAt (s : State) (d o : Nat) : DWord :=
  let v := s.vd d
  if o < 0x8000 then BitVec.ofNat 64 (natOf ((s.raws ⟨.cmd d, o⟩ 8).map (·.1)))
  else if o = 0x8008 then BitVec.ofNat 64 (v.eqwr + 2 ^ 16 * v.eqrd)
  else if o = 0x8010 then v.flags.setWidth 64
  else if o = 0x8018 then lodgeOf v
  else if o = 0x8020 then BitVec.ofNat 64 (4 * v.rst)
  else if o = 0x8028 then BitVec.ofNat 64 (working s)
  else if o % 0x800 = 0 then headerOf (v.streams.getD ((o - 0x8000) / 0x800) {})
  else if o % 0x800 < 0x40 then 0
  else BitVec.ofNat 64 (natOf ((s.raws ⟨.cmd d, o⟩ 8).map (·.1)))

/-- The device is idle (R404). -/
def isIdle (s : State) (d : Nat) : Prop :=
  (∀ g ∈ s.gangs, g.vd = d → g.st = .retired) ∧ (∀ l ∈ s.launches, l.vd = d → l.done = true) ∧
  (∀ q ∈ (s.vd d).streams, q.order = []) ∧ (s.vd d).rerun = [] ∧
  (∀ o ∈ s.flight, o.gang < s.gangs.length → (s.gang o.gang).vd = d → o.kind.isEngine = false) ∧
  (∀ c ∈ s.colls, c.vd ≠ d) ∧ (s.vd d).resetting = none

/-- No other device shares the partition. -/
def isAlone (s : State) (d : Nat) : Prop := ∀ e, e < 64 → e ≠ d → (s.vd e).live = true → (s.vd e).part ≠ (s.vd d).part

/-- A cluster of the device's partition. -/
def ownCluster (s : State) (d c : Nat) : Prop := ∃ die ∈ s.partitions.getD (s.vd d).part [], 20 * die ≤ c ∧ c < 20 * die + 20

/-- The cluster of a TLB entry: a core's or the cluster's own (R154). -/
def tlbCluster (x : TlbEnt) : Nat := match x.tlb with | .core c => c / 4 | .cluster c => c

/-- A line whose home is on a die of the device's partition. -/
def ownLine (s : State) (d : Nat) (l : Loc) : Prop := llcSlice l / 64 ∈ s.partitions.getD (s.vd d).part []

/-- How far an island's TIME is from the root (R343). -/
def offsetOf (s : State) (c : Nat) : Int := ((s.skew.find? fun i => i.1 == c).map (·.2)).getD 0

/-- A device from which a reset has taken everything it runs (R406 steps 1 to 5). -/
structure Stopped (s t : State) (d : Nat) : Prop where
  headers : ∀ q ∈ (t.vd d).streams, q.wridx = 0 ∧ q.rdidx = 0 ∧ q.prio = 0 ∧ q.en = false ∧ q.devq = [] ∧ q.order = []
  flags : (t.vd d).flags = 0 ∧ (t.vd d).lodge = 0
  gangs : ∀ g, g < s.gangs.length → (s.gang g).vd = d → (t.gang g).st = .retired ∧
    ((s.gang g).st ≠ .retired → (∀ x ∈ (t.gang g).wgs, ∀ i, x.pins.getD i 0 = 0) ∧
      ∀ w ∈ (s.gang g).waves, w < s.waves.length → (t.wave w).mode = .ended ∧ (s.wave w).gen < (t.wave w).gen)
  others : ∀ g, (s.gang g).vd ≠ d → t.gang g = s.gang g
  ops : ∀ o ∈ t.flight, o.gang < s.gangs.length → (s.gang o.gang).vd = d → o.isStore = true ∨ o.isAtomic = true
  tasks : ∀ k ∈ t.tasks, k.st ≠ .free → (s.launch k.launch).vd ≠ d
  tables : (t.vd d).ovf = [] ∧ (t.vd d).deferred = [] ∧ (t.vd d).rinks.map (·.1) = (s.vd d).rinks.map (·.1) ∧
    (t.vd d).trees = (s.vd d).trees ∧ (t.vd d).key = (s.vd d).key
  colls : ∀ c ∈ t.colls, c.vd ≠ d
  devices : ∀ e, e ≠ d → t.vd e = s.vd e
  memory : ∀ l : Loc, l.sp = .phys → l.a < 2 ^ 112 → t.raw l = s.raw l

end Sys2Proof.Claims

/-- R253, R254, R395, R398, R405: a host write of WRIDX, EQ.RD, FLAGS or LODGE.NOW, each of which wakes the device; entries
that were held for want of room enter the queue. Without a working module a write does not arrive (the model's choice, log 79);
that a write of EQ.RD which goes back is discarded is the model's choice too, log 16. -/
def Sys2Proof.Claims.HostWrites : Prop :=
  (∀ (s : State) (d : Nat) (x : BitVec 16), takesWrites s d → ∃ t, exec (.flagsSet d x) s = .next t ∧ onlyVd s t d ∧
    (t.vd d).flags = (s.vd d).flags ||| x ∧ (t.vd d).lodge = wokenTo (s.vd d).lodge ∧ (t.vd d).streams = (s.vd d).streams) ∧
  (∀ (s : State) (d : Nat), takesWrites s d → ∃ t, exec (.lodgeNow d) s = .next t ∧ onlyVd s t d ∧ (t.vd d).now = true ∧
    (t.vd d).lodge = wokenTo (s.vd d).lodge ∧ (t.vd d).flags = (s.vd d).flags ∧ (t.vd d).streams = (s.vd d).streams) ∧
  (∀ (s : State) (d st x : Nat), takesWrites s d → st < (s.vd d).streams.length →
    ∃ t, exec (.wridxWrite d st x) s = .next t ∧ onlyVd s t d ∧ (t.vd d).lodge = wokenTo (s.vd d).lodge ∧
      (t.vd d).flags = (s.vd d).flags ∧ indexed ((s.vd d).streams.getD st {}) ((t.vd d).streams.getD st {}) x ∧
      (let q := (s.vd d).streams.getD st {}
       let q' := (t.vd d).streams.getD st {}
       q'.prio = q.prio ∧ q'.en = q.en) ∧
      ∀ r, r ≠ st → (t.vd d).streams.getD r {} = (s.vd d).streams.getD r {}) ∧
  (∀ (s : State) (d x : Nat), takesWrites s d → (s.vd d).eqwr < 2048 → (s.vd d).eqrd < 2048 → let v := s.vd d
    let rd := newRd v.eqwr v.eqrd (x % 2048)
    let n := min v.eqHeld.length (roomFor v.eqwr rd)
    ∃ t, exec (.eqRdWrite (some d) x) s = .next t ∧ onlyVd s t d ∧ (t.vd d).eqrd = rd ∧ (t.vd d).eqHeld = v.eqHeld.drop n ∧
      (t.vd d).eqwr = (v.eqwr + n) % 2048 ∧ (t.vd d).lodge = wokenTo v.lodge) ∧
  (∀ (s : State) (x : Nat), s.modules ≠ 0 → s.recovery = false → s.pfWr < 2048 → s.pfRd < 2048 → let rd := newRd s.pfWr s.pfRd (x % 2048)
    let n := min s.pfHeld.length (roomFor s.pfWr rd)
    ∃ t, exec (.eqRdWrite none x) s = .next t ∧ t.pfRd = rd ∧ t.pfHeld = s.pfHeld.drop n ∧ t.pfWr = (s.pfWr + n) % 2048 ∧
      t.vds = s.vds) ∧
  (∀ (s : State) (d st x : Nat) (y : BitVec 16), s.modules = 0 ∨ (s.vd d).resetting.isSome = true →
    exec (.flagsSet d y) s = .next s ∧ exec (.lodgeNow d) s = .next s ∧ exec (.wridxWrite d st x) s = .next s ∧
    exec (.eqRdWrite (some d) x) s = .next s ∧ exec (.softReset d) s = .next s ∧ exec (.clearReset d) s = .next s)

/-- R253, R394, R395, R397: a host write of a word of a region, or of some of its bytes, for each word of it; writes to the
supervisor's region wake nothing. -/
def Sys2Proof.Claims.RegisterWrites : Prop :=
  (∀ (s : State) (d off : Nat) (x : DWord) (mask : Byte), takesWrites s d → d ≠ 64 → inWidth (s.vd d) → s.canon →
    off / 8 * 8 ≠ 0x8020 → let v := s.vd d
    let o := off / 8 * 8
    ∃ t, exec (.registerWrite d off x mask) s = .next t ∧ onlyVd s t d ∧ (t.vd d).lodge = wokenTo v.lodge ∧
      (t.vd d).flags = v.flags ||| (if o = 0x8010 then (merged 0 x mask).extractLsb' 0 16 else 0) ∧
      (let w := merged (lodgeOf v) x mask
       if o = 0x8018 then (t.vd d).auto = w.getLsbD 2 ∧ (t.vd d).now = ((v.now && v.lodge != 1) || (mask.getLsbD 0 && x.getLsbD 3)) ∧
         (t.vd d).idle = (if w.extractLsb' 16 16 = 0#16 then v.idle else (w.extractLsb' 16 16).toNat)
       else (t.vd d).auto = v.auto ∧ (t.vd d).idle = v.idle) ∧
      (t.vd d).eqrd = (if o = 0x8008 then newRd v.eqwr v.eqrd ((merged (wordAt s d o) x mask).extractLsb' 16 11).toNat else v.eqrd) ∧
      (∀ r, r < 16 → v.streams.length = 16 → let q := v.streams.getD r {}
        let q' := (t.vd d).streams.getD r {}
        let w := merged (headerOf q) x mask
        if o = 0x8000 + 0x800 * r then indexed q q' (w.extractLsb' 0 5).toNat ∧ ((w.extractLsb' 0 5).toNat < 31 →
          q'.prio = (w.extractLsb' 16 3).toNat ∧ q'.en = w.getLsbD 24)
        else q' = q) ∧
      (v.eqHeld = [] → ∀ i, i < 8 → (t.raw ⟨.cmd d, o + i⟩).1 =
        if (o < 0x8000 ∨ (0x8000 < o ∧ o < 0x10000 ∧ 0x40 ≤ (o - 0x8000) % 0x800)) ∧ mask.getLsbD i = true
        then x.extractLsb' (8 * i) 8 else (s.raw ⟨.cmd d, o + i⟩).1)) ∧
  (∀ (s : State) (off : Nat) (x : DWord) (mask : Byte), s.modules ≠ 0 → s.recovery = false → s.canon → s.pfWr < 2048 →
    s.pfRd < 2048 → let o := off / 8 * 8
    let rd := newRd s.pfWr s.pfRd ((merged (BitVec.ofNat 64 (s.pfWr + 2 ^ 16 * s.pfRd)) x mask).extractLsb' 16 11).toNat
    ∃ t, exec (.registerWrite 64 off x mask) s = .next t ∧ t.vds = s.vds ∧ t.pfRd = (if o = 0x8008 then rd else s.pfRd) ∧
      (s.pfHeld = [] → t.pfWr = s.pfWr ∧ ∀ i, i < 8 → (t.raw ⟨.cmd 64, o + i⟩).1 =
        if o < 0x8000 ∧ mask.getLsbD i = true then x.extractLsb' (8 * i) 8 else (s.raw ⟨.cmd 64, o + i⟩).1))

/-- R395, R397, R398: what a read of a region returns; the read of a lodged device's region waits and lifts it. -/
def Sys2Proof.Claims.RegionReads : Prop :=
  (∀ (s : State) (d off : Nat), s.modules ≠ 0 → s.recovery = false → d < s.vds.length → d ≠ 64 → (s.vd d).live = true →
    ((s.vd d).lodge < 2 → inWidth (s.vd d) → (s.vd d).rst < 4 → off < 0x10000 →
      exec (.commandRegionRead d off) s = .next { s with reply := [[(wordAt s d (off / 8 * 8)).toNat]] }) ∧
    (2 ≤ (s.vd d).lodge → ∃ t, exec (.commandRegionRead d off) s = .next t ∧ t.reply = s.reply ∧
      (t.vd d).lodge = wokenTo (s.vd d).lodge ∧ (t.vd d).reads = (s.vd d).reads ++ [off])) ∧
  (∀ (s : State) (off : Nat), s.modules ≠ 0 → let o := off / 8 * 8
    exec (.commandRegionRead 64 off) s = .next { s with reply := [[
      if o < 0x8000 then natOf ((s.raws ⟨.cmd 64, o⟩ 8).map (·.1))
      else if o = 0x8008 then s.pfWr + 2 ^ 16 * s.pfRd
      else if o = 0x8028 then working s + (if s.recovery then 2 ^ 8 else 0) else 0]] }) ∧
  (∀ (s : State) (d off : Nat), s.modules = 0 → exec (.commandRegionRead d off) s = .next s)

/-- R395, R404, R405: an idle device with a wake class lodges on NOW or after IDLE µs of idleness with AUTO. Alone in its
partition, in W2 and W3 it gives up what SRAM held: TLB entries, instruction sectors, read copies and LLC lines, whose bytes are
written back; in W1 it keeps them all. -/
def Sys2Proof.Claims.Lodging : Prop :=
  (∀ (s : State) (d : Nat), let v := s.vd d
    d < s.vds.length → v.live = true → v.cls ≠ 0 → isIdle s d →
    (v.lodge = 0 → (v.now = true ∨ (v.auto = true ∧ v.idleFrom + 1000 * v.idle ≤ s.time)) →
      exec (.lodge d) s = .next (s.modVd d fun v => { v with lodge := 1 })) ∧
    (v.lodge = 0 → v.now = false → (v.auto = false ∨ s.time < v.idleFrom + 1000 * v.idle) → exec (.lodge d) s = .next s) ∧
    (v.lodge = 1 → ∃ t, exec (.lodge d) s = .next t ∧ (t.vd d).lodge = 2 ∧ (t.vd d).now = false ∧ t.gangs = s.gangs ∧
      t.waves = s.waves ∧
      (¬isAlone s d ∨ v.cls = 1 → t.mem = s.mem ∧ t.copies = s.copies ∧ t.llc = s.llc ∧ t.tlb = s.tlb ∧ t.sectors = s.sectors) ∧
      (isAlone s d → 2 ≤ v.cls.toNat → (∀ x ∈ t.tlb, ¬ownCluster s d (tlbCluster x)) ∧
        (∀ x ∈ t.sectors, ¬ownCluster s d (x.1 / 4)) ∧ (∀ x ∈ t.copies, ¬ownCluster s d (spaceCluster x.holder)) ∧
        (∀ e, e ∈ t.llc → ¬ownLine s d e.line) ∧ (∀ e ∈ s.llc, ¬ownLine s d e.line → e ∈ t.llc) ∧
        (s.canon → LlcSound s → ∀ m : Loc, m.sp = .phys → (s.fwd m).a < 2 ^ 112 → t.homeByte m = s.homeByte m)))) ∧
  (∀ (s : State) (d : Nat), (s.vd d).cls = 0 ∨ (s.vd d).live = false ∨ ¬isIdle s d ∨ 2 ≤ (s.vd d).lodge →
    exec (.lodge d) s = .next s)

/-- R343, R321, R398, R404: a lift ends, for a device that shares its partition once it holds the slice: deferred actions
whose names nothing pins are performed, waiting reads return, and no island's TIME goes back. -/
def Sys2Proof.Claims.Lifts : Prop :=
  (∀ (s : State) (d : Nat), let v := s.vd d
    d < s.vds.length → d < 64 → v.live = true → v.lodge = 3 → (isAlone s d ∨ s.holder v.part = some d) →
    ∃ t, exec (.liftComplete d) s = .next t ∧ (t.vd d).lodge = 0 ∧ (t.vd d).idleFrom = s.time ∧ (t.vd d).reads = [] ∧
      t.reply.length = (if v.reads = [] then s.reply.length else v.reads.length) ∧
      (t.vd d).deferred = v.deferred.filter (fun e => s.pinned d e.name) ∧
      (∀ e ∈ v.deferred, s.pinned d e.name = false →
        (∀ ps, e.act = .pages ps → ∀ p ∈ ps, p ∈ (t.vd d).pool) ∧
        (∀ m is tr, e.act = .nodes m is → (t.vd d).tree m = some tr → ∀ i ∈ is, tr.node? i = none)) ∧
      (∀ c, offsetOf s c ≤ offsetOf t c) ∧ t.gangs = s.gangs ∧ t.waves = s.waves) ∧
  (∀ (s : State) (d : Nat), (s.vd d).lodge ≠ 3 → exec (.liftComplete d) s = .next s)

/-- R406 steps 1 to 5: a soft reset, a clear reset, a function-level reset and the supervisor's request each stop the
device; RST.STATE reads 1. -/
def Sys2Proof.Claims.ResetBegins : Prop :=
  (∀ (s : State) (d : Nat), takesWrites s d → ∃ t u, exec (.softReset d) s = .next t ∧ exec (.clearReset d) s = .next u ∧
    Stopped s t d ∧ Stopped s u d ∧ (t.vd d).resetting = some false ∧ (u.vd d).resetting = some true ∧
    (t.vd d).rst = 1 ∧ (u.vd d).rst = 1) ∧
  (∀ (s : State) (d : Nat) (c : Bool), d < s.vds.length → (s.vd d).live = true → (s.vd d).resetting = none →
    ∃ t u, exec (.functionLevelReset d) s = .next t ∧ exec (.supervisorResetRequest d c) s = .next u ∧
      Stopped s t d ∧ Stopped s u d ∧ (t.vd d).resetting = some true ∧ (u.vd d).resetting = some c ∧
      (t.vd d).rst = 1 ∧ (u.vd d).rst = 1) ∧
  (∀ (s : State) (d : Nat), takesWrites s d → d ≠ 64 → ∃ t u, exec (.registerWrite d 0x8020 1 1) s = .next t ∧ exec (.softReset d) s = .next t ∧
    exec (.registerWrite d 0x8020 2 1) s = .next u ∧ exec (.clearReset d) s = .next u)

/-- R258, R406 steps 6 and 7: once nothing of the device is on its way, its ended launches are reported and a RESET entry
follows; reads of its region that waited return (R398). A clear reset first empties the queue, destroys rinks and trees, drops its LLC lines, marks every page, which then reads 0, a moving one at
both of its places, and takes a fresh key. -/
def Sys2Proof.Claims.ResetCompletes : Prop :=
  (∀ (s : State) (d : Nat) (c : Bool), d < s.vds.length → (s.vd d).resetting = some c →
    (∀ o ∈ s.flight, o.gang < s.gangs.length → (s.gang o.gang).vd ≠ d) →
    ∃ t, exec (.resetComplete d) s = .next t ∧ (t.vd d).resetting = none ∧ (t.vd d).rst = (if c then 3 else 2) ∧ (t.vd d).reads = [] ∧
      ((s.vd d).reads ≠ [] → t.reply.length = (s.vd d).reads.length) ∧ (∀ l, l < s.launches.length → (s.launch l).vd = d → (t.launch l).done = true) ∧
      ((∀ l ∈ s.launches, l.vd = d → l.done = true) → s.canon → (c = true ∨ eqRoom s d) → reported s t d 6 (if c then 2 else 1)) ∧
      (c = false → (t.vd d).rinks = (s.vd d).rinks ∧ (t.vd d).trees = (s.vd d).trees ∧ t.marked = s.marked ∧
        ∀ l : Loc, l.sp = .phys → l.a < 2 ^ 112 → t.raw l = s.raw l) ∧
      (c = true → (t.vd d).rinks = [] ∧ (t.vd d).trees = [] ∧ (t.vd d).key = s.keys + 1 ∧ t.keys = s.keys + 1 ∧
        (∀ p ∈ (s.vd d).pages, p ∈ t.marked ∧ (∀ m ∈ s.moves, m.src = p → m.dst ∈ t.marked) ∧
          ∀ i, i < 65536 → t.hbm ⟨.phys, 65536 * p + i⟩ = (0, false)) ∧
        (∀ x ∈ (s.vd d).rinks, ∀ p ∈ x.2.pages, p.2.2 ∈ (t.vd d).pool) ∧
        (∀ e ∈ t.llc, e.line.line = e.line → (e.line.sp = .phys → e.line.a / 65536 ∉ (s.vd d).pages ∧
            ∀ m ∈ s.moves, m.src ∈ (s.vd d).pages → e.line.a / 65536 ≠ m.dst) ∧
          (e.line.sp = .tier1 → ¬ownLine s d e.line)))) ∧
  (∀ (s : State) (d : Nat), (s.vd d).resetting = none ∨ (∃ o ∈ s.flight, o.gang < s.gangs.length ∧ (s.gang o.gang).vd = d) →
    exec (.resetComplete d) s = .next s)

namespace Sys2Proof.Claims

/-! ## What the supervisor and Umarek set -/

/-- The limits of a rink's descriptor (R273, R274). -/
def goodRink (x : BitVec 512) : Prop :=
  let fmt := (x.extractLsb' 1 2).toNat
  let heads := (x.extractLsb' 16 6).toNat + 1
  let hdim := (x.extractLsb' 32 10).toNat
  let vb := if fmt = 2 then hdim + 4 * ((hdim + 63) / 64) else 2 * hdim
  x.getLsbD 0 = true ∧ fmt < 3 ∧ hdim % 2 = 0 ∧ 2 ≤ hdim ∧ hdim ≤ 512 ∧ (fmt = 2 → hdim % 32 = 0) ∧
  (x.extractLsb' 48 4).toNat ≤ 12 ∧ 1 ≤ (x.extractLsb' 64 24).toNat ∧ 2 ^ (x.extractLsb' 48 4).toNat * heads * 2 * vb ≤ 65536

/-- Where a rink's state region lies: its pages, as far as its bit tables fill them (R273, R277; log 105). -/
def rinkRegion (x : BitVec 512) : List Nat :=
  pagesOf (128 * (x.extractLsb' 135 47).toNat)
    (((x.extractLsb' 64 24).toNat * (2 + ((x.extractLsb' 8 8).toNat + 1)) + 7) / 8)

/-- Every page of the list exists and lies in the partition (R13, R399). -/
def allIn (s : State) (part : Nat) (ps : List Nat) : Prop :=
  ∀ p ∈ ps, hbmOk (p * 65536) 65536 = true ∧ s.partOf (p * 65536) = some part

/-- The pages that a new device's parameters name: those it holds, its context area and overflow store, its pools (R399,
R409). -/
def pagesNamed (p : VdParams) : List Nat :=
  p.pages ++ p.context ++ p.overflowAt ++ (p.pool ++ p.nodePool).map (· / 65536)

/-- A level-3 table may stand there: 4 KiB, aligned, in the partition's stacks (R150, R399). -/
def rootPlace (s : State) (part root : Nat) : Prop :=
  root % 4096 = 0 ∧ hbmOk root 4096 = true ∧ s.partOf root = some part

/-- The rink's pin name (R276). -/
def rinkName (h : Nat) : DWord := 0x01#8 ++ BitVec.ofNat 56 h

/-- Bytes of a tree's nodes (R294). -/
def nodesFrom (x : BitVec 512) : Nat := 128 * (x.extractLsb' 64 47).toNat
def nodesTo (x : BitVec 512) : Nat := nodesFrom x + 64 * (x.extractLsb' 8 27).toNat

/-- Whole dies that fill a rectangle of one or two rows and one to four columns (R12, R399). -/
def fillsRectangle (ds : List Nat) : Prop := ds.Nodup ∧ ∃ r h c w, 1 ≤ h ∧ 1 ≤ w ∧ r + h ≤ 2 ∧ c + w ≤ 4 ∧
  ∀ d, d ∈ ds ↔ r ≤ d / 4 ∧ d / 4 < r + h ∧ c ≤ d % 4 ∧ d % 4 < c + w

/-- The partitions hold every die once, each in a rectangle (R399). -/
def goodParts (ps : List (List Nat)) : Prop := ps.flatten.Nodup ∧ (∀ d, d < 8 ↔ d ∈ ps.flatten) ∧ ∀ p ∈ ps, fillsRectangle p

/-- The ten bridges between C-dies, in the order of the firewall registers: along the rows, then across (R12). -/
def bridgeEnds (i : Nat) : Nat × Nat := if i < 3 then (i, i + 1) else if i < 6 then (i + 1, i + 2) else (i - 6, i - 2)

/-- The lowest of the record's power ceilings. -/
def lowest (r : Option Record) : Option Nat := r.bind fun r => r.ceilings.min?

/-- A row of a die's binding table: 84 logical units, of which 0 to 19 are clusters, on one of 22 physical ones (R270). -/
def bindable (e : BindEnt) : Prop := e.die < 8 ∧ e.unit < 84 ∧ (e.unit < 20 → e.phys.toNat < 22)

/-- Bytes that the LLC holds and has not written agree with the memory behind; a line is held once (R147). -/
def llcAgrees (s : State) : Prop := (s.llc.map (·.line)).Nodup ∧
  ∀ e ∈ s.llc, ∀ i, i < 128 → e.dirty.getLsbD i = false → s.raw ⟨.llc, e.line.tagged + i⟩ = s.behind (e.line.plus i)

end Sys2Proof.Claims

/-- R158, R260, R318, R351, R389, R390, R392, R405, R410, R150, R152, R154, R388, R407, R408: the table entries that the supervisor
and Umarek write; reserved bits stay 0; a rate cap is only lowered; a re-run wakes its device. A device that does not exist has no
tables, and recovery takes no range entry and no window. That windows count in whole lines is the model's choice, log 120. -/
def Sys2Proof.Claims.TableWrites : Prop :=
  (∀ (s : State) (d i : Nat) (e : BitVec 128) (x : DWord) (g : Option (Nat × Nat)) (on : Bool), (s.vd d).live = true →
    exec (.trapVectorWrite d i e) s = .next (s.modVd d fun v => { v with vectors := v.vectors.set i ((e.extractLsb' 0 66).setWidth 128) }) ∧
    exec (.reclaimActionWrite d i e) s = .next (s.modVd d fun v => { v with
      actions := v.actions.set i (e.extractLsb' 64 64 ++ 0#40 ++ e.extractLsb' 16 8 ++ 0#3 ++ e.extractLsb' 8 5 ++ 0#5 ++ e.extractLsb' 0 3 : BitVec 128) }) ∧
    exec (.taskTypeLoad d i e) s = .next (s.modVd d fun v => { v with
      types := v.types.set i (0#16 ++ e.extractLsb' 80 32 ++ 0#2 ++ e.extractLsb' 72 6 ++ 0#5 ++ e.extractLsb' 0 67 : BitVec 128) }) ∧
    exec (.peerSlotWrite d i x) s = .next (s.modVd d fun v => { v with
      peers := v.peers.set i (0#37 ++ x.extractLsb' 8 19 ++ 0#7 ++ x.extractLsb' 0 1 : DWord) }) ∧
    exec (.groupConfigure d i x) s = .next (s.modVd d fun v => { v with groups := v.groups.set i x }) ∧
    exec (.inboundGrantWrite d i g) s = .next (s.modVd d fun v => { v with grants := v.grants.set i g }) ∧
    exec (.recordingSet d on) s = .next (s.modVd d fun v => { v with recording := on }) ∧
    (i < 16 → d < s.vds.length → ∃ t, exec (.rerun d i) s = .next t ∧ (t.vd d).lodge = wokenTo (s.vd d).lodge ∧
      (t.vd d).rerun = (s.vd d).rerun ++ (s.vd d).log.map (fun (l : LogEnt) => ⟨i, l.seq, l.block⟩) ∧ (∀ e, e ≠ d → t.vd e = s.vd e) ∧
      t.mem = s.mem ∧ t.launches = s.launches) ∧
    (((s.vd d).cap = none ∨ ∃ c, (s.vd d).cap = some c ∧ i ≤ c) →
      exec (.fabricRateCap d i) s = .next (s.modVd d fun v => { v with cap := some i })) ∧
    (∀ c, (s.vd d).cap = some c → c < i → exec (.fabricRateCap d i) s = .next s)) ∧
  (∀ (s : State) (d i : Nat) (e : BitVec 128) (x : DWord) (on : Bool), (s.vd d).live = false →
    exec (.trapVectorWrite d i e) s = .next s ∧ exec (.reclaimActionWrite d i e) s = .next s ∧ exec (.taskTypeLoad d i e) s = .next s ∧
    exec (.peerSlotWrite d i x) s = .next s ∧ exec (.groupConfigure d i x) s = .next s ∧ exec (.recordingSet d on) s = .next s) ∧
  (∀ (s : State) (c : Option Nat) (i : Nat) (ctl base limit : DWord), i < 16 → (∀ k, c = some k → k < 16) → s.recovery = false →
    ∃ t, exec (.rangeEntryWrite c i ctl base limit) s = .next t ∧ t.vds = s.vds ∧ t.mem = s.mem ∧
      t.rangeEnt c i = some ⟨c, i, (ctl.extractLsb' 0 12).setWidth 64, (0#10 ++ base.extractLsb' 7 47 ++ 0#7 : DWord),
        (0#10 ++ limit.extractLsb' 7 47 ++ 0#7 : DWord)⟩ ∧
      ∀ c' i', (c', i') ≠ (c, i) → t.rangeEnt c' i' = s.rangeEnt c' i') ∧
  (∀ (s : State) (ws : List (Nat × Nat)), s.recovery = false → ∃ t, exec (.hostAccessWindowGrant ws) s = .next t ∧
    t = { s with windows := t.windows } ∧ ∀ a, t.inWindow (128 * a) 128 = true ↔ ∃ w ∈ ws, w.1 ≤ 128 * a ∧ 128 * a + 128 ≤ w.2) ∧
  (∀ (s : State) (ws : List (Nat × Nat)) (c : Option Nat) (i : Nat) (ctl base limit : DWord), s.recovery = true →
    exec (.hostAccessWindowGrant ws) s = .next s ∧ exec (.rangeEntryWrite c i ctl base limit) s = .next s) ∧
  (∀ (s : State) (d root : Nat) (tag : Byte), ¬rootPlace s (s.vd d).part root → exec (.rootChange d tag root) s = .next s) ∧
  (∀ (s : State) (d root : Nat) (tag : Byte), d < s.vds.length → (s.vd d).live = true → rootPlace s (s.vd d).part root →
    ∃ t, exec (.rootChange d tag root) s = .next t ∧ t.mem = s.mem ∧ t.tlb = s.tlb ∧ (∀ e, e ≠ d → t.vd e = s.vd e) ∧
      (∃ g, t.rootOf d tag = some ⟨tag, root, g⟩ ∧ ∀ r, s.rootOf d tag = some r → g = r.gen + 1) ∧
      ∀ u, u ≠ tag → t.rootOf d u = s.rootOf d u)

/-- R273-R276, R284, R294, R326, R406: Umarek makes and destroys rinks and trees. A descriptor that breaks a limit is
refused. A destroyed rink's pages go back at once, or through the deferred-reclaim list where a pin names the rink. That nothing
changes where its bucket is full is the model's choice, log 57, and so is the region that a descriptor names, log 105. -/
def Sys2Proof.Claims.RinksAndTrees : Prop :=
  (∀ (s : State) (d h : Nat) (x : BitVec 512), (s.vd d).live = true → d < s.vds.length → (s.vd d).rink h = none → 1 ≤ h → h < 4096 →
    (goodRink x → allIn s (s.vd d).part (rinkRegion x) → ∃ t r, exec (.createRink d h x) s = .next t ∧ (t.vd d).rink h = some r ∧
      r.fmt = (x.extractLsb' 1 2).toNat ∧ r.nlayers = (x.extractLsb' 8 8).toNat + 1 ∧ r.nheads = (x.extractLsb' 16 6).toNat + 1 ∧
      r.hdim = (x.extractLsb' 32 10).toNat ∧ r.ppplog = (x.extractLsb' 48 4).toNat ∧ r.maxpos = (x.extractLsb' 64 24).toNat ∧
      r.next = 0 ∧ r.spec = 0 ∧ r.void = 0 ∧ r.pages = [] ∧ (∀ l, r.pub.getD l 0 = 0) ∧ r.pub.length = r.nlayers ∧
      (∀ k, k ≠ h → (t.vd d).rink k = (s.vd d).rink k) ∧ (t.vd d).pool = (s.vd d).pool ∧ t.mem = s.mem) ∧
    (¬goodRink x ∨ ¬allIn s (s.vd d).part (rinkRegion x) → exec (.createRink d h x) s = .next s)) ∧
  (∀ (s : State) (d h : Nat) (r : Rink), d < s.vds.length → h < 4096 → (s.vd d).rink h = some r → let v := s.vd d
    let b := v.deferred.filter fun e => bucketOf e.name = bucketOf (rinkName h)
    let gone (t : State) : Prop := (t.vd d).rink h = none ∧ (∀ k, k ≠ h → (t.vd d).rink k = v.rink k) ∧
      ∀ o ∈ t.flight, match o.kind with | .rkacq e k .. => e ≠ d ∨ k ≠ h | _ => True
    (s.pinned d (rinkName h) = false → ∃ t, exec (.destroyRink d h) s = .next t ∧ gone t ∧
      (t.vd d).pool = v.pool ++ (r.pages.map (·.2.2) ++ r.kept ++ r.stale) ∧ (t.vd d).deferred = v.deferred) ∧
    (s.pinned d (rinkName h) = true → b.length < 16 → ∃ t, exec (.destroyRink d h) s = .next t ∧ gone t ∧
      (t.vd d).pool = v.pool ∧ (t.vd d).deferred = v.deferred ++ [⟨rinkName h, .pages (r.pages.map (·.2.2) ++ r.kept ++ r.stale)⟩]) ∧
    (s.pinned d (rinkName h) = true → 16 ≤ b.length → exec (.destroyRink d h) s = .next s)) ∧
  (∀ (s : State) (d n : Nat) (x : BitVec 512), (s.vd d).live = true → d < s.vds.length → n < 256 → (∀ p ∈ (s.vd d).trees, p.1 ≠ n) →
    (x.getLsbD 0 = true ∧ 1 ≤ (x.extractLsb' 8 27).toNat ∧ (x.extractLsb' 8 27).toNat ≤ 2 ^ 26 ∧ allIn s (s.vd d).part (pagesOf (nodesFrom x) (nodesTo x - nodesFrom x)) ∧
        (∀ p ∈ (s.vd d).trees, p.2.base + 64 * p.2.cap ≤ nodesFrom x ∨ nodesTo x ≤ p.2.base) →
      ∃ t, exec (.createTree d n x) s = .next t ∧ t.mem = s.mem ∧ (t.vd d).trees = (s.vd d).trees ++ [(n, {
        cap := (x.extractLsb' 8 27).toNat, base := nodesFrom x, c := x.extractLsb' 192 32, vloss := x.extractLsb' 224 32
        fpu := x.extractLsb' 256 32 })]) ∧
    (x.getLsbD 0 = false ∨ (x.extractLsb' 8 27).toNat = 0 ∨ 2 ^ 26 < (x.extractLsb' 8 27).toNat ∨
        ¬allIn s (s.vd d).part (pagesOf (nodesFrom x) (nodesTo x - nodesFrom x)) →
      exec (.createTree d n x) s = .next s)) ∧
  (∀ (s : State) (d n : Nat), (s.vd d).live = true → d < s.vds.length → (∃ p ∈ (s.vd d).trees, p.1 = n) →
    ∃ t, exec (.destroyTree d n) s = .next t ∧ (t.vd d).trees = (s.vd d).trees.filter (fun p => p.1 != n) ∧
      (∀ a ∈ (s.vd d).nodePool, a ∈ (t.vd d).nodePool) ∧ (t.vd d).rinks = (s.vd d).rinks ∧ t.mem = s.mem)

/-- R65, R253, R254: Umarek checks the bindings and queues a launch in the stream's ring, or answers BADBIND and writes
nothing; a full ring makes it wait. That a block which cannot be read is queued with status 0 is the model's choice, log 103. -/
def Sys2Proof.Claims.UmarekLaunches : Prop :=
  ∀ (s : State) (d st : Nat) (block : DWord) (seq : Word) (serial : Bool), let q := (s.vd d).streams.getD st {}
    takesWrites s d → st < 16 → (s.vd d).streams.length = 16 → q.wridx < 31 → q.rdidx < 31 →
    ((q.wridx + 1) % 31 = q.rdidx → exec (.umarekLaunch d st block seq serial) s = .next s) ∧
    ((q.wridx + 1) % 31 ≠ q.rdidx →
      (∀ bs, s.engRead d block.toNat 512 = some bs → ¬bindsHold s d (BitVec.ofNat 4096 (natOf bs)) →
        exec (.umarekLaunch d st block seq serial) s = .next { s with reply := [[2]] }) ∧
      ((∀ bs, s.engRead d block.toNat 512 = some bs → bindsHold s d (BitVec.ofNat 4096 (natOf bs))) → s.canon → (s.vd d).eqHeld = [] →
        ∃ t, exec (.umarekLaunch d st block seq serial) s = .next t ∧ t.reply = [[0]] ∧ (t.vd d).lodge = wokenTo (s.vd d).lodge ∧
          (let q' := (t.vd d).streams.getD st {}
           q'.wridx = (q.wridx + 1) % 31 ∧ q'.rdidx = q.rdidx ∧ q'.devq = q.devq) ∧
          natOf ((t.raws ⟨.cmd d, 0x8040 + 0x800 * st + 0x40 * q.wridx⟩ 64).map (·.1)) =
            block.toNat + 2 ^ 64 * seq.toNat + (if serial then 2 ^ 96 else 0)))

/-- R154, R403: an invalidation removes the old entry from every TLB of the partition, once no access that may have used it
is outstanding, and frees the forwarding entries of pages whose leaf names the new address. -/
def Sys2Proof.Claims.Invalidations : Prop :=
  (∀ (s : State) (d : Nat) (tag : Byte) (off : DWord), (s.vd d).live = true → s.usesPage d tag off.toNat = false →
    ∃ t, exec (.tlbInvalidate d tag off) s = .next t ∧ t.mem = s.mem ∧ t.vds = s.vds ∧ t.flight = s.flight ∧
      (∀ e, e ∈ t.tlb ↔ e ∈ s.tlb ∧ ¬(e.vd = d ∧ e.tag = tag ∧ e.page = off.toNat / (if e.big then 2 ^ 29 else 2 ^ 16))) ∧
      (∀ m ∈ t.moves, m ∈ s.moves) ∧ ∀ m ∈ s.moves, m.copied ≠ 0xFFFF → m ∈ t.moves) ∧
  (∀ (s : State) (d : Nat) (tag : Byte) (off : DWord) (o : Op), o ∈ s.flight → o.gang < s.gangs.length → (s.gang o.gang).vd = d →
    (∃ a ∈ o.accs, a.va.extractLsb' 64 8 = tag ∧ (a.va.extractLsb' 0 64).toNat / 2 ^ 16 = off.toNat / 2 ^ 16) →
    exec (.tlbInvalidate d tag off) s = .next s)

/-- R160: a promotion writes the image at its new place as it stands in tier 1 and rewrites the leaf with TIER 0; a page
in HBM is not promoted. -/
def Sys2Proof.Claims.Promotions : Prop :=
  (∀ (s : State) (d a : Nat) (off : DWord) (pa e : Nat) (rt : Root), s.canon → s.moves = [] → s.dir = [] → (s.vd d).live = true →
    s.rootOf d 0x01 = some rt → s.walk d 0x01 off.toNat levels rt.root = some (0, e) → s.leafAt d off.toNat levels rt.root = some a →
    e < 2 ^ 64 → e.testBit 6 = true → e.testBit 54 = false → pa % 65536 = 0 → allIn s (s.vd d).part [pa / 65536] →
    s.usesPage d 0x01 off.toNat = false → a < 2 ^ 48 → a % 8 = 0 → (a + 8 ≤ pa ∨ pa + 65536 ≤ a) →
    (s.llc.filter fun x => llcSlice x.line == llcSlice (⟨.phys, a⟩ : Loc).line).length < 24576 →
    ∃ t, exec (.pagerPromote d off pa) s = .next t ∧
      t.load64 a = e - 64 - ptePa e + pa ∧ (∀ i, i < 65536 → t.homeByte ⟨.phys, pa + i⟩ = s.homeByte ⟨.tier1, ptePa e + i⟩) ∧
      ∀ x ∈ t.tlb, ¬(x.vd = d ∧ x.tag = 0x01 ∧ x.page = off.toNat / (if x.big then 2 ^ 29 else 2 ^ 16))) ∧
  (∀ (s : State) (d : Nat) (off : DWord) (pa lvl e : Nat) (rt : Root), s.rootOf d 0x01 = some rt →
    s.walk d 0x01 off.toNat levels rt.root = some (lvl, e) → e.testBit 6 = false → exec (.pagerPromote d off pa) s = .next s)

/-- R399, R400, R409: the supervisor sets the partitions once after a start: every die in one rectangle; the bridges
between C-dies are open inside a partition alone, and locked, with what they have counted. -/
def Sys2Proof.Claims.PartitionsSet : Prop :=
  ∀ (s : State) (ps : List (List Nat)),
    (s.started = true → s.recovery = false → s.partitions = [] → goodParts ps → s.firewall.length = 14 →
      ∃ t, exec (.setPartitions ps) s = .next t ∧ t.partitions = ps ∧ t.vds = s.vds ∧ t.mem = s.mem ∧
        (∀ i, i < 10 → ∃ f g, s.firewall[i]? = some g ∧ t.firewall[i]? = some f ∧ f.lock = true ∧ f.drops = g.drops ∧ f.tdrops = g.tdrops ∧
          (f.opened = true ↔ ∃ p ∈ ps, (bridgeEnds i).1 ∈ p ∧ (bridgeEnds i).2 ∈ p)) ∧ t.firewall.drop 10 = s.firewall.drop 10) ∧
    (s.started = false ∨ s.recovery = true ∨ s.partitions ≠ [] ∨ ¬goodParts ps → exec (.setPartitions ps) s = .next s)

/-- R399, R402, R404, R409, R150: the supervisor creates a device in a partition, whose stacks hold all that it gives it; its region is
as at reset, its slice 2 ms where none is given. -/
def Sys2Proof.Claims.DevicesCreated : Prop :=
  (∀ (s : State) (p : VdParams), s.recovery = false → p.vd < 64 → p.vd < s.vds.length → (s.vd p.vd).live = false → p.part < s.partitions.length →
    (p.slice = 0 ∨ p.slice % 250000 = 0 ∧ 250000 ≤ p.slice ∧ p.slice ≤ 100000000) →
    allIn s p.part (pagesNamed p) → (∀ r ∈ p.roots, rootPlace s p.part r) →
    ∃ t, exec (.createVd p) s = .next t ∧ (∀ e, e ≠ p.vd → t.vd e = s.vd e) ∧ t.keys = s.keys + 1 ∧
      (let v := t.vd p.vd
       v.live = true ∧ v.part = p.part ∧ v.cls = p.cls ∧ v.slice = (if p.slice = 0 then 2000000 else p.slice) ∧
       (∀ g ∈ v.roots, g.gen = 0) ∧ (∀ i t, [(0, 0x00#8), (1, 0x01#8), (2, 0x02#8), (3, 0xF0#8)][i]? = some (i, t) →
         ∃ g ∈ v.roots, g.tag = t ∧ g.root = p.roots.getD i 0) ∧ v.pool = p.pool ∧ v.nodePool = p.nodePool ∧
       v.pages = p.pages ∧ v.context = p.context ∧ v.ovfPages = p.overflowAt ∧ v.ovfCap = p.overflow ∧ v.key = s.keys + 1 ∧ v.streams = List.replicate 16 {} ∧ v.flags = 0 ∧ v.eqwr = 0 ∧
       v.eqrd = 0 ∧ v.auto = false ∧ v.now = false ∧ v.lodge = 0 ∧ v.idle = 1000 ∧ v.rst = 0 ∧ v.rinks = [] ∧ v.trees = [] ∧
       v.vectors = List.replicate 32 0 ∧ v.peers = List.replicate 16 0 ∧ v.groups = List.replicate 64 0) ∧
      (s.canon → ∀ i, i < 65536 → t.raw ⟨.cmd p.vd, i⟩ = (0, false))) ∧
  (∀ (s : State) (p : VdParams), s.recovery = true ∨ 64 ≤ p.vd ∨ (s.vd p.vd).live = true ∨ s.partitions.length ≤ p.part ∨
      ¬allIn s p.part (pagesNamed p) ∨ (∃ r ∈ p.roots, ¬rootPlace s p.part r) ∨
      (p.slice ≠ 0 ∧ (p.slice % 250000 ≠ 0 ∨ 100000000 < p.slice)) →
    exec (.createVd p) s = .next s)

/-- R403, R382: a slice moves to a free slice of another partition; a drained chunk becomes BUSY, which changes no byte, once no
request of the host is in flight for what it holds there; a copied chunk reads at the old address what it read before. -/
def Sys2Proof.Claims.MemoryMoves : Prop :=
  (∀ (s : State) (src dst p q : Nat), s.partOf (src * 2 ^ 29) = some p → s.partOf (dst * 2 ^ 29) = some q → p ≠ q →
    (∀ n ∈ [src, dst], hbmOk (n * 2 ^ 29) (2 ^ 29) = true) →
    (∀ m ∈ s.moves, ∀ n ∈ [src, dst], m.src / 8192 ≠ n ∧ m.dst / 8192 ≠ n) → (∀ v ∈ s.vds, v.live = true → ∀ g ∈ v.pages, g / 8192 ≠ dst) →
    ∃ t, exec (.memorySliceMove src dst) s = .next t ∧ t.mem = s.mem ∧ t.vds = s.vds ∧ t.partOf (dst * 2 ^ 29) = some p ∧
      t.moves.length = s.moves.length + 8192 ∧ (∀ i, i < s.moves.length → t.moves[i]? = s.moves[i]?) ∧
      ∀ i, i < 8192 → ∃ m, t.moves[s.moves.length + i]? = some m ∧ m.src = src * 8192 + i ∧ m.dst = dst * 8192 + i ∧ m.copied = 0 ∧
        m.busy = false ∧ (m.chunk = 0 ↔ i = 0)) ∧
  (∀ (s : State) (src dst : Nat), s.partOf (src * 2 ^ 29) = s.partOf (dst * 2 ^ 29) → exec (.memorySliceMove src dst) s = .next s) ∧
  (∀ (s : State) (page : Nat) (m : Move), s.canon → LlcSound s → page < 2 ^ 90 → s.moves.find? (fun x => x.src == page) = some m → m.busy = false →
    m.chunk < 16 → m.copied.getLsbD m.chunk = false →
    (∀ i, i < 32 → s.leasesPast engineCore ⟨.phys, page * 65536 + m.chunk * 4096 + 128 * i⟩ = true) →
    (∀ q ∈ s.hostReqs, q.1 / 64 ≠ page * 16 + m.chunk) →
    ∃ t, exec (.chunkBusy page) s = .next t ∧
      t.moves = s.moves.map (fun x => if x.src = page then { x with busy := true } else x) ∧ t.vds = s.vds ∧
      (∀ a, a < 2 ^ 100 → (s.fwd ⟨.phys, a⟩).a < 2 ^ 112 → t.homeByte ⟨.phys, a⟩ = s.homeByte ⟨.phys, a⟩)) ∧
  (∀ (s : State) (page : Nat) (m : Move) (i : Nat), s.moves.find? (fun x => x.src == page) = some m →
    (m.busy = true ∨ (i < 32 ∧ s.leasesPast engineCore ⟨.phys, page * 65536 + m.chunk * 4096 + 128 * i⟩ = false) ∨
      (i < 64 ∧ m.copied.getLsbD m.chunk = false ∧ m.chunk < 16 ∧ (s.dirOf (page * 1024 + m.chunk * 64 + i)).isSome = true ∧
        ∃ q ∈ s.hostReqs, q.1 = page * 1024 + m.chunk * 64 + i)) →
    exec (.chunkBusy page) s = .next s) ∧
  (∀ (s : State) (page : Nat) (m : Move), s.canon → llcAgrees s → page < 2 ^ 90 → m.dst < 2 ^ 90 → m.chunk < 16 →
    s.moves.find? (fun x => x.src == page) = some m → m.busy = true → m.copied.getLsbD m.chunk = false → m.dst ≠ page →
    (∀ x ∈ s.moves, x.src ≠ m.dst) → (∀ p ∈ s.dir, p.1 / 1024 ≠ page ∧ p.1 / 1024 ≠ m.dst) →
    ∃ t, exec (.chunkCopied page) s = .next t ∧
      t.moves.find? (fun x => x.src == page) = some { m with copied := m.copied ||| (1#16 <<< m.chunk), chunk := m.chunk + 1, busy := false } ∧
      ∀ i, i < 4096 → let l : Loc := ⟨.phys, page * 65536 + m.chunk * 4096 + i⟩
        t.homeByte l = s.homeByte l ∧ t.homeByte ⟨.phys, m.dst * 65536 + m.chunk * 4096 + i⟩ = s.homeByte l) ∧
  (∀ (s : State) (page : Nat) (m : Move), s.moves.find? (fun x => x.src == page) = some m → m.busy = false →
    exec (.chunkCopied page) s = .next s)

/-- R14, R15, R407, R408: a clock island of clusters runs at 500 MHz to 2.25 GHz, and an uncore or stack island's clock moves no cluster's; the
power ceiling lowers frequencies, is not raised, and drops no work (that it caps every cluster island alike is the model's choice,
log 102). R148: an uncorrectable error marks bytes and changes none; in a FIFO bank it poisons a lane of an entry (where an entry
stands is the model's choice, log 123). R406: the scrubber zero-fills a marked page, which reads as it did. -/
def Sys2Proof.Claims.ClocksAndErrors : Prop :=
  (∀ (s : State) (mhz : Nat), 500 ≤ mhz → s.recovery = false → (∀ c, s.ceiling = some c → mhz ≤ c) → ∃ t, exec (.powerCeiling mhz) s = .next t ∧ t.ceiling = some mhz ∧ t.waves = s.waves ∧
    t.flight = s.flight ∧ t.mem = s.mem ∧ t.time = s.time ∧ ∀ c, c < 160 → t.mhz c = min (s.mhz c) mhz) ∧
  (∀ (s : State) (mhz : Nat), s.recovery = true ∨ (∃ c, s.ceiling = some c ∧ c < mhz) → exec (.powerCeiling mhz) s = .next s) ∧
  (∀ (s : State) (i mhz : Nat), i < 40 → 500 ≤ mhz → mhz ≤ 2250 → (∀ c, s.ceiling = some c → mhz ≤ c) →
    (∀ d, d < 64 → (s.vd d).live = true → (s.vd d).lodge < 2) →
    ∃ t, exec (.islandFrequencyChange i mhz) s = .next t ∧ t.waves = s.waves ∧ t.flight = s.flight ∧ t.time = s.time ∧
      ∀ c, t.mhz c = if c / 20 = i / 5 ∧ c % 20 / 4 = i % 5 then mhz else s.mhz c) ∧
  (∀ (s : State) (i mhz : Nat), 40 ≤ i → i < 64 → (∀ d, d < 64 → (s.vd d).live = true → (s.vd d).lodge < 2) →
    ∃ t, exec (.islandFrequencyChange i mhz) s = .next t ∧ t.waves = s.waves ∧ t.flight = s.flight ∧ t.time = s.time ∧
      ∀ c, c < 160 → t.mhz c = s.mhz c) ∧
  (∀ (s : State) (i mhz : Nat), (i < 40 ∧ (mhz < 500 ∨ 2250 < mhz)) ∨ 64 ≤ i → exec (.islandFrequencyChange i mhz) s = .next s) ∧
  (∀ (s : State) (key n : Nat), s.canon → ∃ t, exec (.uncorrectableError key n) s = .next t ∧ t.waves = s.waves ∧
    ∀ l : Loc, (t.raw l).1 = (s.raw l).1 ∧ ((t.raw l).2 = true ↔ (s.raw l).2 = true ∨ (key ≤ l.key ∧ l.key < key + n))) ∧
  (∀ (s : State) (g b i j : Nat) (k : Bank), (s.gang g).st = .resident → (s.gang g).banks[b]? = some k → k.mode = .fifo → k.phys < 32 →
    i < k.entries.length → i < 1024 → j < 128 → let gg := s.gang g
    gg.die < 8 → gg.cluster < 20 →
    ∃ t e f, exec (.uncorrectableError (Loc.key ⟨.sram, ((20 * gg.die + gg.cluster) * 32 + k.phys) * 2 ^ 17 + 128 * i + j⟩) 1) s = .next t ∧
      k.entries[i]? = some e ∧ ((t.gang g).banks.getD b {}).entries[i]? = some f ∧ f = { e with poison := e.poison ||| (1#32 <<< (j / 4)) } ∧
      ∀ q, q ≠ i → ((t.gang g).banks.getD b {}).entries[q]? = k.entries[q]?) ∧
  (∀ (s : State) (p : Nat), s.canon → p < 2 ^ 90 → p ∈ s.marked → ∃ t, exec (.scrub p) s = .next t ∧ p ∉ t.marked ∧
    (∀ q, q ≠ p → (q ∈ t.marked ↔ q ∈ s.marked)) ∧ ∀ a, a < 2 ^ 112 → t.hbm ⟨.phys, a⟩ = s.hbm ⟨.phys, a⟩) ∧
  (∀ (s : State) (p : Nat), p ∉ s.marked → exec (.scrub p) s = .next s)

/-- R6, R14, R270, R343, R406-R409: the starts and the end of recovery. A cold start writes the record's binding tables, a warm one
keeps them; the record's power ceilings bound the clocks (how, is the model's choice, log 102); each of the 64 clock islands has
its TIME within 4 ticks of the root's. That HBM reads 0 after POWER_GOOD is the model's choice, log 3, and that host memory and
tier 1 keep their bytes across it log 72. -/
def Sys2Proof.Claims.Starts : Prop :=
  (∀ (s : State) (record : Option Record) (n : BitVec 4), ∃ t, exec (.powerGood record n) s = .next t ∧ t.time = 0 ∧ t.waves = [] ∧ t.gangs = [] ∧
    t.launches = [] ∧ t.flight = [] ∧ t.vds = List.replicate 64 {} ∧ t.partitions = [] ∧ t.started = record.isSome ∧
    t.recovery = record.isNone ∧ t.modules = n ∧ (∀ e, e ∈ t.binding ↔ ∃ r, record = some r ∧ e ∈ r.binds ∧ bindable e) ∧
    t.ceiling = lowest record ∧
    (∀ c, c < 64 → -4 ≤ offsetOf t c ∧ offsetOf t c ≤ 4) ∧
    (s.canon → ∀ a, a < 2 ^ 112 → t.raw ⟨.phys, a⟩ = (0, false) ∧ (t.raw ⟨.host, a⟩).1 = (s.raw ⟨.host, a⟩).1 ∧
      (t.raw ⟨.tier1, a⟩).1 = (s.raw ⟨.tier1, a⟩).1)) ∧
  (∀ (s : State) (record : Option Record) (n : BitVec 4), s.vds.length = 64 → ∃ t, exec (.warmStart record n) s = .next t ∧ t.time = s.time ∧
    t.partitions = [] ∧ t.started = record.isSome ∧ t.recovery = record.isNone ∧ t.modules = n ∧ t.record = record ∧
    t.binding = s.binding ∧ t.ceiling = lowest record ∧ t.firewall = State.reset.firewall ∧
    (∀ d, d < 64 → (t.vd d).live = false) ∧ (∀ g, g < s.gangs.length → (s.vd (s.gang g).vd).live = true → (t.gang g).st = .retired) ∧
    ∀ a, a < 2 ^ 112 → t.raw ⟨.phys, a⟩ = s.raw ⟨.phys, a⟩) ∧
  (∀ (s : State) (r : Record), s.recovery = true → ∃ t, exec (.recoveryImage (some r)) s = .next t ∧ t.recovery = false ∧
    t.started = true ∧ t.record = some r ∧ (s.binding ≠ [] → t.binding = s.binding) ∧
    (s.binding = [] → ∀ e, e ∈ t.binding ↔ e ∈ r.binds ∧ bindable e) ∧ (∀ c, lowest (some r) = some c → t.ceiling = some c) ∧
    t.vds = s.vds ∧ t.mem = s.mem) ∧
  (∀ s : State, exec (.recoveryImage none) s = .next s) ∧
  (∀ (s : State) (r : Record), s.recovery = false → exec (.recoveryImage (some r)) s = .next s)

namespace Sys2Proof.Claims

/-! ## The host and the peer fabric -/

/-- Byte i of half h of device memory. -/
def inHalf (h i : Nat) : Loc := ⟨.phys, 64 * h + i⟩

/-- A module of the I-die works: modules 0 and 1 are on I-die 0, 2 and 3 on I-die 1 (R376, R377). -/
def idieOn (s : State) (i : Nat) : Prop := i < 2 ∧ (s.modules.getLsbD (2 * i) = true ∨ s.modules.getLsbD (2 * i + 1) = true)

/-- The half is HBM, the I-die is reached, and the leases on the half's line have passed (R181, R377). -/
def hostMay (s : State) (i h : Nat) : Prop := idieOn s i ∧ hbmOk (h * 64) 64 = true ∧
  s.leasesPast engineCore ⟨.phys, h * 64 / 128 * 128⟩ = true ∧ s.busy ⟨.phys, h * 64⟩ = false

/-- The 64 bytes of a half as a read at its home returns them. -/
def halfRead (s : State) (h : Nat) : List Nat := (List.range 64).map fun i => (s.homeByte (inHalf h i)).1.toNat

/-- Accesses of half h go to half k: h itself, or where h's chunk of a moving page has been copied to (R403). -/
def served (s : State) (h k : Nat) : Prop := ∀ i, i < 64 → s.fwd (inHalf h i) = inHalf k i ∧ s.fwd (inHalf k i) = inHalf k i

/-- Every byte of device memory outside half h reads as before at its home. -/
def halvesBut (s t : State) (h : Nat) : Prop :=
  ∀ a, (s.fwd ⟨.phys, a⟩).a < 2 ^ 112 → (s.fwd ⟨.phys, a⟩).a / 64 ≠ h → t.homeByte ⟨.phys, a⟩ = s.homeByte ⟨.phys, a⟩

/-- The event of a host request of device d through I-die i. -/
noncomputable def asEvent (d i h : Nat) : HostReq → Instr
  | .sharedRead => .hostSharedRead d i h
  | .ownership data => .hostOwnershipRequest d i h data
  | .memWr data mask after => .hostWriteback d i h data mask after

/-- The device of the request is bound to the partition that owns the half (R400, R401). -/
def bound (s : State) (d h : Nat) : Prop := (s.vd d).live = true ∧ s.inPart d (h * 64) = true

/-- The firewall register of the bridge by which transit traffic of an I-die reaches a die. That it runs along the die's
own row is the model's reading of R401 (log 66). -/
def lastBridge (i die : Nat) : Nat :=
  if die % 4 = 3 * i then 10 + 2 * i + die / 4 else 3 * (die / 4) + (if i = 0 then die % 4 - 1 else die % 4)

/-- The request waits at the home for leases. -/
def waitsAt (s : State) (h : Nat) (r : HostReq) : State := { s with hostReqs := s.hostReqs ++ [(h, r)] }

/-- Ports and links as the package has them. -/
def fabric (s : State) : Prop := s.ports.length = 32 ∧ s.links.length = 32 ∧
  (∀ l ∈ s.links, l.sendSeq.length = 4 ∧ l.recvSeq.length = 4 ∧ l.ports.Nodup ∧ ∀ p ∈ l.ports, p < 32) ∧
  ∀ p ∈ s.ports, p.rates.length = 4

/-- Header fields of a flit (R386). -/
def hdrVc (f : Flit) : Nat := (f.hdr.extractLsb' 0 2).toNat
def hdrKind (f : Flit) : Nat := (f.hdr.extractLsb' 2 2).toNat
def hdrSeq (f : Flit) : BitVec 12 := f.hdr.extractLsb' 4 12
def hdrAck (f : Flit) : BitVec 12 := f.hdr.extractLsb' 16 12
def hdrNak (f : Flit) : Bool := f.hdr.getLsbD 28
def hdrLen (f : Flit) : Nat := (f.hdr.extractLsb' 29 5).toNat

/-- The flit is not discarded as a CRC failure (R386). The CRC's bit order and first value are the model's choice. -/
def soundFlit (f : Flit) : Prop :=
  f.crc = flitCrc f.hdr f.payload ∧ f.hdr.extractLsb' 34 30 = 0#30 ∧ hdrLen f ≤ 30 ∧ f.payload.length = 240

/-- DATA flits of a channel that a link has sent and that are not acknowledged. -/
def unacknowledged (s : State) (l : PeerLink) (c : Nat) : Nat :=
  l.ports.foldl (fun n j => n + ((s.port j).replay.filter fun g => hdrVc g.2 == c).length) 0

/-- The flit is still held for replay once the far end expects `a` on channel c of the link: flits of other channels, and those
from `a` on. An `a` that no outstanding flit accounts for acknowledges nothing. That numbers are compared over half of their
range is the model's reading (log 101). -/
def holdsOn (s : State) (l : PeerLink) (c : Nat) (a : BitVec 12) (g : Nat × Flit) : Bool :=
  !(decide ((l.sendSeq.getD c 0 - a).toNat ≤ unacknowledged s l c) && hdrVc g.2 == c && decide (2048 ≤ (hdrSeq g.2 - a).toNat))

def heldOn (s : State) (l : PeerLink) (c : Nat) (a : BitVec 12) (j : Nat) : List (Nat × Flit) :=
  (s.port j).replay.filter (holdsOn s l c a)

/-- The flit's ACKSEQ has acted on its channel of the link; with NAK set, what is outstanding there is to be replayed. -/
def acts (s t : State) (l : PeerLink) (f : Flit) : Prop := ∀ j ∈ l.ports,
  (t.port j).replay = heldOn s l (hdrVc f) (hdrAck f) j ∧
  (hdrNak f = true → ∀ g ∈ (t.port j).replay, hdrVc g.2 = hdrVc f → g ∈ (t.port j).again)

/-- How often in a row a NAK has sent the flit back (R387). -/
def replaysOf (p : Port) (f : Flit) : Nat :=
  ((p.replays.find? fun x => x.1 == hdrVc f && x.2.1 == (hdrSeq f).toNat).map fun x => x.2.2).getD 0

/-- The port has put on the wire, after `before`, a control flit of this kind with its NAK bit, expecting a of channel c (R386,
R387). -/
def controls (before after : List Flit) (kind c : Nat) (nak : Bool) (a : BitVec 12) : Prop :=
  ∃ f, after = before ++ [f] ∧ hdrVc f = c ∧ hdrKind f = kind ∧ hdrNak f = nak ∧ hdrAck f = a ∧ soundFlit f

/-- A buffer is free for the flit, which the part does not determine (R387, R388). -/
def finds (s : State) : Prop := Config.freeBit s.free = false

end Sys2Proof.Claims

/-- R379, R380: the host's shared read, ownership request and write-back of a half; a read returns the half's bytes. A request
for ownership and a write wait until the leases on the line have passed; a write's bytes are at the home, and no other half
changes. R403: while its chunk moves a request waits, and after it the new half is served. R400, R401: a request whose device is not bound to the owner of the half is dropped, and counted at the bridge it
arrived by. R377: an I-die with no module working takes none (that such an event changes nothing is the
model's choice, log 79). Which bridge counts is the model's reading of R401, log 66; that an ownership request carries the bytes
which the host then holds, log 67. -/
def Sys2Proof.Claims.HostRequests : Prop :=
  (∀ (s : State) (d i h : Nat), s.canon → idieOn s i → hbmOk (h * 64) 64 = true → bound s d h →
    (s.busy ⟨.phys, h * 64⟩ = false → ∀ k, served s h k →
      (s.dirOf k ≠ some .m → ∃ t, exec (.hostSharedRead d i h) s = .next t ∧ t.dirOf k = some .s ∧ (∀ j, j ≠ k → t.dirOf j = s.dirOf j) ∧
        t.reply = [halfRead s h] ∧ t.waves = s.waves ∧
        (s.moves = [] → LlcSound s → ∀ a, a < 2 ^ 112 → t.homeByte ⟨.phys, a⟩ = s.homeByte ⟨.phys, a⟩)) ∧
      (s.dirOf k = some .m → exec (.hostSharedRead d i h) s = .next s)) ∧
    (s.busy ⟨.phys, h * 64⟩ = true → exec (.hostSharedRead d i h) s = .next (waitsAt s h .sharedRead))) ∧
  (∀ (s : State) (d j h k : Nat) (data : List Byte), s.canon → hostMay s j h → served s h k → bound s d h →
    ∃ t, exec (.hostOwnershipRequest d j h data) s = .next t ∧ t.dirOf k = some .m ∧ t.reply = [halfRead s h] ∧ t.waves = s.waves ∧
      halvesBut s t k ∧ ∀ i, i < 64 → t.homeByte (inHalf h i) = (data.getD i 0, false)) ∧
  (∀ (s : State) (d j h k : Nat) (data : List Byte) (mask : DWord) (after : Option HalfSt), s.canon → LlcSound s → hostMay s j h →
    served s h k → bound s d h →
    ∃ t, exec (.hostWriteback d j h data mask after) s = .next t ∧ t.dirOf k = after ∧ t.waves = s.waves ∧ halvesBut s t k ∧
      (t.home ⟨.phys, h * 64 / 128 * 128⟩).lastStore = some s.time ∧
      ∀ i, i < 64 → (mask.getLsbD i = true → t.homeByte (inHalf h i) = (data.getD i 0, false)) ∧
        (mask.getLsbD i = false → s.dirOf k ≠ some .m → after ≠ some .m → t.homeByte (inHalf h i) = s.homeByte (inHalf h i))) ∧
  (∀ (s : State) (d j h : Nat) (data : List Byte) (mask : DWord) (after : Option HalfSt), idieOn s j → hbmOk (h * 64) 64 = true →
    bound s d h → s.leasesPast engineCore ⟨.phys, h * 64 / 128 * 128⟩ = false ∨ s.busy ⟨.phys, h * 64⟩ = true →
    exec (.hostOwnershipRequest d j h data) s = .next (waitsAt s h (.ownership data)) ∧
    exec (.hostWriteback d j h data mask after) s = .next (waitsAt s h (.memWr data mask after))) ∧
  (∀ (s : State) (d i h : Nat) (r : HostReq) (inv : Bool), idieOn s i → hbmOk (h * 64) 64 = true → ¬bound s d h → s.firewall.length = 14 →
    ∃ f, s.firewall[lastBridge i (h * 64 / 2 ^ 38 % 8)]? = some f ∧
      let g : Firewall := { f with tdrops := if f.tdrops = 255 then 255 else f.tdrops + 1 }
      let t := { s with firewall := s.firewall.set (lastBridge i (h * 64 / 2 ^ 38 % 8)) g }
      exec (asEvent d i h r) s = .next t ∧ exec (.bisnpRetry ⟨d, i, h⟩ r inv) s = .next t) ∧
  (∀ (s : State) (d i h : Nat) (r : HostReq) (inv : Bool), ¬idieOn s i →
    exec (asEvent d i h r) s = .next s ∧ exec (.bisnpRetry ⟨d, i, h⟩ r inv) s = .next s) ∧
  ∀ (s : State) (h : Nat) (inv : Bool), s.modules = 0 → exec (.hostSnoop h inv) s = .next s

/-- R382: where a back-invalidation meets the host's request for the half, the request is served first; then the half is
invalidated, or its data is taken, and its bytes read as the request left them. -/
def Sys2Proof.Claims.RetriedSnoops : Prop :=
  (∀ (s : State) (d j h : Nat) (r : HostReq) (inv : Bool), s.canon → LlcSound s → hostMay s j h →
    bound s d h → ∀ k, served s h k →
    ∃ u t, exec (asEvent d j h r) s = .next u ∧ exec (.bisnpRetry ⟨d, j, h⟩ r inv) s = .next t ∧
      t.dirOf k = (if inv then none else if u.dirOf k = some .m then some .s else u.dirOf k) ∧
      (∀ i, i < 64 → t.homeByte (inHalf h i) = u.homeByte (inHalf h i)) ∧ halvesBut u t k ∧ t.waves = s.waves) ∧
  (∀ (s : State) (d j h : Nat) (r : HostReq) (inv : Bool), idieOn s j → hbmOk (h * 64) 64 = true → bound s d h → r ≠ .sharedRead →
    s.leasesPast engineCore ⟨.phys, h * 64 / 128 * 128⟩ = false → exec (.bisnpRetry ⟨d, j, h⟩ r inv) s = .next (waitsAt s h r))

/-- R381: a host snoop of a tag 0xF0 half is answered with the bridge's data once the leases on its line have passed: an M half
goes back to the host, and an invalidating snoop takes the half away. -/
def Sys2Proof.Claims.HostSnoops : Prop :=
  (∀ (s : State) (h : Nat) (inv : Bool), s.canon → s.modules ≠ 0 → s.leasesPast engineCore ⟨.host, h * 64 / 128 * 128⟩ = true → h < 2 ^ 100 →
    ∃ t, exec (.hostSnoop h inv) s = .next t ∧ t.waves = s.waves ∧
      t.bridgeOf h = (if inv then none else if (s.bridgeOf h).isSome then some .s else none) ∧
      (∀ k, k ≠ h → t.bridgeOf k = s.bridgeOf k) ∧
      ((s.bridgeOf h).isSome = true → t.reply = [(List.range 64).map fun i => (s.raw ⟨.bridge, 64 * h + i⟩).1.toNat]) ∧
      (s.bridgeOf h = some .m → ∀ i, i < 64 → t.raw ⟨.host, 64 * h + i⟩ = s.raw ⟨.bridge, 64 * h + i⟩ ∧
        t.homeByte ⟨.host, 64 * h + i⟩ = s.homeByte ⟨.host, 64 * h + i⟩) ∧
      (s.bridgeOf h ≠ some .m → ∀ i, i < 64 → t.raw ⟨.host, 64 * h + i⟩ = s.raw ⟨.host, 64 * h + i⟩)) ∧
  (∀ (s : State) (h : Nat) (inv : Bool), s.modules ≠ 0 → s.leasesPast engineCore ⟨.host, h * 64 / 128 * 128⟩ = false →
    exec (.hostSnoop h inv) s = .next { s with snoops := s.snoops ++ [(h, inv)] })

/-- R376, R377: each of the four modules fails and trains again by itself. -/
def Sys2Proof.Claims.Modules : Prop :=
  ∀ (s : State) (m : Nat), m < 4 → ∃ x y,
    exec (.ucieModuleFail m) s = .next { s with modules := x } ∧ exec (.ucieModuleTrain m) s = .next { s with modules := y } ∧
    x.getLsbD m = false ∧ y.getLsbD m = true ∧ ∀ k, k ≠ m → x.getLsbD k = s.modules.getLsbD k ∧ y.getLsbD k = s.modules.getLsbD k

/-- R386, R387: a flit that fails its CRC, is out of its channel's sequence or finds no buffer is discarded with a NAK; any
other DATA flit is performed once and acknowledged. A sound flit acknowledges what its header names, and with NAK set it asks
for a replay; a RATE flit sets the rates of all channels (R388). That a flit which fails its CRC names the channel of its NAK
is the model's choice (log 101). -/
def Sys2Proof.Claims.FlitsReceived : Prop :=
  ∀ (s : State) (i link : Nat) (f : Flit), fabric s → i < 32 → link < 32 → let p := s.port i
    p.link = some link → p.up = true →
    let l := s.links.getD link {}
    let c := hdrVc f
    let next := l.recvSeq.getD c 0
    let naks (t : State) : Prop := t.performed = s.performed ∧ t.links = s.links ∧ t.flight = s.flight ∧ t.mem = s.mem ∧
      controls p.sent (t.port i).sent 1 c true next
    (¬soundFlit f → ∃ t, exec (.flitReceive i f none) s = .next t ∧ naks t ∧ ∀ j, (t.port j).replay = (s.port j).replay) ∧
    (soundFlit f → hdrKind f = 0 → (hdrSeq f ≠ next ∨ ¬finds s) → ∃ t, exec (.flitReceive i f none) s = .next t ∧ naks t ∧ acts s t l f) ∧
    (soundFlit f → hdrKind f = 0 → hdrSeq f = next → finds s →
      ∃ t, exec (.flitReceive i f none) s = .next t ∧ t.performed = (i, c, f.payload.take (8 * hdrLen f)) :: s.performed ∧
        t.links = s.links.set link { l with recvSeq := l.recvSeq.set c (next + 1) } ∧ acts s t l f ∧
        controls p.sent (t.port i).sent 1 c false (next + 1) ∧ t.mem = s.mem) ∧
    (soundFlit f → hdrKind f ≠ 0 → ∃ t, exec (.flitReceive i f none) s = .next t ∧ t.performed = s.performed ∧ t.links = s.links ∧
      (t.port i).sent = p.sent ∧ acts s t l f ∧ t.mem = s.mem ∧
      (t.port i).rates = if hdrKind f = 2
        then (List.range 4).map fun v => BitVec.ofNat 16 (natOf (((f.payload.take (8 * hdrLen f)).drop (2 * v)).take 2)) else p.rates)

/-- R390, R391, R405, R406: an inbound access is performed for a source with a grant, at the home that the tag 0x00 table of RVD
gives, with its order and mask, behind the accesses of the same source; without a grant, while the device is lodged or in a
reset, or where the translation of a byte fails, nothing is performed. R392: an ABANDON flit ends the open collective of its
group. The layout of responses is the model's choice (log 99). -/
def Sys2Proof.Claims.InboundAccesses : Prop :=
  (∀ (s : State) (i link : Nat) (f : Flit) (a : PeerAcc), fabric s → i < 32 → link < 32 → (s.port i).link = some link → (s.port i).up = true →
    soundFlit f → hdrKind f = 0 → hdrVc f = 0 → hdrSeq f = (s.links.getD link {}).recvSeq.getD 0 0 → finds s →
    let v := s.vd a.rvd
    let granted := v.live = true ∧ v.resetting = none ∧ v.lodge < 2 ∧ some (a.fabid, a.vd) ∈ v.grants
    let goes (j : Nat) (p : Perm) : Except Byte Place := s.translate (2 ^ 40) a.rvd 0 0 ((a.off + BitVec.ofNat 64 j).setWidth 72) p
    let source := 2 ^ 40 + a.fabid * 64 + a.vd
    ∃ t, exec (.flitReceive i f (some a)) s = .next t ∧ (t.links.getD link {}).recvSeq.getD 0 0 = hdrSeq f + 1 ∧
      let enters (k : OpKind) : Prop := ∃ o, t.flight = s.flight ++ [o] ∧ o.id = s.seq ∧ o.wave = source ∧ o.ord = Machine.orderOf a.ord ∧
        o.mask = a.mask ∧ o.answer = some (link, a.rvd) ∧ o.after = (s.flight.filter fun p => p.wave == source).map (·.id) ∧ o.kind = k
      (¬granted → t.flight = s.flight ∧ t.mem = s.mem) ∧
      (granted → ∀ (d : List Byte) (ps : List Place), a.kind = .write d →
        (∀ j, j < d.length → goes j .w = .ok (ps.getD j (.lane 0))) →
        enters (.store ((List.range d.length).map fun j => { lane := 0, place := ps.getD j (.lane 0), size := 1, data := [d.getD j 0] }))) ∧
      (granted → ∀ (n : Nat) (ps : List Place), a.kind = .read n →
        (∀ j, j < n → goes j .r = .ok (ps.getD j (.lane 0))) →
        enters (.load ((List.range n).map fun j => { lane := 0, place := ps.getD j (.lane 0), size := 1 }) .none .word 0)) ∧
      (granted → ∀ (aop n : Nat) (d : List Byte) (q : Place), a.kind = .atomic aop n d → 0 < n → goes 0 .rw = .ok q →
        (∀ j, j < n → ∃ r, goes j .rw = .ok r) →
        enters (.atomic aop n [{ lane := 0, place := q, size := n, data := d }] .none [] true)) ∧
      (granted → ∀ (n j : Nat) (p : Perm) (c : Byte), (a.kind = .read n ∧ p = .r ∨ (∃ d, a.kind = .write d ∧ d.length = n ∧ p = .w) ∨
        (∃ aop d, a.kind = .atomic aop n d ∧ p = .rw)) → j < n → goes j p = .error c → t.flight = s.flight ∧ t.mem = s.mem)) ∧
  (∀ (s : State) (i link g : Nat) (f : Flit) (a : PeerAcc) (c : OpenColl), fabric s → i < 32 → link < 32 → (s.port i).link = some link →
    (s.port i).up = true → soundFlit f → hdrKind f = 0 → hdrVc f = 3 → hdrSeq f = (s.links.getD link {}).recvSeq.getD 3 0 → finds s →
    a.kind = .abandon g → s.colls.find? (fun c => c.vd == a.rvd && c.group == g && !c.gone) = some c →
    ∃ t, exec (.flitReceive i f (some a)) s = .next t ∧ t.flight = s.flight ∧ t.colls.length = s.colls.length ∧
      ∀ x ∈ t.colls, x.op = c.op → x.gone = true)

/-- R387, R388: ACK empties the replay buffer up to its number; NAK has the rest replayed; RATE sets a channel's rate, and 0
stops it; a port announces its own rates; no port takes more than 1,024 flits; after 16 replays of one flit in a row it retrains. -/
def Sys2Proof.Claims.PortControl : Prop :=
  (∀ (s : State) (i k : Nat) (c : BitVec 2) (a : BitVec 12), fabric s → k < 32 → (s.port i).link = some k →
    let l := s.links.getD k {}
    let held := heldOn s l c.toNat a
    (∃ t, exec (.ack i ⟨c, a⟩) s = .next t ∧ t.mem = s.mem ∧ (∀ j, j ∉ l.ports → t.port j = s.port j) ∧ ∀ j ∈ l.ports,
      held j <+: (t.port j).replay ∧ (s.port j).sent <+: (t.port j).sent ∧
      ((s.port j).replay.length ≤ 1024 → (t.port j).replay.length ≤ 1024) ∧ ((s.port j).out = [] → (t.port j).replay = held j) ∧
      (∀ g ∈ held j, replaysOf (t.port j) g.2 = replaysOf (s.port j) g.2) ∧
      ((held j).length < (s.port j).replay.length → ∀ x ∈ (t.port j).replays, ∃ g ∈ held j, x.1 = hdrVc g.2 ∧ x.2.1 = (hdrSeq g.2).toNat)) ∧
    ∃ t, exec (.nak i ⟨c, a⟩) s = .next t ∧ t.mem = s.mem ∧ (∀ j, j ∉ l.ports → t.port j = s.port j) ∧ ∀ j ∈ l.ports,
      held j <+: (t.port j).replay ∧ (∃ x, (t.port j).sent = (s.port j).sent ++ x ∧
        ∀ g ∈ held j, hdrVc g.2 = c.toNat → g ∈ (t.port j).again ∨ g.2 ∈ x) ∧
      (((held j).map fun g => (hdrVc g.2, hdrSeq g.2)).Nodup → ∀ g ∈ held j, replaysOf (t.port j) g.2 =
        replaysOf (s.port j) g.2 + if hdrVc g.2 = c.toNat then 1 else 0)) ∧
  (∀ (s : State) (i : Nat) (vc : BitVec 2) (rate : BitVec 16), fabric s → i < 32 → let p := s.port i
    ∃ t, exec (.rate i vc rate) s = .next t ∧ (t.port i).rates = p.rates.set vc.toNat rate ∧
      p.replay <+: (t.port i).replay ∧ p.sent <+: (t.port i).sent ∧
      ((∀ v, (p.rates.set vc.toNat rate).getD v 0 = 0) → (t.port i).sent = p.sent) ∧
      (p.replay.length ≤ 1024 → (t.port i).replay.length ≤ 1024) ∧ t.mem = s.mem) ∧
  (∀ (s : State) (i : Nat), fabric s → i < 32 → let p := s.port i
    (p.up = true → ∃ t, exec (.rateTimer i) s = .next t ∧ (t.port i).announce.length = 4 ∧
      controls p.sent (t.port i).sent 2 3 false (match p.link with | some l => (s.links.getD l {}).recvSeq.getD 3 0 | none => 0) ∧
      ∀ f, (t.port i).sent = p.sent ++ [f] → f.payload.take 8 = (t.port i).announce.flatMap fun r => bytesOf 2 r.toNat) ∧
    (p.up = false → exec (.rateTimer i) s = .next s)) ∧
  (∀ (s : State) (i : Nat), fabric s → i < 32 → let p := s.port i
    let others := match p.link with | some k => (s.links.getD k {}).ports.filter fun q => q != i && (s.port q).up | none => []
    ((∃ x ∈ p.replays, 16 ≤ x.2.2) ∨ p.up = false →
      (∃ t, exec (.portRetrain i true) s = .next t ∧ t.port i = { p with up := true, replays := [], again := p.replay }) ∧
      (others = [] → ∃ t, exec (.portRetrain i false) s = .next t ∧ t.port i = { p with up := false }) ∧
      (∀ q, others.head? = some q → ∃ t, exec (.portRetrain i false) s = .next t ∧
        t.port i = { p with up := false, replay := [], again := [], out := [] } ∧
        t.port q = { s.port q with replay := (s.port q).replay ++ p.replay, again := (s.port q).again ++ p.replay
                                   out := (s.port q).out ++ p.out })) ∧
    (∀ ok, (∀ x ∈ p.replays, x.2.2 < 16) → p.up = true → exec (.portRetrain i ok) s = .next s))

/-- R385, R387, R393: 1 to 8 ports join a peer link, not in recovery (R408); a link whose ports have all failed to retrain goes down: what is
outstanding on its slots is lost, dropped, stopped or ends ABANDONED, and new accesses there fail; it trains again, and
what it had sent is replayed. -/
def Sys2Proof.Claims.PeerLinks : Prop :=
  (∀ (s : State) (k : Nat) (ps : List Nat), s.recovery = false → fabric s → k < 32 → 1 ≤ ps.length → ps.length ≤ 8 → ps.Nodup →
    (∀ p ∈ ps, p < 32 ∧ ((s.port p).link = none ∨ (s.port p).link = some k)) →
    ∃ t, exec (.peerLinkJoin k ps) s = .next t ∧ t.links.getD k {} = { ports := ps } ∧
      (∀ j, j ≠ k → t.links.getD j {} = s.links.getD j {}) ∧
      ∀ i, i < 32 → (t.port i).link = if i ∈ ps then some k else if (s.port i).link = some k then none else (s.port i).link) ∧
  (∀ (s : State) (k : Nat) (ps : List Nat), s.recovery = true ∨ 32 ≤ k ∨ ps = [] ∨ 8 < ps.length ∨ ¬ps.Nodup ∨ (∃ p ∈ ps, 32 ≤ p) →
    exec (.peerLinkJoin k ps) s = .next s) ∧
  (∀ (s : State) (k : Nat), fabric s → k < 32 → let l := s.links.getD k {}
    let crosses (g slot : Nat) : Prop := ((s.vd (s.gang g).vd).peers.getD slot 0).extractLsb' 22 5 = BitVec.ofNat 5 k
    (l.down = false → l.ports ≠ [] → (∀ p ∈ l.ports, (s.port p).up = false) →
      ∃ t, exec (.linkDown k) s = .next t ∧ t.links = s.links.set k { l with down := true } ∧ t.ports = s.ports ∧
        (∀ d slot, ((s.vd d).peers.getD slot 0).extractLsb' 22 5 = BitVec.ofNat 5 k → ∀ n, t.slotFails d slot n = true) ∧
        (∀ o ∈ t.flight, ∀ x ∈ o.accs, ∀ slot off, x.place = .peer slot off → crosses o.gang slot → x.lost = true) ∧
        (∀ c ∈ s.colls, ∀ o, s.op? c.op = some o → t.ringDown c.vd o.entry = true → ∃ x ∈ t.colls, x.op = c.op ∧ x.gone = true) ∧
        (∀ o ∈ s.flight, ∀ q kd w landed x, o.kind = .copy q kd w true x landed → (∀ a b c e f g, kd ≠ .coll a b c e f g) →
          (∃ slot off, Place.peer slot off ∈ kd.dst.drop (landed / 4) ∧ crosses o.gang slot) → o.gang < s.gangs.length →
          (t.gang o.gang).st = .engine ∨ (s.gang o.gang).st = .retired)) ∧
    ((∃ p ∈ l.ports, (s.port p).up = true) ∨ l.down = true → exec (.linkDown k) s = .next s) ∧
    (l.down = true → ∃ t, exec (.peerLinkTrain k) s = .next t ∧ t.links = s.links.set k { l with down := false } ∧
      (∀ p ∈ l.ports, t.port p = { s.port p with up := true, replays := [], again := (s.port p).replay }) ∧ t.mem = s.mem) ∧
    (l.down = false → exec (.peerLinkTrain k) s = .next s))

namespace Sys2Proof.Claims

/-! ## dmt -/

/-- dmt is attached to the device (R352). -/
def attached (s : State) (d : Nat) : State := s.modVd d fun v => { v with dmt := true }

/-- Bytes written at their homes. -/
def storedAt (s : State) (ls : List Loc) (bs : List Byte) : State := (ls.zip bs).foldl (fun s x => s.homePut x.1 x.2) s

/-- The homes of bytes from address a on pages of tag 0x00 that allow `p`. -/
def homesAt (s : State) (d a : Nat) (bs : List Byte) (p : Perm) (ls : List Loc) : Prop :=
  ls.length = bs.length ∧ ∀ i, i < bs.length → s.engLoc d (a + i) p = ls[i]?

/-- dmt is attached, the object's task types are in the device's table, and its addresses are noted for stop reports if it was
loaded with offsets (R413). -/
def loads (s : State) (d code : Nat) (o : DmtObject) : State := s.modVd d fun v => { v with
  dmt := true
  types := o.types.foldl (fun ts e => ts.set e.1
    (0#16 ++ e.2.extractLsb' 80 32 ++ 0#2 ++ e.2.extractLsb' 72 6 ++ 0#5 ++ e.2.extractLsb' 0 67 : BitVec 128)) v.types
  kernels := if o.offsets then (code + o.first, code + o.bytes.length) :: v.kernels else v.kernels }

/-- A print: nothing but what dmt shows changes. -/
def prints (i : Instr) (s : State) (r : List (List Nat)) : Prop := exec i s = .next { s with reply := r }

/-- A scalar as dmt shows it: tag, value, and 0 FULL, 1 EMPTY or 2 POISON. -/
def shownS (x : SReg) : List Nat := [x.tag.toNat, x.val.toNat, match x.st with | .full => 0 | .empty => 1 | .poison => 2]

/-- A vector register as dmt shows it: 1 where EMPTY, its poison mask, its lanes. -/
def shownV (x : VReg) : List Nat := [if x.empty then 1 else 0, x.poison.toNat] ++ x.lanes.map (·.toNat)

/-- The wave's DMT_RUN: not held, and resumed where a breakpoint or watchpoint suspended it (R352, R413). -/
def runsOn (x y : Wave) : Prop := y.dmtStop = none ∧ y.v = x.v ∧ y.y = x.y ∧
  match x.mode with
  | .suspended f _ => if x.trapc.extractLsb' 0 8 = 0x12#8 ∨ x.trapc.extractLsb' 0 8 = 0x13#8
      then y.mode = .run ∧ (f < x.frags.length → (y.frags.getD f {}).pc = (x.frags.getD f {}).epc)
      else y.mode = x.mode ∧ y.frags = x.frags
  | _ => y.mode = x.mode ∧ y.frags = x.frags

/-- Where dmt sees a byte: at its home, on a page that may be read or executed (R412). -/
def seesAt (s : State) (d : Nat) (a : Addr) : Option Loc :=
  match s.translate (2 ^ 40) d 0 0 a .r, s.translate (2 ^ 40) d 0 0 a .x with
  | .ok (.homed l _), _ => some l
  | _, .ok (.homed l _) => some l
  | _, _ => none

/-- dmt sees the bytes of n elements of z bytes. -/
def dmtSees (s : State) (d : Nat) (a : Addr) (n z : Nat) (ls : List (List Loc)) : Prop := ls.length = n ∧
  ∀ i, i < n → (ls.getD i []).length = z ∧
    ∀ j, j < z → seesAt s d (a + BitVec.ofNat 72 (z * i) + BitVec.ofNat 72 j) = some ((ls.getD i []).getD j default)

/-- The state of a line at its home (R412): 0 absent, 1 clean, 2 dirty. -/
def lineOf (s : State) (l : Loc) : Nat :=
  match s.llc.find? fun e => e.line == ⟨(s.fwd l).sp, (s.fwd l).a / 128 * 128⟩ with
  | none => 0
  | some e => if e.dirty = 0 then 1 else 2

/-- How a wave stands (R425): 0 to 2 running, in handler or recompute code; 3 to 5 suspended, stopped, exited; 6 held by dmt. -/
def stands (w : Wave) : Nat :=
  if w.dmtStop = some 0 then 6 else match w.mode with
  | .run => 0 | .handler _ => 1 | .recompute => 2 | .suspended .. => 3 | .stopped _ => 4 | .ended => 5

/-- What a fragment is parked on, or the EMPTY registers that its next unit waits on (R425). -/
def standsAt (w : Wave) (f : Nat) : List Nat :=
  match (w.frags.getD f {}).park with
  | .join => [1] | .nbar b => [2, b] | .sync g => [3, g] | .vx t => [4, t] | .wfe b t _ => [5, b, t.getD 0] | .task => [6] | .data o => [7, o]
  | .none => match w.waits.find? fun x => x.frag == f with
    | none => [0]
    | some x => if x.scalars = [] ∧ x.vectors = [] then [9] else 8 :: x.scalars.length :: (x.scalars ++ x.vectors)

end Sys2Proof.Claims

/-- R352, R413, R418, R428: dmt loads code, task types and data, to pages that allow it, launches through Umarek, and sets
breakpoints, watchpoints, vectors, requests and faults that a wave's unit can raise. That the monitor is attached by LOAD, LAUNCH,
BREAK, WATCH, RUN and INJECT_PREEMPT, and that RUN resumes what BKPT and WATCH have suspended, is the model's choice, log 75. -/
def Sys2Proof.Claims.DmtActs : Prop :=
  (∀ (s : State) (d code data : Nat) (o : DmtObject) (image : List Byte) (ls ms : List Loc), (s.vd d).live = true → data % 128 = 0 →
    homesAt (loads s d code o) d code o.bytes .x ls → homesAt (storedAt (loads s d code o) ls o.bytes) d data image .rw ms →
    exec (.dmtLoad d code o data image) s = .next { storedAt (storedAt (loads s d code o) ls o.bytes) ms image with
      reply := [[o.bytes.length - o.first, o.roles, o.regs, o.tiles, o.bindings, o.recipes]] }) ∧
  (∀ (s : State) (d code data : Nat) (o : DmtObject) (image : List Byte),
    data % 128 ≠ 0 ∨ (∃ i, i < o.bytes.length ∧ (loads s d code o).engLoc d (code + i) .x = none) →
    exec (.dmtLoad d code o data image) s = .next s) ∧
  (∀ (s : State) (d st : Nat) (block : List Byte) (addr : DWord) (seq : Word) (ls : List Loc), let q := (s.vd d).streams.getD st {}
    takesWrites s d → st < 16 → (q.wridx + 1) % 31 ≠ q.rdidx → homesAt (attached s d) d addr.toNat block .rw ls →
    ∃ t, exec (.dmtLaunch d st block addr seq) s = .next t ∧
      exec (.umarekLaunch d st addr seq false) (storedAt (attached s d) ls block) = .next t) ∧
  (∀ (s : State) (d n : Nat) (at_ : DWord) (w : Option Nat) (a : Addr), (s.vd d).live = true →
    exec (.dmtBreak d at_ w) s = .next (s.modVd d fun v => { v with dmt := true, breaks := v.breaks ++ [(at_, w)] }) ∧
    exec (.dmtWatch d a n) s = .next (s.modVd d fun v => { v with dmt := true, watches := v.watches ++ [(a, n)] }) ∧
    exec (.dmtVector d n at_) s = .next (s.modVd d fun v => { v with
      vectors := v.vectors.set n (0#62 ++ 1#2 ++ at_ : BitVec 128) })) ∧
  (∀ (s : State) (d : Nat) (w : Option Nat), (s.vd d).live = true → ∃ t, exec (.dmtRun d w) s = .next t ∧ t.mem = s.mem ∧
    t.waves.length = s.waves.length ∧ ∀ i, i < s.waves.length →
      if (s.gang (s.wave i).gang).vd = d ∧ (w = none ∨ w = some i) then runsOn (s.wave i) (t.wave i) else t.wave i = s.wave i) ∧
  (∀ (s : State) (w n : Nat),
    ((s.wave w).dmtStop = some 0 → exec (.dmtStep w n) s = .next (s.modWave w fun x => { x with dmtStop := some n })) ∧
    ((s.wave w).dmtStop ≠ some 0 → exec (.dmtStep w n) s = .next s)) ∧
  (∀ (s : State) (w c : Nat),
    (1 ≤ c ∧ c ≤ 0x1B ∧ c ≠ 0x14 ∧ c ≠ 0x15 →
      exec (.dmtInjectFault w c) s = .next (s.modWave w fun x => { x with inject := some (BitVec.ofNat 8 c) })) ∧
    (c = 0 ∨ 0x1B < c ∨ c = 0x14 ∨ c = 0x15 → exec (.dmtInjectFault w c) s = .next s)) ∧
  (∀ (s : State) (d : Nat), d < s.vds.length → (s.vd d).live = true → ∃ t, exec (.dmtInjectPreempt d) s = .next t ∧
    ((∀ x ∈ s.waves, ∀ f ∈ x.frags, ∀ n, f.park ≠ .vx n) → t.waves = s.waves) ∧
    (∀ g w, (s.gang g).vd = d → (s.gang g).placed = true → (s.gang g).preempt = none → (s.gang g).ovf = false → g < s.gangs.length →
      w ∈ (s.gang g).waves → ∀ f ∈ (t.wave w).frags, ∀ n, f.park ≠ .vx n) ∧
    t.mem = s.mem ∧ (t.vd d).dmt = true ∧ ∀ g, g < s.gangs.length → t.gang g =
      if (s.gang g).vd = d ∧ (s.gang g).placed = true ∧ (s.gang g).preempt = none ∧ (s.gang g).ovf = false
      then { s.gang g with preempt := some s.time, warned := false } else s.gang g)

/-- R412, R413, R421, R425: what dmt prints of registers, waves and memory; a print changes nothing else. The b32 words of code are
noted for their disassembly, which follows. A trace is of the lines that n bytes of a device touch. How a row is written as
numbers is the model's choice, log 75. -/
def Sys2Proof.Claims.DmtPrints : Prop :=
  (∀ (s : State) (w k : Nat), prints (.dmtKpred w k) s [[if k = 0 then 0xFFFFFFFF else ((s.wave w).k.getD k 0).toNat]]) ∧
  (∀ (s : State) (w f : Nat) (rs vs : List Nat), ∃ r, prints (.dmtRegs w f rs vs) s r ∧ r.length = rs.length + vs.length ∧
    (∀ (i n : Nat), rs[i]? = some n →
      (1 ≤ n → n < 64 → r[i]? = some (shownS (((s.wave w).frags.getD f {}).s.getD n {}))) ∧
      (n = 0 → r[i]? = some [0, 0, 0]) ∧
      (64 ≤ n → n < 79 → let x := srdVal { s with cur := { s.cur with wave := w, frag := f } } (n - 64)
        r[i]? = some [x.2.toNat, x.1.toNat, 0]) ∧
      (256 ≤ n → (s.wave w).handling = true → r[i]? = some (shownS ((s.wave w).y.getD (n - 256) {})))) ∧
    ∀ (i n : Nat), vs[i]? = some n →
      (n < 56 → r[rs.length + i]? = some (shownV ((s.wave w).v.getD n {}))) ∧
      (256 ≤ n → (s.wave w).handling = true → r[rs.length + i]? = some (shownV ((s.wave w).w.getD (n - 256) {})))) ∧
  (∀ (s : State) (d : Nat), ∃ r, prints (.dmtWaves d) s r ∧
    r = (s.waves.filter fun w => (s.gang w.gang).vd == d).flatMap fun w =>
      [(s.gang w.gang).index, w.wg, w.idx, w.die, w.cluster, w.core, w.part, w.slot, stands w] ::
        ((List.range w.frags.length).filter fun f => (w.frags.getD f {}).live).map fun f =>
          [f, (w.frags.getD f {}).depth, (if w.handling then w.hpc else (w.frags.getD f {}).pc).toNat] ++ standsAt w f) ∧
  (∀ (s : State) (d n z : Nat) (a : Addr) (ls : List (List Loc)), dmtSees s d a n z ls → ∀ code : List Bool, code.length = n →
    (∀ i, i < n → (code.getD i false = true ↔ ∃ q, s.translate (2 ^ 40) d 0 0 (a + BitVec.ofNat 72 (z * i)) .x = .ok q)) →
    let asked (f : List Loc → List Byte) : List (List Byte) :=
      if z = 4 then ((ls.zip code).filter fun e => e.2).map fun e => f e.1 else []
    (exec (.dmtMem d a n ⟨z, true⟩) s = .next { s with
      reply := ls.map fun e => [natOf (e.map fun l => (s.hbm (s.fwd l)).1)], words := asked fun e => e.map fun l => (s.hbm (s.fwd l)).1 }) ∧
    ((∀ e ∈ ls, ∀ l ∈ e, l.sp = .phys ∧ s.dirOf ((s.fwd l).a / 64) ≠ some .m ∨ l.sp = .fmt ∨ l.sp = .tier1) →
      exec (.dmtMem d a n ⟨z, false⟩) s = .next { s with
        reply := ls.map fun e => [lineOf s (e.headD default), natOf (e.map fun l => (s.homeByte l).1)]
        words := asked fun e => e.map fun l => (s.homeByte l).1 })) ∧
  (∀ (s : State) (d n : Nat) (a : Addr) (ls : List Loc), ls.length = n →
    (∀ i, i < n → seesAt s d (a + BitVec.ofNat 72 (128 * i)) = some (ls.getD i default)) →
    prints (.dmtMemDir d a n) s (ls.map fun l => (List.range 2).map fun j =>
      match s.dirOf ((s.fwd ⟨l.sp, l.a / 128 * 128⟩).a / 128 * 2 + j) with | none => 0 | some .s => 1 | some .e => 2 | some .m => 3)) ∧
  (∀ (s : State) (d n k : Nat) (a : Addr) (ls : List Loc), 0 < n → k = (a.toNat % 128 + n + 127) / 128 → ls.length = k →
    (∀ i, i < k → seesAt s d (a - BitVec.ofNat 72 (a.toNat % 128) + BitVec.ofNat 72 (128 * i)) = some (ls.getD i default)) →
    exec (.dmtTrace (some d) a n) s = .next { s with trace := ls.map fun l => ⟨l.sp, l.a / 128 * 128⟩, exchanges := [] }) ∧
  (∀ (s : State) (n : Nat) (a : Addr), ∃ r, prints (.dmtTrace none a n) s r ∧ r.length = s.exchanges.length ∧
    ∀ (i : Nat) (e : Exchange), s.exchanges[i]? = some e → ∃ y, r[i]? = some y ∧ y[0]? = some e.time ∧ y[2]? = some e.half.a ∧
      y[3]? = some (match e.cause with | .package => 0 | .host => 1 | .wave .. => 2) ∧ y.drop 12 = e.data.map (·.toNat))

/-- R412, R425, R428: what dmt prints of the tables: a tree's descriptor and nodes, pins, overflow store and deferred
list, a rink's descriptor, frontiers and bitmaps, and the words of head 0 at positions of a layer, none where one has no page. -/
def Sys2Proof.Claims.DmtTables : Prop :=
  (∀ (s : State) (d n : Nat) (tr : Tree), (s.vd d).trees.find? (fun p => p.1 == n) = some (n, tr) →
    ∃ r, prints (.dmtSlalom d n) s ([tr.cap, if tr.rootv then 1 else 0, tr.root, tr.cap - tr.nodes.length, tr.c.toNat, tr.vloss.toNat, tr.fpu.toNat] :: r) ∧
      r.length = tr.nodes.length ∧ ∀ (i k : Nat) (x : Node), tr.nodes[i]? = some (k, x) →
        (r[i]?.map fun y => y.take 9) = some [k, x.n.toNat, x.w.toNat, x.p.toNat, x.vl.toNat, x.first, x.nch, x.token.toNat, x.parent]) ∧
  (∀ (s : State) (d : Nat), ∃ r, prints (.dmtPins d) s r ∧
    (∀ (g i k : Nat) (x : Wg), g < s.gangs.length → (s.gang g).vd = d → (s.gang g).wgs[i]? = some x → k < 8 → x.pins.getD k 0 ≠ 0 →
      [0, (s.gang g).index, i, k, (x.pins.getD k 0).toNat] ∈ r) ∧
    (∀ e ∈ (s.vd d).ovf, [1, e.name.toNat, e.gang, e.wg, e.reg] ∈ r) ∧
    ∀ e ∈ (s.vd d).deferred, ∃ y ∈ r, y.take 3 = [2, bucketOf e.name, e.name.toNat]) ∧
  (∀ (s : State) (d h : Nat) (k : Rink), (s.vd d).rink h = some k → 
    (∃ r, prints (.dmtRink d ⟨h, none⟩) s
        ([k.fmt, k.nlayers, k.nheads, k.hdim, k.ppplog, k.maxpos, k.next, k.held.length, (s.vd d).pool.length] :: r) ∧
      r.length = k.nlayers ∧ ∀ l, l < k.nlayers → ∃ F, r[l]? = some [F, k.pub.getD l 0 % 2 ^ 64] ∧ isFrontier (k.pub.getD l 0) F) ∧
    ∀ l p n, ∃ r, prints (.dmtRink d ⟨h, some (l, p, n)⟩) s r ∧ r.length = n ∧ ∀ i, i < n → ∃ x, r[i]? = some ([l, p + i] ++ x) ∧
      (pageOf k l (p + i) = none → x = []) ∧ (pageOf k l (p + i) ≠ none → x.length = 2 * (k.vb / 4)))

namespace Sys2Proof.Claims

/-! ## Decoding and the step -/

/-- The state in which a step looks for what to do: time has passed (R343), and the turns have moved on. -/
def turned (s : State) : State := { s.tickTime with turns := s.tickTime.turns.tail, evTurn := !s.tickTime.evTurn }

/-- What follows every step: the package's upkeep, and what an attached dmt sees. -/
noncomputable def kept (t : State) : State := t.settle.watchWaits.disassemble

/-- Unit (w, f) is the first in order at the next step, and neither dmt nor an input comes before it. -/
def unitNext (s : State) (w f : Nat) : Prop :=
  s.inputs = [] ∧ s.evTurn = false ∧ s.tickTime.order.head? = some (w, f) ∧ (turned s).breaks w f = false ∧
  ((turned s).wave w).inject = none

/-- The unit may issue (R38, R45, R350, R356, R374, R413). -/
def mayGo (s : State) (w f : Nat) : Prop :=
  let x := s.wave w
  let g := s.gang x.gang
  w < s.waves.length ∧ g.st = .resident ∧ g.halted = none ∧ x.blk = none ∧ x.dmtStop ≠ some 0 ∧
  match x.mode with
  | .handler h => f = h
  | .run | .recompute => f < 8 ∧ (x.frags.getD f {}).live = true ∧
    match (x.frags.getD f {}).park with | .join | .data _ => False | _ => True
  | _ => False

/-- The stop report of a wave (R413). -/
def reportsStop (s : State) (n : Note) (w : Nat) (pc : DWord) : Prop :=
  let x := s.wave w
  ∃ t off, n = .stop t w pc (if x.told then [] else [x.die, x.cluster, x.core, x.part, x.slot]) off ∧
    ∀ k, (s.vd (s.gang x.gang).vd).kernels = [k] → off = if k.1 ≤ pc.toNat ∧ pc.toNat < k.2 then some (pc.toNat - k.1) else none

/-- Unit a goes before unit b of its partition: its last issue is older, or they tie and its slot is lower, or its fragment
(R269). -/
def goesFirst (s : State) (a b : Nat × Nat) : Prop :=
  let la := ((s.wave a.1).frags.getD a.2 {}).lastIssue
  let lb := ((s.wave b.1).frags.getD b.2 {}).lastIssue
  la < lb ∨ (la = lb ∧ ((s.wave a.1).slot < (s.wave b.1).slot ∨ ((s.wave a.1).slot = (s.wave b.1).slot ∧ a.2 ≤ b.2)))

end Sys2Proof.Claims

/-- R47-R59, R70: every well-formed instruction that has an encoding is read back from its encoding. -/
def Sys2Proof.Claims.DecodeEncode : Prop := ∀ i : Instr, i.encoded = true → i.wf = true → decode (encode i) = some i

/-- R47, R59: what the decoder reads is well formed, and its encoding is the bytes that were read: 2 or 4, by bit 0. -/
def Sys2Proof.Claims.EncodeDecode : Prop := ∀ (b : Byte) (bs : List Byte) (i : Instr), 3 ≤ bs.length → decode (b :: bs) = some i →
  i.wf = true ∧ i.encoded = true ∧ encode i = (b :: bs).take (if b.getLsbD 0 then 4 else 2)

/-- Words of the spec's examples, and encodings that hold no instruction (R59, R70). -/
def Sys2Proof.Claims.DecodeWords : Prop :=
  decode (bytesOf 4 0x0A000079) = some (.trap 5) ∧ decode (bytesOf 4 0x000000F9) = some .rett ∧
  decode (bytesOf 4 0x0A00A179) = some (.srd 5 5) ∧ decode (bytesOf 4 0x1220_01F9) = some (.swr 9 4) ∧
  decode (bytesOf 4 0x0200026F) = some (.rwp 1) ∧ decode (bytesOf 4 0x00E40A2B) = some (.vshfl ⟨0, 0, 0, 0, 7, 8, 5⟩) ∧
  decode (bytesOf 4 0x02823075) = some (.rkalloc ⟨0, 5, 1, 6⟩) ∧ decode (bytesOf 4 0x071000F5) = some (.rkpub ⟨14, 8, 0⟩) ∧
  decode (bytesOf 4 0x0710A175) = some (.rkacq ⟨14, 8, 20⟩) ∧ decode (bytesOf 4 0x00000001) = none ∧
  decode (bytesOf 4 0x0000007B) = none

/-- R47, R49: an instruction is fetched from its lowest byte on, 2 or 4 bytes by bit 0, each from its home where the core
holds no copy of its sector and the wave has fetched none of it; a byte that faults gives its own address. What the wave has
fetched of a sector it executes until its own FENCEI, whatever is stored there. -/
def Sys2Proof.Claims.FetchReads : Prop :=
  (∀ (s : State) (n d : Nat) (pc : DWord) (l : Nat → Loc), s.canon → (∀ x ∈ s.sectors, x.1 ≠ (s.wave n).coreNo) → (∀ x ∈ s.views, x.1 ≠ n) →
    (∀ e ∈ s.tlb, e.tlb ≠ .core (s.wave n).coreNo ∧ e.tlb ≠ .cluster ((s.wave n).coreNo / 4)) → let b (j : Nat) : Byte := (s.homeByte (l j)).1
    let k := if (b 0).getLsbD 0 then 4 else 2
    (∀ j, j < k → s.fetchByte (s.wave n) d (pc + BitVec.ofNat 64 j) = .ok (l j) ∧ (l j).a < 2 ^ 112) →
    ∃ t, s.fetch n d pc = .ok ((List.range k).map b, t) ∧ t.cur = s.cur ∧ t.waves = s.waves ∧ t.gangs = s.gangs ∧ t.vds = s.vds ∧
      t.flight = s.flight) ∧
  (∀ (s : State) (n d : Nat) (pc : DWord) (c : Byte), s.fetchByte (s.wave n) d pc = .error c → s.fetch n d pc = .error (c, pc)) ∧
  (∀ (s : State) (n d : Nat) (pc : DWord) (l : Nat → Loc), (∀ e ∈ s.tlb, e.tlb ≠ .core (s.wave n).coreNo ∧ e.tlb ≠ .cluster ((s.wave n).coreNo / 4)) →
    let b (j : Nat) : Byte := (s.raw ⟨.iv n, (l j).tagged⟩).1
    let k := if (b 0).getLsbD 0 then 4 else 2
    (∀ j, j < k → s.fetchByte (s.wave n) d (pc + BitVec.ofNat 64 j) = .ok (l j) ∧ (n, ⟨(l j).sp, (l j).a / 32 * 32⟩) ∈ s.views) →
    ∃ t, s.fetch n d pc = .ok ((List.range k).map b, t) ∧ t.views = s.views ∧ t.mem = s.mem)

/-- R47, R48, R54, R55, R59: a step fetches where the first unit in order stands, and runs exactly the instruction that the
decoder reads there; after a prefix it goes on with the next one, if the prefix accepts it. What does not decode, what is
not accepted and what cannot be fetched take their trap. -/
def Sys2Proof.Claims.StepRunsDecoded : Prop :=
  ∀ (s : State) (w f : Nat), unitNext s w f → let a := (turned s).aim w f
    (a.cur.pc = ((turned s).wave w).pcOf f ∧ a.cur.start = a.cur.pc ∧ a.cur.pfx = none ∧ a.cur.wave = w ∧ a.cur.frag = f) ∧
    (∀ bs u, a.fetch w a.cg.vd a.cur.pc = .ok (bs, u) →
      let t := { u with cur := { u.cur with nxt := u.cur.pc + BitVec.ofNat 64 bs.length, opened := false, code := bs } }
      (decode bs = none → step s = .next (kept ((turned s).after (t.takeTrap ⟨0x01, 0, 0, false⟩) w f))) ∧
      ∀ i v, decode bs = some i → exec i t = .next v →
        (v.cur.opened = false → v.cur.stalled = false → step s = .next (kept ((turned s).after v w f))) ∧
        (v.cur.opened = true → ∀ bs' u', v.fetch v.cur.wave v.cg.vd v.cur.pc = .ok (bs', u') →
          let t' := { u' with cur := { u'.cur with nxt := u'.cur.pc + BitVec.ofNat 64 bs'.length, opened := false, code := bs' } }
          ∀ j y, decode bs' = some j →
            (t'.accepts j = true → exec j t' = .next y → y.cur.opened = false → y.cur.stalled = false →
              step s = .next (kept ((turned s).after y w f))) ∧
            (t'.accepts j = false → t'.cur.stalled = false → step s = .next (kept ((turned s).after (t'.takeTrap ⟨0x01, 0, 0, false⟩) w f))))) ∧
    (∀ c p, a.fetch w a.cg.vd a.cur.pc = .error (c, p) →
      step s = .next (kept ((turned s).after (a.takeTrap ⟨c, p.setWidth 72, 0, false⟩) w f))) ∧
    ∀ u : State, (∀ d, ((turned s).vd d).dmt = false) → (turned s).after u w f =
      (u.credit (turned s).exchanges.length (.wave w u.cur.code .weak)).counted w f

/-- R38, R269: the units that may issue, in their order: on a partition the one whose last issue is oldest goes first. -/
def Sys2Proof.Claims.IssueOrder : Prop :=
  ∀ s : State, (∀ w f, (w, f) ∈ s.order ↔ mayGo s w f) ∧
    s.order.Pairwise fun a b => (s.wave a.1).partNo = (s.wave b.1).partNo → goesFirst s a b

/-- What happens outside comes first: a step with an input performs it, and nothing else issues. That inputs come before
units is the model's choice. R413: a breakpoint stops its wave before the instruction, and an injected fault is taken at
the wave's next unit. A stop report names the wave and the address, gives the wave's placement on its first report, and the
offset from the first instruction of a kernel loaded with offsets. -/
def Sys2Proof.Claims.StepOrder : Prop :=
  (∀ (s : State) (i : Instr) (r : List Instr) (t : State), s.inputs = i :: r → i.encoded = false →
    exec i { s.tickTime with inputs := r } = .next t → step s = .next (kept t)) ∧
  (∀ (s : State) (w f : Nat), s.inputs = [] → s.evTurn = false → s.tickTime.order.head? = some (w, f) → let a := turned s
    (a.breaks w f = true → ∃ n, step s = .next (kept { (a.modWave w fun x => { x with dmtStop := some 0, brk := some f, told := true }) with notes := a.notes ++ [n] }) ∧ reportsStop a n w ((a.wave w).pcOf f)) ∧
    (∀ c, a.breaks w f = false → (a.wave w).inject = some c →
      step s = .next (kept (((a.modWave w fun x => { x with inject := none }).aim w f).takeTrap ⟨c, 0, 0, false⟩)))) ∧
  (∀ (s : State), s.inputs = [] → s.evTurn = true → ∀ u, (turned s).event? = some u → step s = .next (kept u)) ∧
  ∀ t : State, (∀ d, (t.settle.vd d).dmt = false) → t.settle.words = [] → kept t = t.settle

/-- No rule of the spec stops the package: every instruction and event answers a next state, and so does every step. -/
def Sys2Proof.Claims.StepNeverStops : Prop :=
  (∀ (i : Instr) (s : State), ∃ t, exec i s = .next t) ∧ ∀ s : State, ∃ t, step s = .next t

/-- Every step keeps memory in its canonical form: addresses and marks of poisoned bytes rise strictly, and no byte is
listed that reads as unlisted. -/
def Sys2Proof.Claims.StepKeepsMemory : Prop := ∀ s t : State, s.canon → step s = .next t → t.canon

/-- R91, R253, R351, R395, R400, R408, R409: the machine as a cold start finds it. That every location of memory reads 0 is the
model's choice, log 3, and so is that the bridges to the I-dies are open (R400's table gives OPEN = 0 at reset), log 7. -/
def Sys2Proof.Claims.ResetState : Prop :=
  let s := State.reset
  s.time = 0 ∧ s.waves = [] ∧ s.gangs = [] ∧ s.launches = [] ∧ s.tasks = [] ∧ s.flight = [] ∧ s.partitions = [] ∧ s.recovery = false ∧
  (∀ d, d < 64 → let v := s.vd d
    v.live = false ∧ v.eqwr = 0 ∧ v.eqrd = 0 ∧ v.flags = 0 ∧ v.auto = false ∧ v.now = false ∧ v.lodge = 0 ∧ v.idle = 1000 ∧ v.rst = 0 ∧
    (∀ st, st < 16 → let q := v.streams.getD st {}
      q.wridx = 0 ∧ q.rdidx = 0 ∧ q.prio = 0 ∧ q.en = false) ∧ (∀ c, c < 32 → v.vectors.getD c 1 = 0)) ∧
  (∀ i, i < 10 → s.firewall[i]? = some ⟨false, false, 0, 0⟩) ∧ (∀ i, i < 4 → s.firewall[10 + i]? = some ⟨true, false, 0, 0⟩) ∧
  ∀ l : Loc, s.raw l = (0, false)

/-- The machine after reset has its memory in canonical form. -/
def Sys2Proof.Claims.ResetCanon : Prop := State.reset.canon

/-! ## The statements for the provers -/

/-- Decoding gives back every encoded instruction. R47-R59, R70: every well-formed instruction that has an encoding is
read back from its encoding. -/
def Obligations.DecodeEncode : Prop := Sys2Proof.Claims.DecodeEncode

/-- What is decoded is well formed and encodes to the bytes read. R47, R59: what the decoder reads is well formed, and its
encoding is the bytes that were read: 2 or 4, by bit 0. -/
def Obligations.EncodeDecode : Prop := Sys2Proof.Claims.EncodeDecode

/-- Words of the spec decode to the instructions they stand for. Words of the spec's examples, and encodings that hold no
instruction (R59, R70). -/
def Obligations.DecodeWords : Prop := Sys2Proof.Claims.DecodeWords

/-- A step fetches and runs the decoded instruction. R47, R49: an instruction is fetched from its lowest byte on, 2 or 4
bytes by bit 0, each from its home where the core holds no copy of its sector and the wave has fetched none of it; a
byte that faults gives its own address. What the wave has fetched of a sector it executes until its own FENCEI,
whatever is stored there. R47, R48, R54, R55, R59: a step fetches where the first unit in order stands, and runs
exactly the instruction that the decoder reads there; after a prefix it goes on with the next one, if the prefix
accepts it. What does not decode, what is not accepted and what cannot be fetched take their trap. -/
def Obligations.StepRunsDecoded : Prop := Sys2Proof.Claims.FetchReads ∧ Sys2Proof.Claims.StepRunsDecoded

/-- What a step does first, and which unit issues. What happens outside comes first: a step with an input performs it, and
nothing else issues. That inputs come before units is the model's choice. R413: a breakpoint stops its wave before the
instruction, and an injected fault is taken at the wave's next unit. A stop report names the wave and the address,
gives the wave's placement on its first report, and the offset from the first instruction of a kernel loaded with
offsets. R38, R269: the units that may issue, in their order: on a partition the one whose last issue is oldest goes
first. -/
def Obligations.StepSchedule : Prop := Sys2Proof.Claims.StepOrder ∧ Sys2Proof.Claims.IssueOrder

/-- Every instruction and every step answers a next state. No rule of the spec stops the package: every instruction and
event answers a next state, and so does every step. -/
def Obligations.StepNeverStops : Prop := Sys2Proof.Claims.StepNeverStops

/-- Every step keeps memory in canonical form. Every step keeps memory in its canonical form: addresses and marks of
poisoned bytes rise strictly, and no byte is listed that reads as unlisted. -/
def Obligations.StepKeepsMemory : Prop := Sys2Proof.Claims.StepKeepsMemory

/-- The machine as a cold start finds it. R91, R253, R351, R395, R400, R408, R409: the machine as a cold start finds it.
That every location of memory reads 0 is the model's choice, log 3, and so is that the bridges to the I-dies are open
(R400's table gives OPEN = 0 at reset), log 7. -/
def Obligations.ResetState : Prop := Sys2Proof.Claims.ResetState

/-- Memory after reset is in canonical form. The machine after reset has its memory in canonical form. -/
def Obligations.ResetCanon : Prop := Sys2Proof.Claims.ResetCanon

/-- Lane instructions: values, destinations and lanes. Integer, immediate, floating-point, conversion and dot-product
instructions and the compact forms complete, and write the value of their entries in every active lane. Each of these
forms completes: exec answers the next state given here, under hypotheses on the state and the operands alone: cMov,
cAdd, cSub, cMul, cAnd, cOr, cXor, cShl, cShrz, cAddi, cShli, cFadd, cFsub, cFmul, cFmax, cFmin, vadd, vsub, vaddss,
vaddsz, vmul, vmulhs, vmulhz, vmad, vand, vor, vxor, vandn, vshl, vshrz, vshrs, vrot, vmins, vmaxs, vminz, vmaxz,
vpopc, vaddi, vandi, vshli, vshrzi, vmovi, vmuli, vshrsi, vxori, vdot4, vdot8, vdot4s, vdot8s, vfadd, vfsub, vfmul,
vfma, vfmin, vfmax, vfabs, vfneg, vhfma, vbfma, vhmul, vbmul, vhadd, vbadd, vhmax, vbmax, vmovw, vmovwz, vfmovb,
vmovhi, vcvt. -/
def Obligations.VectorLanes : Prop := Sys2Proof.Claims.VectorLanes

/-- REP, and the waits and faults of lane instructions. R54, R100: under REP a vector instruction runs count times, each
repetition reading what the one before has written. R54: before any repetition a register number above 55 raises ILL,
and v40-v55 without a block XBLK; nothing is written. R93, R100, R30, R350: what holds a vector instruction between
registers up. A source that is EMPTY makes it wait and nothing changes but that the unit did not issue; with its T bit
it raises FEMPTY. A poisoned active lane raises POISON with the register number. v40-v55 without a block raise XBLK.
In a handler v8 and up raise ILL. Each of these forms completes: exec answers the next state given here, under
hypotheses on the state and the operands alone: cMov, cAdd, cSub, cMul, cAnd, cOr, cXor, cShl, cShrz, cAddi, cShli,
cFadd, cFsub, cFmul, cFmax, cFmin, vadd, vsub, vaddss, vaddsz, vmul, vmulhs, vmulhz, vmad, vand, vor, vxor, vandn,
vshl, vshrz, vshrs, vrot, vmins, vmaxs, vminz, vmaxz, vpopc, vaddi, vandi, vshli, vshrzi, vmovi, vmuli, vshrsi, vxori,
vdot4, vdot8, vdot4s, vdot8s, vfadd, vfsub, vfmul, vfma, vfmin, vfmax, vfabs, vfneg, vhfma, vbfma, vhmul, vbmul,
vhadd, vbadd, vhmax, vbmax, vmovw, vmovwz, vfmovb, vmovhi, vcvt. -/
def Obligations.RepeatedLanes : Prop :=
  Sys2Proof.Claims.VectorRep ∧ Sys2Proof.Claims.VectorRepChecks ∧ Sys2Proof.Claims.VectorHolds

/-- Compares, moves and predicate instructions. R105, R108, R111, R97: a compare writes the test in active lanes and 0 in
the other lanes of the lane set; k0 discards it. R106: VSEL, VBCST and VLANE. R115, R97: predicate operations write
every bit of the lane set. Each of these forms completes: exec answers the next state given here, under hypotheses on
the state and the operands alone: vcmpeq, vcmplts, vcmpltz, vcmples, vsel, vbcst, vlane, vcmpeqi, vcmpltsi, vcmpltzi,
vcmpgtsi, vfcmpeq, vfcmplt, vfcmple, vfcmpun, kand, kor, kxor, kandn, knot, kfroms. -/
def Obligations.ComparesAndPredicates : Prop :=
  Sys2Proof.Claims.VectorCompares ∧ Sys2Proof.Claims.VectorMoves ∧ Sys2Proof.Claims.PredicateOps

/-- Scalar instructions: values and write-back. R115-R120, R327: scalar instructions write the value and tag of their
entries. R344: TIME writes the island's copy; it waits for nothing, sends nothing and commits nothing. That it writes
never less than the wave has read before is an inference, log 106. R93, R96: an ordinary write stores value and tag,
POISON becomes FULL, EMPTY stays EMPTY; register 0 stays 0. Each of these forms completes: exec answers the next state
given here, under hypotheses on the state and the operands alone: ktos, kpopc, sadd, ssub, smul, smulhs, smulhz, sand,
sor, sxor, sshl, sshrz, sshrs, smins, smaxs, sdivz, sremz, sclz, saddi, sandi, sori, sxori, sshli, sshrzi, sshrsi,
smuli, smovi, smoviz, smovh16, smovh32, smovh48, stagi, saddi16, adda, suba, gettag, settag, seq, sne, slts, sles,
sltz, slez, pinrd, time. -/
def Obligations.ScalarInstructions : Prop := Sys2Proof.Claims.ScalarValues ∧ Sys2Proof.Claims.ScalarWriteBack

/-- What register instructions leave unchanged. Frame of every instruction that computes into a scalar register: in a next
state only that register, the program counter and the issue order of its fragment differ, and no byte of memory; TIME
also remembers its reading. Frame of predicate operations and compares of registers: only predicate kd differs, and
only in the lane set. Frame of the vector instructions between registers: only vd differs, and there only the active
lanes and their poison bits. -/
def Obligations.RegisterFrames : Prop :=
  Sys2Proof.Claims.ScalarFrame ∧ Sys2Proof.Claims.PredicateFrame ∧ Sys2Proof.Claims.VectorFrame

/-- Shuffles, reductions, votes and random draws. R126, R127: shuffles. Those that cross a lane pair are long-latency
producers; the others write vd at once. R128, R129, R87: reductions and votes. R345, R346: draws; RNGOVF at the last
DRAW, and DRAW advances once. Each of these forms completes: exec answers the next state given here, under hypotheses
on the state and the operands alone: vrand, vrandf, vgumb, vshfl, vshflx, vshflup, vshfldn, vredadd, vredmaxs,
vredfadd, vredfmax, vballot, vany, vall, vfirst. -/
def Obligations.LanesCombined : Prop :=
  Sys2Proof.Claims.Shuffles ∧ Sys2Proof.Claims.PisteResults ∧ Sys2Proof.Claims.RandomDraws

/-- Prefixes, ELECT, and instructions without an effect. R48, R54: a prefix changes nothing but the unit: the next
instruction carries it. A second prefix raises ILL. R143: YIELD and NOP32 only go on; BKPT raises BKPT with its code
in TRAPA. R144: ELECT writes the lowest lane of EXM, or 32, and the unit goes on with that one lane. Each of these
forms completes: exec answers the next state given here, under hypotheses on the state and the operands alone: immx,
obs, hint, rep, role, predx, yield, nop32, bkpt, elect. -/
def Obligations.PrefixesAndNops : Prop :=
  Sys2Proof.Claims.Prefixes ∧ Sys2Proof.Claims.Nops ∧ Sys2Proof.Claims.ElectsLowest

/-- Branches, jumps and a BRV that does not carve. R136: a branch goes to PC + 2 disp when taken, else to the next
instruction. R138, R139: JMP, CALL, JR, CALLR and RET; a link is s63 := PC + 4 with tag 0, written after the target is
read; a tag other than 0x00 raises TAG, and bit 0 set raises ALIGN, at the jump, with nothing written. That TAG comes
first where both hold is the model's choice, log 91. R22, R23, R137: BRV moves the fragment whole when no lane, or
every lane, takes it; with eight live fragments a divergence raises FRAGOVF, which is checked before DEPTH at depth
16. Each of these forms completes: exec answers the next state given here, under hypotheses on the state and the
operands alone: bz, bnz, blz, bgez, bkany, bkall, bknone, brv, jmp, call, jr, callr, ret. -/
def Obligations.ControlTransfers : Prop :=
  Sys2Proof.Claims.Branches ∧ Sys2Proof.Claims.Jumps ∧ Sys2Proof.Claims.BrvWhole

/-- BRV carves, JOIN merges, EXIT ends. R21, R22, R25, R137: a diverging BRV detaches the smaller side as the lowest free
fragment; both sides are one deeper, in one new join group that the keeper leads, and no register or byte of memory
changes. R26, R141: at depth 0 JOIN is a no-op. Deeper, the fragment parks; the arrival that makes its group complete
merges it into the keeper, which goes on after its JOIN with the lanes and active lanes of all. R27, R142, R18: EXIT
takes the lanes of EXM out; with the whole lane set the fragment ends, and the wave with its last fragment. Each of
these forms completes: exec answers the next state given here, under hypotheses on the state and the operands alone:
brv, join, exit. -/
def Obligations.FragmentsCarve : Prop :=
  Sys2Proof.Claims.BrvCarves ∧ Sys2Proof.Claims.JoinMerges ∧ Sys2Proof.Claims.ExitEnds

/-- VPART, EXMASK, SETOBS and the extended block. R131, R135, R205: piste width, active mask and default observers. That
EXMASK behind an ELECT writes EXM all the same, and keeps it after the unit, is the model's choice, log 92. R30, R132,
R133: VXACQ outside depth 0, with two fragments, or in a role without .xblock raises XBLK. A wave that holds a block
goes on; a free block is granted when nobody asked before, and is cleared. VXREL hands it to the oldest VXACQ that
waits on the partition. R30, R132: a VXACQ that has waited more than 2^20 core cycles raises XWAIT at its address, and
the wave holds no block; not one that is the oldest of its partition while a block is free. Each of these forms
completes: exec answers the next state given here, under hypotheses on the state and the operands alone: vpart, vxacq,
vxrel, xwait, setobs, exmask. -/
def Obligations.WaveSettings : Prop :=
  Sys2Proof.Claims.WaveSettings ∧ Sys2Proof.Claims.ExtendedBlock ∧ Sys2Proof.Claims.BlockWaitEnds

/-- Taking a trap: handler and supervisor. R353, R351: a fault that its vector routes to HANDLER saves the trap registers
and enters the handler at HPC. R352, R353, R356, R396: a fault routed to SUPER saves the trap registers, suspends the
wave, and a supervisor report of kind 4 with the cause enters the PF's queue. -/
def Obligations.TrapsTaken : Prop := Sys2Proof.Claims.TrapToHandler ∧ Sys2Proof.Claims.TrapToSupervisor

/-- A kill ends every wave of the gang. R353, R357, R364: a fault routed to KILL, and any fault in a handler or in
recompute code, ends every wave of the gang and marks its launch killed. R357, R396, R367: killing a gang ends its
waves, discards its engine commands, marks its launch and reports cause, TRAPA and EPC; a gang that had overrun
shortens its device's next slice by its overrun. -/
def Obligations.KillsEnd : Prop := Sys2Proof.Claims.TrapKills ∧ Sys2Proof.Claims.GangKilled

/-- TRAP, RETT, SRD and SWR. R368: TRAP raises cause 0x11 with its code in TRAPA and EPC after it. R369: RETT leaves a
handler, and fragment F goes on at EPC; outside a handler and recompute code it raises PRIV. R98, R99, R370, R371, R6:
SRD and SWR for every system register; RO registers discard a write, OBSD discards a reserved value, STAT is cleared
by ones, and EPC outside a handler and recompute code raises PRIV. Each of these forms completes: exec answers the
next state given here, under hypotheses on the state and the operands alone: trap, rett, srd, swr. -/
def Obligations.TrapReturnAndRegisters : Prop := Sys2Proof.Claims.TrapAndReturn ∧ Sys2Proof.Claims.SystemRegisters

/-- Barrier words and sync words. R335, R336: BARWARR waits for the fragment's accesses, then takes its arrival step;
BARWWAIT goes on when GEN differs, and waits while it does not; ALIGN, LOCAL and SYNCOVR. R337, R338: sync words.
TOTAL is bits 27:0, TARGET 55:28, GEN 62:56, OVR 63. Each of these forms completes: exec answers the next state given
here, under hypotheses on the state and the operands alone: syncinit, syncwait, syncadd, barwarr, barwwait. -/
def Obligations.BarrierAndSyncWords : Prop := Sys2Proof.Claims.BarrierWords ∧ Sys2Proof.Claims.SyncWords

/-- Named barriers. R331, R333: NBARINIT binds the lowest free physical barrier, unbinds with count 0, sets EXPECT when
bound, and raises ILL, or SYNCOVR with b in TRAPA. R29, R332-R334: the arrival of a wave with one live fragment on a
bound barrier counts at once; the arrival that makes COUNT equal EXPECT completes the generation. A second arrival in
one generation raises SYNCOVR. NBARARR goes on; NBARSYNC parks. R331, R333: NBARWAIT on an unbound b, or by a wave
that has not arrived, goes on; it parks the fragment while GEN equals ARRGEN, and goes on when GEN has moved.
NBARSYNC, once parked, goes on as NBARWAIT does. Each of these forms completes: exec answers the next state given
here, under hypotheses on the state and the operands alone: nbarinit, nbararr, nbarwait, nbarsync. -/
def Obligations.NamedBarriers : Prop :=
  Sys2Proof.Claims.NbarInit ∧ Sys2Proof.Claims.NbarArrive ∧ Sys2Proof.Claims.NbarWait

/-- WAITC, WAITR, WAITA and FENCE. R340, R341: WAITC goes on when the class counter is at most n, WAITR when the register
is not EMPTY, WAITA when the arrival counter has passed the target; else they wait. R202, R203, R177: a fence
completes when what it orders is done: an acquire-and-release or release fence waits for the fragment's accesses, an
acquire for its loads and returning atomics, one of any order that names E for the wave's maintenance; it changes
nothing but the order of .sc fences. Each of these forms completes: exec answers the next state given here, under
hypotheses on the state and the operands alone: fence, waitc, waitr, waita. -/
def Obligations.WaitsAndFences : Prop := Sys2Proof.Claims.Waits ∧ Sys2Proof.Claims.Fences

/-- PIN, UNPIN, RECL and the groomer. R315, R324, R325: PIN and UNPIN write the workgroup's pin register and release the
name it stops holding. R326, R316, R320: RECL raises ILL on name 0 and PROT on names of the rink and Slalom units;
else sd becomes EMPTY and its status is on its way: FREED when nothing pins the name, DEFERRED when something does and
the bucket has room, FULL otherwise, when nothing changes but the register. R321: a sweep of a device that is not
lodged performs and removes the entries that nothing pins, and keeps the others: pages go back to the pool, nodes go,
a table's action is performed; nothing happens for a lodged one. Each of these forms completes: exec answers the next
state given here, under hypotheses on the state and the operands alone: pin, unpin, recl, groomerSweep. -/
def Obligations.PinsAndReclaim : Prop :=
  Sys2Proof.Claims.Pins ∧ Sys2Proof.Claims.Reclaims ∧ Sys2Proof.Claims.GroomerSweeps

/-- WFE, EVSIG and HALT. R372: a WFE whose flag is set, with no fragment waiting longer, clears the flag and returns 1; it
parks otherwise; parked, it takes the flag as the longest waiter, or returns 0 once its limit has passed; the limit
passes at its tick. R373, R396: EVSIG waits for the fragment's accesses and for room, and appends a kind-2 entry: the
code, s[a], and VDID and WID. R374: HALT stops the gang, which remembers the halting wave, goes on past the HALT, and
appends a kind-3 entry with the HALT's address. Each of these forms completes: exec answers the next state given here,
under hypotheses on the state and the operands alone: wfe, wfeTimeout, evsig, halt. -/
def Obligations.EventsAndHalts : Prop :=
  Sys2Proof.Claims.WaitForEvent ∧ Sys2Proof.Claims.EventSignals ∧ Sys2Proof.Claims.Halts

/-- RWP is honoured or ignored. R41-R43, R363, R375: an RWP with two live fragments, below depth 0 or in a handler is
ignored; one honoured with recipe 0 closes the open commit and snapshots the wave; a wave asked to stop stops there.
The form rwp completes: exec answers the next state given here, under hypotheses on the state and the operands alone. -/
def Obligations.RewindPoints : Prop := Sys2Proof.Claims.RewindPoints

/-- Vector and scalar loads. R153, R161, R165, R93, R157: a vector load whose operands are ready and whose active lanes
pass the checks marks its registers EMPTY and enters flight with one access for each active lane. R24, R161: a split
load with lanes that hit the L1 and lanes that miss, and room for a fragment, carves off the missing lanes, which wait
for their data. That both parts belong to the program order of both fragments is log 125. R167, R93: scalar loads, and
their faults. Each of these forms completes: exec answers the next state given here, under hypotheses on the state and
the operands alone: vldB32, vldB64, vldB128, vldB16z, vldB8z, vldB8s, vldB16s, vldlB32, vldlB128, sldB64, sldB32z,
sldB32s, sldB8z, slda, sldl. -/
def Obligations.LoadsIssue : Prop :=
  Sys2Proof.Claims.VectorLoads ∧ Sys2Proof.Claims.SplitLoads ∧ Sys2Proof.Claims.ScalarLoads

/-- Vector and scalar stores. R161, R162, R165, R164: a vector store. R167, R164: scalar stores, and their faults. Each of
these forms completes: exec answers the next state given here, under hypotheses on the state and the operands alone:
vstB32, vstB64, vstB128, vstB16, vstB8, vstlB32, vstlB128, sstB64, sstB32, sstB8, ssta, sstl. -/
def Obligations.StoresIssue : Prop := Sys2Proof.Claims.VectorStores ∧ Sys2Proof.Claims.ScalarStores

/-- What an access leaves unchanged at issue, and the faults of vector accesses. R164, R182: issuing a load changes no
byte, and no register but its destinations, which are EMPTY; STAT stays. Issuing a store changes no register at all,
and no byte but those of the core's L1 copies (R181) and, in the lane-private window, of the wave's own lines (R157).
A lane-private access may make room in the core's L1 (R13, R157): every byte outside the L1's read copies and the
write-back memory of lane-private lines reads as before. R153, R155: the first failing check over the active lanes is
the fault; TRAPA is its lowest lane's address and TRAPL its lanes. Nothing else happens. -/
def Obligations.VectorAccessFaults : Prop := Sys2Proof.Claims.AccessIssueFrame ∧ Sys2Proof.Claims.VectorAccessFaults

/-- Atomics issue and are performed. R196-R199: a vector atomic in memory that others share enters flight; with .ret its
registers are EMPTY. R200: SATOM. R197: the new value of every operation, at 4 and 8 bytes. R182, R197, R198: an
atomic of one lane at an HBM word reads the word at its home and leaves the new value there; a returning one keeps the
old value for its register. Each of these forms completes: exec answers the next state given here, under hypotheses on
the state and the operands alone: atom, atom64, atompk, satom, atomicPerform. -/
def Obligations.Atomics : Prop :=
  Sys2Proof.Claims.VectorAtomics ∧ Sys2Proof.Claims.ScalarAtomics ∧ Sys2Proof.Claims.AtomicValues ∧
  Sys2Proof.Claims.AtomicPerformed

/-- Memory reads back what was written. R182, R379, R381: a write of a byte of HBM at its home is what the next read there
returns, and every other byte of HBM reads at its home as before, where the LLC has the line or room for it. R147:
room is made by an eviction, which leaves every byte of HBM reading at its home as before. R182: a store of local
memory that is performed writes its bytes at its place, and changes no other byte; the operation leaves flight with
its last access. The form storePerform completes: exec answers the next state given here, under hypotheses on the
state and the operands alone. -/
def Obligations.MemoryReadsBack : Prop := Sys2Proof.Claims.HomeReadsBack ∧ Sys2Proof.Claims.LocalStorePerformed

/-- Results are delivered; leases; special functions. R93, R94, R124: a result comes to its register. A local load gives
its lanes the bytes it reads and leaves the other lanes; the register is FULL when no other producer is outstanding; a
scalar takes value, tag and state. R178, R184, R186: the lease events. R121, R227: VSFU waits while its partition's
queue holds 64 entries, else it enters the queue. R123, R124, R89: the oldest entry of a partition's queue is
delivered, and no other; special inputs give the results the spec names, whatever the free values are; a lane's result
is a function of the function, its mode and the operand. Each of these forms completes: exec answers the next state
given here, under hypotheses on the state and the operands alone: vsfu, resultDelivery, sfuResult, ownLeaseReturn,
leaseRequestRetry, leaseSweep. -/
def Obligations.ResultsDelivered : Prop :=
  Sys2Proof.Claims.Deliveries ∧ Sys2Proof.Claims.LeaseEvents ∧ Sys2Proof.Claims.SfuIssue ∧ Sys2Proof.Claims.SfuResults

/-- Cache maintenance, bank modes and memory-side operations. R169: CLEAN, INVAL and CLNINV write the count that remains
past the first MiB and, where their pages allow it, enter flight with the lines of the range; host and peer tags, and
a count of 0, touch nothing. R413: a range that overlaps a watchpoint raises WATCH. R170, R169: a maintenance
operation of one HBM line that no earlier access of the wave stands against is done: CLEAN leaves no dirty byte in the
LLC line, INVAL and CLNINV leave no LLC copy and none in the core's L1. R168, R171-R173: PREF changes no register,
operation or gang; L1DROP empties the core's L1 of copies; FENCEI waits for the wave's stores, drops the core's
instruction lines, and the wave fetches anew. R174: BANKMODE zeroes the bank, sets its mode and writes the mode
before; a bank the gang does not hold, or a FIFO bound to a port, raises LOCAL. R175, R176: a memory-side operation
whose operands are aligned and on memory-side pages writes the count that remains and enters flight with its lines; a
misaligned operand raises ALIGN; then TAG, XLATE and PROT are each looked for over every line of every operand before
the next; WATCH comes after them (R413). R175, R177: a memory-side operation of one line, with nothing of its lines in
the LLC or at the host, writes the line of c in HBM: the pattern, the copy, or the elements combined, each rounded
once. R195: not before the fragment's earlier acquires, or its releases that name E, are performed. Each of these
forms completes: exec answers the next state given here, under hypotheses on the state and the operands alone: clean,
inval, clninv, pref, bankmode, l1drop, msvaddBf16, msvaddF32, msvmulBf16, msvfill, msvcopy, fencei, maintenanceDone,
msvComplete. -/
def Obligations.MaintenanceAndMemorySide : Prop :=
  Sys2Proof.Claims.MaintenanceIssue ∧ Sys2Proof.Claims.MaintenanceDone ∧ Sys2Proof.Claims.CacheInstructions ∧
  Sys2Proof.Claims.BankModes ∧ Sys2Proof.Claims.MemorySideIssue ∧ Sys2Proof.Claims.MemorySideDone

/-- QCFG, QTRY, QPEEK and QCLOSE. R233, R268, R232: QCFG binds a port to a FIFO bank of the gang, with a role or not, or
unbinds it; another address raises LOCAL, and a role that the launch does not define ROLE. A bank that is bound to a
role all of whose waves have ended closes at once, if a wave of the role had bound it. R230, R231, R234-R236, R148:
QTRY pops when there is an entry and says so, QPEEK looks and counts, QCLOSE closes once no result of the wave is on
its way to the bank; all three raise QCLOSED on an unbound port. An entry's lanes come with their poison marks. Each
of these forms completes: exec answers the next state given here, under hypotheses on the state and the operands
alone: qcfg, qtry, qpeek, qclose. -/
def Obligations.QueuePorts : Prop := Sys2Proof.Claims.QueueConfig ∧ Sys2Proof.Claims.QueueAccess

/-- Copy commands and the copy engine. R237-R239, R413: the linear copies. A count above 2^24 raises ILL; the first
misaligned of destination, source, count and sync word ALIGN; a command whose ranges and sync word pass raises WATCH
for the first word that meets a watchpoint, enters its queue, or waits while the queue is full; a count of 0 only
commits. R238, R239, R246, R293, R413: CPYGATH, COLLARED, COLLBC and CPYRK enter their queues when their operands
pass, or wait while the queue is full. A count or a size that the rules exclude raises ILL, for CPYRK an sb above 60
too, once its operands are there; a misaligned operand ALIGN; a collective whose buffer or status word meets a
watchpoint WATCH. R243: CQFENCE with nothing before it in its queues is over at once; with an earlier command in one
of them its marker stands, and no later command of a covered queue starts, until the last earlier command has landed.
R240-R242, R337: a command at its queue's head reads its source; a 32-byte sector whose words lie in local memory is
written, and the last of a part adds the part's bytes to the sync word and ends the command with its last part. Each
of these forms completes: exec answers the next state given here, under hypotheses on the state and the operands
alone: cpyg2l, cpyl2g, cpyg2g, cpygath, cpyl2l, cpyrk, collared, collbc, copyCommandStart, copyPartLand, cqfence. -/
def Obligations.CopyCommands : Prop :=
  Sys2Proof.Claims.LinearCopies ∧ Sys2Proof.Claims.OtherCopies ∧ Sys2Proof.Claims.QueueFences ∧
  Sys2Proof.Claims.CopyEvents

/-- Collectives and deposits. R245, R247, R248: a collective leaves its queue when it starts, after those of its group
that were issued before it; the members' buffers combine around the ring, element by element, in the order of the ring
from the member after the chunk's own, and the buffer takes the result; a broadcast takes the root's; the status word
says whether the members agree on the operation, the group, the size and the parameter. The group is that of its table
entry as the command was issued, whatever is written there since. R249-R252: RDEP names a wave of the gang and one of
its registers, which becomes EMPTY, and its deposit flies; a target that is not there raises ILL; a deposit that
arrives writes its lanes, wakes the register and counts on the arrival counter; one that finds no wave sets the
sender's STAT.QERR and still counts. Each of these forms completes: exec answers the next state given here, under
hypotheses on the state and the operands alone: copyCommandStart, collectiveComplete, rdep, depositDelivery. -/
def Obligations.CollectivesAndDeposits : Prop := Sys2Proof.Claims.Collectives ∧ Sys2Proof.Claims.Deposits

/-- Rink checks, loads, stores, allocation and acquisition. R278, R279: a rink operand that does not pass raises ILL, or
RKSTATE with the operand in TRAPA, and nothing else happens. R279, R281: RKLD issues a load of one word a lane, 0 for
a void position or a missing page; a lane at or above NEXT or VB ÷ 4 raises RKSTATE with its position. An operand that
does not pass raises its cause where some lane is active. R275, R279, R280: RKST refuses lanes at or above NEXT or VB
÷ 4 and published lanes that are not void; it raises KVDRY when the pool lacks a page that a lane needs and
speculation does not excuse; else the missing pages are taken, the lanes that have a page are stored, pad bytes as 0
(R274), and STAT.DRY tells of those that have none. That nothing in flight from the host holds the pages up (R382) is
a premise. R277, R282: RKALLOC gives the next n positions, or all ones past MAXPOS; a count above 65,536 raises ILL.
R284: RKACQ's answer waits for the frontier; a position above 2^24 raises ILL. Each of these forms completes: exec
answers the next state given here, under hypotheses on the state and the operands alone: rkldK, rkldV, rkstK, rkstV,
rkalloc, rkacq. -/
def Obligations.RinkAccesses : Prop :=
  Sys2Proof.Claims.RinkChecks ∧ Sys2Proof.Claims.RinkLoads ∧ Sys2Proof.Claims.RinkStores ∧
  Sys2Proof.Claims.RinkAllocates

/-- Rink publishing, snapshots, voiding and pages. R283, R284: RKPUB sets the bits of [a, b), returns the frontier, and
answers the acquires that its frontier reaches and that come after no acquire of their fragment still waiting; it
waits for the fragment's accesses, and raises RKSTATE for a range that is not one or passes NEXT. R285, R292: RKSNAP's
map is the 64 bits from its base, where nothing before it waits; RKINFO's selectors, PAGES among them counting every
page the rink holds; a selector above 6 and a base of 2^24 or more raise ILL, a base that is no multiple of 64 ALIGN.
R286, R287, R276: RKVOID sets VOID on [a, b), publishes it at every layer, and unlinks the pages whose whole range is
void: to the pool when nothing pins the rink's name, to the deferred list while its bucket has room, kept when not.
R275, R291: RKPAGE takes every missing page of its range, each all zeros, when the pool holds so many, and none when
not; it returns 0 or the count. It waits while a host request for one of the pages it would zero is in flight (R382).
Each of these forms completes: exec answers the next state given here, under hypotheses on the state and the operands
alone: rkpub, rkacq, rksnap, rkvoid, rkpage, rkinfo. -/
def Obligations.RinkUpdates : Prop :=
  Sys2Proof.Claims.RinkPublishes ∧ Sys2Proof.Claims.RinkReads ∧ Sys2Proof.Claims.RinkVoids ∧
  Sys2Proof.Claims.RinkPages

/-- Slalom descent, backup and expansion. R298, R312: an operand value that breaks its format raises ILL; a tree that does
not exist, and an index at or above CAP or of a free node, raise SLPATH with tree and index in TRAPA; a poisoned node
stops the gang. R295, R300, R301, R302: SLDESC descends from the root, by the greatest bound at each level, charging
every node it takes; its result and PATH name leaf and depth; a tree without a root gives all ones and nothing
changes. It goes on from node to node while its result is awaited: so it comes out where nothing else touches the
tree, and each of its steps is one node's. R295, R303, R304: SLBACK adds the value and a visit and takes back a
virtual loss, from the leaf to the root, one node at a time while its result is awaited. Nothing is ordered across
nodes: where another walk of the tree is under way, it may go on past a node and update it later, before its result.
R305, R306, R297: SLEXP gives a leaf the lowest run of free nodes, made from its records; 3 for a pruned leaf, 1 for
one that has children; without a run a DRY grant ends it with 2, else SLNODE. PATH takes tree and leaf and keeps its
DEPTH. Each of these forms completes: exec answers the next state given here, under hypotheses on the state and the
operands alone: sldesc, slexp, slback, slread, slnew, resultDelivery. -/
def Obligations.SlalomSearch : Prop :=
  Sys2Proof.Claims.SlalomChecks ∧ Sys2Proof.Claims.SlalomDescends ∧ Sys2Proof.Claims.SlalomBacks ∧
  Sys2Proof.Claims.SlalomExpands

/-- Slalom reads, re-rooting, pruning and settings. R295, R307, R310: SLPICK reads the children one by one and gives the
child with the most visits, then the greatest value, then the lowest index; SLREAD gives the node's words. R308, R296,
R312: a poisoned node that SLROOT or SLPRUNE reads stops the gang. SLROOT moves the root to a child and SLPRUNE cuts a
node off; the nodes cut off are freed when nothing pins the tree's name (1), wait UNLINKED for the groomer while its
bucket has room (2), and else nothing changes (3); 4 for a node that cannot be cut, 0 for one without children. R309,
R311: SLNEW makes a root at the lowest free node of a tree without one; SLCFG reads and writes C, VLOSS, FPU, FREE,
ROOT and the wave's DRY grant; any other selector raises ILL. Each of these forms completes: exec answers the next
state given here, under hypotheses on the state and the operands alone: slpick, slroot, slprune, slread, slnew, slcfg,
resultDelivery. -/
def Obligations.SlalomTables : Prop :=
  Sys2Proof.Claims.SlalomReads ∧ Sys2Proof.Claims.SlalomCuts ∧ Sys2Proof.Claims.SlalomSets

/-- Matrix and tile operations. R208, R210-R212, R214, R216-R218, R222, R413: MMA and the tile instructions: a tile not
held raises ILL, then the scalars, then PAIR and the checks of the descriptors or of the global range; then the
operation enters its arrays' queues, or waits while one holds eight. R217, R219, R195: an operation starts when it
heads the queue of each of its arrays, after the fragment's earlier acquires and the releases that name M, and not
before: an earlier one of an array keeps it back until that has started, a paired one until it has retired where the
array is its follower's. Of two on one tile the later does not retire first. R84, R87, R214, R215, R218: an MMA that
retires has the product of R215 in its tile, the second half of B's rows in the follower's; a poisoned operand stops
the gang instead. R222, R379: what MZERO, MLDT, MREST and MSCALE leave in their tile; MREST's words are those at their
homes once its reads have had the host's modified halves snooped. R222, R223: MSTT writes each row of its tile in its
format, MSAVE the tile's words; the tile stays. R220: OPRDY waits for the fragment's earlier stores and atomics, and
changes nothing. Each of these forms completes: exec answers the next state given here, under hypotheses on the state
and the operands alone: oprdy, mma, mzero, mldt, mstt, msave, mrest, mscale, matrixOpStart, matrixOpRetire. -/
def Obligations.MatrixOperations : Prop :=
  Sys2Proof.Claims.MatrixIssue ∧ Sys2Proof.Claims.MatrixStarts ∧ Sys2Proof.Claims.MatrixProducts ∧
  Sys2Proof.Claims.TileResults ∧ Sys2Proof.Claims.TileStores ∧ Sys2Proof.Claims.OperandReady

/-- Tasks and LNCH. R261-R263, R268: TASKNEW's checks, a role that the launch does not define among them, and the record
it makes in the lowest free place of its die, with the slot that the launch's other records there have. R264: TASKDEP
links a successor, or counts a predecessor that is done, or says why not. That a successor's die behind a closed
bridge is BAD, and counted there, is the model's choice, log 117. R260, R265: TASKGET receives the fitting task of
highest priority, the earliest READY among equals; zeros when the launch is drained; else its fragment parks. R364: in
recompute code it raises PRIV. R266: TASKDONE frees a task its wave holds and lowers its successors' counts; 1 for any
other handle. R268, R413: LNCH's checks; it appends an entry to the stream's device queue with the stream's next
number, or says that the queue is full. Each of these forms completes: exec answers the next state given here, under
hypotheses on the state and the operands alone: tasknew, taskdep, taskget, taskdone, lnch. -/
def Obligations.TaskInstructions : Prop :=
  Sys2Proof.Claims.TaskCreation ∧ Sys2Proof.Claims.TaskDependences ∧ Sys2Proof.Claims.TaskHandOut ∧
  Sys2Proof.Claims.TaskCompletion ∧ Sys2Proof.Claims.LaunchAppends

/-- Launches are taken, gangs are placed, sequences are stolen. R253-R258, R268: the stream engine takes a stream's oldest
entry, from the device queue or the ring, once the launch before it is placed, and complete where SERIAL asks for it.
What the host holds modified of the block is snooped first (R379), once no request of the host is in flight for it
(R382). That an entry of the ring is taken at RDIDX, the head of the stream, is the model's choice, log 84. R32, R33,
R208, R259: the placer takes the first fit: dies, clusters and first cores in ascending order. R33, R35, R91, R156,
R208, R262: a gang is placed whole: its banks and tiles are 0, its waves start with the launch's scalars and every
other register 0 and FULL, and the seeds become READY with its launch's first gang. R259: a gang that has waited 1 ms
stops the gangs of equal or lower priority of its hard partition, its own device's and others', from being placed, and
pre-empted ones from being placed again; of those of equal priority that have waited so long themselves, log 97 says
which. R271, R272: BTBASE; a steal takes the oldest IDLE slot with NEXT set of another die once its own die has been
without a task for 10 µs; its claim compares word 0 as the engine read it and takes the slot from IDLE to MOVING, once
the leases on the records have passed, with a page for each of the sequence's, and takes nothing where the word has
changed or the pool is short; at its end the sequence's pages are those it copied and a task of STEPTYPE is ready, or,
if word 0 of the old slot is no longer the one that the engine wrote, the copies go back to the pool. That a claim
takes nothing where the pool is short is the model's choice, log 54. Each of these forms completes: exec answers the
next state given here, under hypotheses on the state and the operands alone: launchTake, gangPlace,
placementStarvation, gangResume, btbaseSet, steal, stealFinish. -/
def Obligations.LaunchesPlaced : Prop :=
  Sys2Proof.Claims.LaunchTaken ∧ Sys2Proof.Claims.FirstFit ∧ Sys2Proof.Claims.GangPlaced ∧ Sys2Proof.Claims.Starvation
  ∧ Sys2Proof.Claims.Steals

/-- Slice ends, context images, resumption and replay. R402, R365, R132, R228: a slice that has lasted its time, less its
shortening, ends when another device of the partition wants one: every placed gang of the device is asked to stop, and
its waiting VXACQs and TASKGETs are withdrawn; else nothing happens. R365, R366, R317: with its waves at rest and its
work done, the gang's context image is written and its placement released: registers, FIFO entries and barriers are
kept, tiles are saved and pins move to the overflow store. Where the store has no room the gang stays, and the
supervisor is told. An RKACQ that a wave stopped at its RWP waits for is withdrawn first: the model's choice, log 80.
R45, R366, R359: a pre-empted gang is placed again where it fits; each rewound wave goes on from its snapshot, a
suspended one stays as it was, pins and FIFO entries come back, and the placement is the gang's checkpoint. A starved
gang of its partition that stops it is shut out (R259). R93, R156, R213, R359-R361, R367: REPLAY takes every wave of a
gang stopped by an ENGINE fault back to the checkpoint, its registers FULL and its deposits since written back; a
placement or resumption is repeated with SCRATCH banks that read 0 and the HALT that stood then, once no matrix
operation reads them (R213). It kills the gang where a wave has committed since, and, after a report, as the eighth
replay. Each of these forms completes: exec answers the next state given here, under hypotheses on the state and the
operands alone: rkacq, sliceEnd, contextImageWrite, gangResume, replay. -/
def Obligations.SavedState : Prop :=
  Sys2Proof.Claims.SliceEnds ∧ Sys2Proof.Claims.ContextImages ∧ Sys2Proof.Claims.GangResumes ∧
  Sys2Proof.Claims.Replays

/-- Watchdogs, and the answers to suspensions, faults and halts. R367, R356, R361, R425: the watchdogs. That the overrun
report carries cause 0 is the model's choice. R356-R358, R374: the answers to a suspension, an ENGINE fault and a
HALT. RESUME takes what the supervisor wrote into the wave's state, its rewind buffer, its extended block and its port
bindings among it. Each of these forms completes: exec answers the next state given here, under hypotheses on the
state and the operands alone: overrunWatchdog, overrunKill, suspensionWatchdog, replayWatchdog, supervisorResume,
supervisorKill, continueHalt. -/
def Obligations.WatchdogsAndAnswers : Prop := Sys2Proof.Claims.Watchdogs ∧ Sys2Proof.Claims.SupervisorAnswers

/-- Host reads and writes of a command region. R253, R254, R395, R398, R405: a host write of WRIDX, EQ.RD, FLAGS or
LODGE.NOW, each of which wakes the device; entries that were held for want of room enter the queue. Without a working
module a write does not arrive (the model's choice, log 79); that a write of EQ.RD which goes back is discarded is the
model's choice too, log 16. R253, R394, R395, R397: a host write of a word of a region, or of some of its bytes, for
each word of it; writes to the supervisor's region wake nothing. R395, R397, R398: what a read of a region returns;
the read of a lodged device's region waits and lifts it. Each of these forms completes: exec answers the next state
given here, under hypotheses on the state and the operands alone: wridxWrite, eqRdWrite, flagsSet, lodgeNow,
registerWrite, commandRegionRead. -/
def Obligations.HostRegion : Prop :=
  Sys2Proof.Claims.HostWrites ∧ Sys2Proof.Claims.RegisterWrites ∧ Sys2Proof.Claims.RegionReads

/-- Lodging, lifting and the reset of a virtual device. R395, R404, R405: an idle device with a wake class lodges on NOW
or after IDLE µs of idleness with AUTO. Alone in its partition, in W2 and W3 it gives up what SRAM held: TLB entries,
instruction sectors, read copies and LLC lines, whose bytes are written back; in W1 it keeps them all. R343, R321,
R398, R404: a lift ends, for a device that shares its partition once it holds the slice: deferred actions whose names
nothing pins are performed, waiting reads return, and no island's TIME goes back. R406 steps 1 to 5: a soft reset, a
clear reset, a function-level reset and the supervisor's request each stop the device; RST.STATE reads 1. R258, R406
steps 6 and 7: once nothing of the device is on its way, its ended launches are reported and a RESET entry follows;
reads of its region that waited return (R398). A clear reset first empties the queue, destroys rinks and trees, drops
its LLC lines, marks every page, which then reads 0, a moving one at both of its places, and takes a fresh key. Each
of these forms completes: exec answers the next state given here, under hypotheses on the state and the operands
alone: softReset, clearReset, functionLevelReset, supervisorResetRequest, resetComplete, registerWrite, liftComplete,
lodge. -/
def Obligations.LodgeAndReset : Prop :=
  Sys2Proof.Claims.Lodging ∧ Sys2Proof.Claims.Lifts ∧ Sys2Proof.Claims.ResetBegins ∧ Sys2Proof.Claims.ResetCompletes

/-- What the supervisor and Umarek configure. R158, R260, R318, R351, R389, R390, R392, R405, R410, R150, R152, R154,
R388, R407, R408: the table entries that the supervisor and Umarek write; reserved bits stay 0; a rate cap is only
lowered; a re-run wakes its device. A device that does not exist has no tables, and recovery takes no range entry and
no window. That windows count in whole lines is the model's choice, log 120. R273-R276, R284, R294, R326, R406: Umarek
makes and destroys rinks and trees. A descriptor that breaks a limit is refused. A destroyed rink's pages go back at
once, or through the deferred-reclaim list where a pin names the rink. That nothing changes where its bucket is full
is the model's choice, log 57, and so is the region that a descriptor names, log 105. R65, R253, R254: Umarek checks
the bindings and queues a launch in the stream's ring, or answers BADBIND and writes nothing; a full ring makes it
wait. That a block which cannot be read is queued with status 0 is the model's choice, log 103. R399, R400, R409: the
supervisor sets the partitions once after a start: every die in one rectangle; the bridges between C-dies are open
inside a partition alone, and locked, with what they have counted. R399, R402, R404, R409, R150: the supervisor
creates a device in a partition, whose stacks hold all that it gives it; its region is as at reset, its slice 2 ms
where none is given. Each of these forms completes: exec answers the next state given here, under hypotheses on the
state and the operands alone: umarekLaunch, createRink, destroyRink, createTree, trapVectorWrite, rangeEntryWrite,
reclaimActionWrite, taskTypeLoad, groupConfigure, peerSlotWrite, inboundGrantWrite, setPartitions, createVd,
recordingSet, rerun, destroyTree, rootChange, hostAccessWindowGrant, fabricRateCap. -/
def Obligations.Configuration : Prop :=
  Sys2Proof.Claims.TableWrites ∧ Sys2Proof.Claims.RinksAndTrees ∧ Sys2Proof.Claims.UmarekLaunches ∧
  Sys2Proof.Claims.PartitionsSet ∧ Sys2Proof.Claims.DevicesCreated

/-- Invalidations, promotions and memory moves. R154, R403: an invalidation removes the old entry from every TLB of the
partition, once no access that may have used it is outstanding, and frees the forwarding entries of pages whose leaf
names the new address. R160: a promotion writes the image at its new place as it stands in tier 1 and rewrites the
leaf with TIER 0; a page in HBM is not promoted. R403, R382: a slice moves to a free slice of another partition; a
drained chunk becomes BUSY, which changes no byte, once no request of the host is in flight for what it holds there; a
copied chunk reads at the old address what it read before. Each of these forms completes: exec answers the next state
given here, under hypotheses on the state and the operands alone: tlbInvalidate, pagerPromote, memorySliceMove,
chunkBusy, chunkCopied. -/
def Obligations.TranslationAndMoves : Prop :=
  Sys2Proof.Claims.Invalidations ∧ Sys2Proof.Claims.Promotions ∧ Sys2Proof.Claims.MemoryMoves

/-- Clocks, errors, scrubbing and the starts. R14, R15, R407, R408: a clock island of clusters runs at 500 MHz to 2.25
GHz, and an uncore or stack island's clock moves no cluster's; the power ceiling lowers frequencies, is not raised,
and drops no work (that it caps every cluster island alike is the model's choice, log 102). R148: an uncorrectable
error marks bytes and changes none; in a FIFO bank it poisons a lane of an entry (where an entry stands is the model's
choice, log 123). R406: the scrubber zero-fills a marked page, which reads as it did. R6, R14, R270, R343, R406-R409:
the starts and the end of recovery. A cold start writes the record's binding tables, a warm one keeps them; the
record's power ceilings bound the clocks (how, is the model's choice, log 102); each of the 64 clock islands has its
TIME within 4 ticks of the root's. That HBM reads 0 after POWER_GOOD is the model's choice, log 3, and that host
memory and tier 1 keep their bytes across it log 72. Each of these forms completes: exec answers the next state given
here, under hypotheses on the state and the operands alone: scrub, powerCeiling, islandFrequencyChange, powerGood,
warmStart, recoveryImage, uncorrectableError. -/
def Obligations.ClocksAndStarts : Prop := Sys2Proof.Claims.ClocksAndErrors ∧ Sys2Proof.Claims.Starts

/-- Host requests, snoops and modules. R379, R380: the host's shared read, ownership request and write-back of a half; a
read returns the half's bytes. A request for ownership and a write wait until the leases on the line have passed; a
write's bytes are at the home, and no other half changes. R403: while its chunk moves a request waits, and after it
the new half is served. R400, R401: a request whose device is not bound to the owner of the half is dropped, and
counted at the bridge it arrived by. R377: an I-die with no module working takes none (that such an event changes
nothing is the model's choice, log 79). Which bridge counts is the model's reading of R401, log 66; that an ownership
request carries the bytes which the host then holds, log 67. R382: where a back-invalidation meets the host's request
for the half, the request is served first; then the half is invalidated, or its data is taken, and its bytes read as
the request left them. R381: a host snoop of a tag 0xF0 half is answered with the bridge's data once the leases on its
line have passed: an M half goes back to the host, and an invalidating snoop takes the half away. R376, R377: each of
the four modules fails and trains again by itself. Each of these forms completes: exec answers the next state given
here, under hypotheses on the state and the operands alone: hostSharedRead, hostOwnershipRequest, hostWriteback,
bisnpRetry, hostSnoop, ucieModuleFail, ucieModuleTrain. -/
def Obligations.HostCoherence : Prop :=
  Sys2Proof.Claims.HostRequests ∧ Sys2Proof.Claims.RetriedSnoops ∧ Sys2Proof.Claims.HostSnoops ∧
  Sys2Proof.Claims.Modules

/-- Flits, inbound accesses, ports and peer links. R386, R387: a flit that fails its CRC, is out of its channel's sequence
or finds no buffer is discarded with a NAK; any other DATA flit is performed once and acknowledged. A sound flit
acknowledges what its header names, and with NAK set it asks for a replay; a RATE flit sets the rates of all channels
(R388). That a flit which fails its CRC names the channel of its NAK is the model's choice (log 101). R390, R391,
R405, R406: an inbound access is performed for a source with a grant, at the home that the tag 0x00 table of RVD
gives, with its order and mask, behind the accesses of the same source; without a grant, while the device is lodged or
in a reset, or where the translation of a byte fails, nothing is performed. R392: an ABANDON flit ends the open
collective of its group. The layout of responses is the model's choice (log 99). R387, R388: ACK empties the replay
buffer up to its number; NAK has the rest replayed; RATE sets a channel's rate, and 0 stops it; a port announces its
own rates; no port takes more than 1,024 flits; after 16 replays of one flit in a row it retrains. R385, R387, R393: 1
to 8 ports join a peer link, not in recovery (R408); a link whose ports have all failed to retrain goes down: what is
outstanding on its slots is lost, dropped, stopped or ends ABANDONED, and new accesses there fail; it trains again,
and what it had sent is replayed. Each of these forms completes: exec answers the next state given here, under
hypotheses on the state and the operands alone: peerLinkJoin, flitReceive, ack, nak, rate, rateTimer, portRetrain,
linkDown, peerLinkTrain. -/
def Obligations.PeerFabric : Prop :=
  Sys2Proof.Claims.FlitsReceived ∧ Sys2Proof.Claims.InboundAccesses ∧ Sys2Proof.Claims.PortControl ∧
  Sys2Proof.Claims.PeerLinks

/-- dmt. R352, R413, R418, R428: dmt loads code, task types and data, to pages that allow it, launches through Umarek, and
sets breakpoints, watchpoints, vectors, requests and faults that a wave's unit can raise. That the monitor is attached
by LOAD, LAUNCH, BREAK, WATCH, RUN and INJECT_PREEMPT, and that RUN resumes what BKPT and WATCH have suspended, is the
model's choice, log 75. R412, R413, R421, R425: what dmt prints of registers, waves and memory; a print changes
nothing else. The b32 words of code are noted for their disassembly, which follows. A trace is of the lines that n
bytes of a device touch. How a row is written as numbers is the model's choice, log 75. R412, R425, R428: what dmt
prints of the tables: a tree's descriptor and nodes, pins, overflow store and deferred list, a rink's descriptor,
frontiers and bitmaps, and the words of head 0 at positions of a layer, none where one has no page. Each of these
forms completes: exec answers the next state given here, under hypotheses on the state and the operands alone:
dmtLoad, dmtLaunch, dmtBreak, dmtRun, dmtStep, dmtRegs, dmtKpred, dmtWaves, dmtMem, dmtMemDir, dmtTrace, dmtWatch,
dmtInjectPreempt, dmtInjectFault, dmtVector, dmtSlalom, dmtPins, dmtRink. -/
def Obligations.Debugger : Prop := Sys2Proof.Claims.DmtActs ∧ Sys2Proof.Claims.DmtPrints ∧ Sys2Proof.Claims.DmtTables

/-- R327: PINRD gives the pin register of the workgroup as it stands, with tag 0, whatever is in flight; where a handler
may not name s[sd] it raises ILL. s0 keeps reading 0. -/
def Obligations.PinReads : Prop :=
  (∀ (s : State) (n : BitVec 6) (d : BitVec 6), Sys2Proof.Claims.sOk s d.toNat = true →
    ∃ t, exec (.pinrd n d) s = .next t ∧ t = (s.writeS d.toNat (s.cwg.pins.getD n.toNat 0) 0).done ∧ t.flight = s.flight ∧
      t.mem = s.mem ∧ t.cw.commit = s.cw.commit) ∧
  (∀ (s : State) (n : BitVec 6) (d : BitVec 6), Sys2Proof.Claims.sOk s d.toNat = false →
    exec (.pinrd n d) s = .next (s.takeTrap ⟨0x01, 0, 0, false⟩))

/-- R347: VRADV adds s[sa] to POSITION, which saturates at 2^40 − 1 with STAT.RNGSAT, and clears DRAW; it waits while s[sa]
is EMPTY and raises POISON when it is POISON; its unused fields are 0. -/
def Obligations.PositionAdvances : Prop :=
  (∀ (s : State) (sa : BitVec 6), Sys2Proof.Claims.sReady s [sa.toNat] = true →
    let p := (s.cw.rngc.extractLsb' 24 40).toNat + (s.sreg sa.toNat).val.toNat
    exec (.vradv sa) s = .next (s.modCw fun w => { w with
      rngc := (s.cw.rngc.extractLsb' 64 32 ++ BitVec.ofNat 40 (if 2 ^ 40 - 1 < p then 2 ^ 40 - 1 else p) ++ 0#24 : BitVec 96)
      stat := if 2 ^ 40 - 1 < p then w.stat ||| 2 else w.stat }).done) ∧
  (∀ (s : State) (sa : BitVec 6), Sys2Proof.Claims.sOk s sa.toNat = true →
    ((s.sreg sa.toNat).st = .empty → exec (.vradv sa) s = .next (Sys2Proof.Claims.stalls s)) ∧
    ((s.sreg sa.toNat).st = .poison → exec (.vradv sa) s = .next (s.takeTrap ⟨0x06, 64 + sa.setWidth 72, 0, false⟩))) ∧
  (∀ (b : Byte) (bs : List Byte) (sa : BitVec 6), 3 ≤ bs.length → decode (b :: bs) = some (.vradv sa) →
    natOf ((b :: bs).take 4) = 0x14 * 2 + 1 + 3 * 2 ^ 7 + sa.toNat * 2 ^ 15)

/-- R348: SETRNG returns the old STREAM, zero-extended with tag 0, and sets STREAM from the low word of s[sa]; POSITION,
DRAW and KEY keep their values; it waits while s[sa] is EMPTY; `SETRNG s5, s6` encodes as 0x0030_A36F, with imm7 = 0. -/
def Obligations.StreamSet : Prop :=
  (∀ (s : State) (a d : BitVec 6), Sys2Proof.Claims.sOk s d.toNat = true → Sys2Proof.Claims.sReady s [a.toNat] = true →
    s.cur.wave < s.waves.length →
    ∃ t, exec (.setrng a d) s = .next t ∧
      t = ((s.writeS d.toNat ((s.cw.rngc.extractLsb' 64 32).setWidth 64) 0).modCw fun w => { w with
        rngc := ((s.sreg a.toNat).val.extractLsb' 0 32 ++ w.rngc.extractLsb' 0 64 : BitVec 96) }).done ∧
      t.cw.rngk = s.cw.rngk ∧ t.cw.rngc.extractLsb' 0 64 = s.cw.rngc.extractLsb' 0 64 ∧
      t.cw.rngc.extractLsb' 64 32 = (s.sreg a.toNat).val.extractLsb' 0 32) ∧
  (∀ (s : State) (a d : BitVec 6), Sys2Proof.Claims.sOk s d.toNat = true → Sys2Proof.Claims.sOk s a.toNat = true →
    (s.sreg a.toNat).st = .empty → exec (.setrng a d) s = .next (Sys2Proof.Claims.stalls s)) ∧
  decode (bytesOf 4 0x0030A36F) = some (.setrng 6 5) ∧
  ∀ (b : Byte) (bs : List Byte) (a d : BitVec 6), 3 ≤ bs.length → decode (b :: bs) = some (.setrng a d) →
    natOf ((b :: bs).take 4) = 0x36F + a.toNat * 2 ^ 19 + d.toNat * 2 ^ 13

/-- R320: a name falls in the bucket that the exclusive or of its bytes gives, one of 256; a reclaim request on a pinned name
is queued there with its action, several entries to a name, until the bucket holds 16; then it is refused with FULL and
nothing is queued. -/
def Obligations.DeferredList : Prop :=
  (∀ n : DWord, bucketOf n < 256 ∧ bucketOf n = (n.extractLsb' 0 8 ^^^ n.extractLsb' 8 8 ^^^ n.extractLsb' 16 8 ^^^
    n.extractLsb' 24 8 ^^^ n.extractLsb' 32 8 ^^^ n.extractLsb' 40 8 ^^^ n.extractLsb' 48 8 ^^^ n.extractLsb' 56 8).toNat) ∧
  ∀ (s : State) (d : Nat) (n : DWord) (a : Reclaim), s.pinned d n = true → d < s.vds.length →
    let b := ((s.vd d).deferred.filter fun e => bucketOf e.name == bucketOf n).length
    (b < 16 → (s.request d n a).1 = .deferred ∧ ((s.request d n a).2.vd d).deferred = (s.vd d).deferred ++ [⟨n, a⟩]) ∧
    (16 ≤ b → s.request d n a = (.full, s))

/-- R51: the halfword 0x0000 holds no instruction; the unit that fetches it takes ILL. -/
def Obligations.ZeroHalfword : Prop :=
  (∀ bs : List Byte, decode (0 :: 0 :: bs) = none) ∧
  ∀ (s u : State) (w f : Nat), Sys2Proof.Claims.unitNext s w f →
    let a := (Sys2Proof.Claims.turned s).aim w f
    a.fetch w a.cg.vd a.cur.pc = .ok ([0, 0], u) →
    let v : State := { u with cur := { u.cur with nxt := u.cur.pc + 2, opened := false, code := [0, 0] } }
    step s = .next (Sys2Proof.Claims.kept ((Sys2Proof.Claims.turned s).after (v.takeTrap ⟨0x01, 0, 0, false⟩) w f))
end

