-- ==== Sys2Proof/Laws/State.lean ====
section
/-! SUPPORT. What each update of the state leaves as it was: one lemma for every field of State and every shared update,
so that no proof unfolds a record update. -/
namespace Sys2Proof.Machine

/-! ## Changing one wave, gang, device, launch -/

@[simp] theorem State.modWave_time (s : State) (w : Nat) (f : Wave → Wave) : (s.modWave w f).time = s.time := rfl
@[simp] theorem State.modWave_pace (s : State) (w : Nat) (f : Wave → Wave) : (s.modWave w f).pace = s.pace := rfl
@[simp] theorem State.modWave_inputs (s : State) (w : Nat) (f : Wave → Wave) : (s.modWave w f).inputs = s.inputs := rfl
@[simp] theorem State.modWave_turns (s : State) (w : Nat) (f : Wave → Wave) : (s.modWave w f).turns = s.turns := rfl
@[simp] theorem State.modWave_evTurn (s : State) (w : Nat) (f : Wave → Wave) : (s.modWave w f).evTurn = s.evTurn := rfl
@[simp] theorem State.modWave_free (s : State) (w : Nat) (f : Wave → Wave) : (s.modWave w f).free = s.free := rfl
@[simp] theorem State.modWave_seq (s : State) (w : Nat) (f : Wave → Wave) : (s.modWave w f).seq = s.seq := rfl
@[simp] theorem State.modWave_cur (s : State) (w : Nat) (f : Wave → Wave) : (s.modWave w f).cur = s.cur := rfl
@[simp] theorem State.modWave_latches (s : State) (w : Nat) (f : Wave → Wave) : (s.modWave w f).latches = s.latches := rfl
@[simp] theorem State.modWave_gangs (s : State) (w : Nat) (f : Wave → Wave) : (s.modWave w f).gangs = s.gangs := rfl
@[simp] theorem State.modWave_launches (s : State) (w : Nat) (f : Wave → Wave) : (s.modWave w f).launches = s.launches := rfl
@[simp] theorem State.modWave_vds (s : State) (w : Nat) (f : Wave → Wave) : (s.modWave w f).vds = s.vds := rfl
@[simp] theorem State.modWave_tasks (s : State) (w : Nat) (f : Wave → Wave) : (s.modWave w f).tasks = s.tasks := rfl
@[simp] theorem State.modWave_mem (s : State) (w : Nat) (f : Wave → Wave) : (s.modWave w f).mem = s.mem := rfl
@[simp] theorem State.modWave_bad (s : State) (w : Nat) (f : Wave → Wave) : (s.modWave w f).bad = s.bad := rfl
@[simp] theorem State.modWave_flight (s : State) (w : Nat) (f : Wave → Wave) : (s.modWave w f).flight = s.flight := rfl
@[simp] theorem State.modWave_homes (s : State) (w : Nat) (f : Wave → Wave) : (s.modWave w f).homes = s.homes := rfl
@[simp] theorem State.modWave_copies (s : State) (w : Nat) (f : Wave → Wave) : (s.modWave w f).copies = s.copies := rfl
@[simp] theorem State.modWave_privHeld (s : State) (w : Nat) (f : Wave → Wave) : (s.modWave w f).privHeld = s.privHeld := rfl
@[simp] theorem State.modWave_llc (s : State) (w : Nat) (f : Wave → Wave) : (s.modWave w f).llc = s.llc := rfl
@[simp] theorem State.modWave_atomLog (s : State) (w : Nat) (f : Wave → Wave) : (s.modWave w f).atomLog = s.atomLog := rfl
@[simp] theorem State.modWave_sectors (s : State) (w : Nat) (f : Wave → Wave) : (s.modWave w f).sectors = s.sectors := rfl
@[simp] theorem State.modWave_views (s : State) (w : Nat) (f : Wave → Wave) : (s.modWave w f).views = s.views := rfl
@[simp] theorem State.modWave_tlb (s : State) (w : Nat) (f : Wave → Wave) : (s.modWave w f).tlb = s.tlb := rfl
@[simp] theorem State.modWave_dir (s : State) (w : Nat) (f : Wave → Wave) : (s.modWave w f).dir = s.dir := rfl
@[simp] theorem State.modWave_bridge (s : State) (w : Nat) (f : Wave → Wave) : (s.modWave w f).bridge = s.bridge := rfl
@[simp] theorem State.modWave_hostReqs (s : State) (w : Nat) (f : Wave → Wave) : (s.modWave w f).hostReqs = s.hostReqs := rfl
@[simp] theorem State.modWave_snoops (s : State) (w : Nat) (f : Wave → Wave) : (s.modWave w f).snoops = s.snoops := rfl
@[simp] theorem State.modWave_colls (s : State) (w : Nat) (f : Wave → Wave) : (s.modWave w f).colls = s.colls := rfl
@[simp] theorem State.modWave_steals (s : State) (w : Nat) (f : Wave → Wave) : (s.modWave w f).steals = s.steals := rfl
@[simp] theorem State.modWave_scOrder (s : State) (w : Nat) (f : Wave → Wave) : (s.modWave w f).scOrder = s.scOrder := rfl
@[simp] theorem State.modWave_ports (s : State) (w : Nat) (f : Wave → Wave) : (s.modWave w f).ports = s.ports := rfl
@[simp] theorem State.modWave_links (s : State) (w : Nat) (f : Wave → Wave) : (s.modWave w f).links = s.links := rfl
@[simp] theorem State.modWave_performed (s : State) (w : Nat) (f : Wave → Wave) : (s.modWave w f).performed = s.performed := rfl
@[simp] theorem State.modWave_firewall (s : State) (w : Nat) (f : Wave → Wave) : (s.modWave w f).firewall = s.firewall := rfl
@[simp] theorem State.modWave_partitions (s : State) (w : Nat) (f : Wave → Wave) : (s.modWave w f).partitions = s.partitions := rfl
@[simp] theorem State.modWave_slices (s : State) (w : Nat) (f : Wave → Wave) : (s.modWave w f).slices = s.slices := rfl
@[simp] theorem State.modWave_pfWr (s : State) (w : Nat) (f : Wave → Wave) : (s.modWave w f).pfWr = s.pfWr := rfl
@[simp] theorem State.modWave_pfRd (s : State) (w : Nat) (f : Wave → Wave) : (s.modWave w f).pfRd = s.pfRd := rfl
@[simp] theorem State.modWave_pfHeld (s : State) (w : Nat) (f : Wave → Wave) : (s.modWave w f).pfHeld = s.pfHeld := rfl
@[simp] theorem State.modWave_msix (s : State) (w : Nat) (f : Wave → Wave) : (s.modWave w f).msix = s.msix := rfl
@[simp] theorem State.modWave_modules (s : State) (w : Nat) (f : Wave → Wave) : (s.modWave w f).modules = s.modules := rfl
@[simp] theorem State.modWave_recovery (s : State) (w : Nat) (f : Wave → Wave) : (s.modWave w f).recovery = s.recovery := rfl
@[simp] theorem State.modWave_started (s : State) (w : Nat) (f : Wave → Wave) : (s.modWave w f).started = s.started := rfl
@[simp] theorem State.modWave_keys (s : State) (w : Nat) (f : Wave → Wave) : (s.modWave w f).keys = s.keys := rfl
@[simp] theorem State.modWave_moves (s : State) (w : Nat) (f : Wave → Wave) : (s.modWave w f).moves = s.moves := rfl
@[simp] theorem State.modWave_owners (s : State) (w : Nat) (f : Wave → Wave) : (s.modWave w f).owners = s.owners := rfl
@[simp] theorem State.modWave_marked (s : State) (w : Nat) (f : Wave → Wave) : (s.modWave w f).marked = s.marked := rfl
@[simp] theorem State.modWave_ranges (s : State) (w : Nat) (f : Wave → Wave) : (s.modWave w f).ranges = s.ranges := rfl
@[simp] theorem State.modWave_windows (s : State) (w : Nat) (f : Wave → Wave) : (s.modWave w f).windows = s.windows := rfl
@[simp] theorem State.modWave_islands (s : State) (w : Nat) (f : Wave → Wave) : (s.modWave w f).islands = s.islands := rfl
@[simp] theorem State.modWave_skew (s : State) (w : Nat) (f : Wave → Wave) : (s.modWave w f).skew = s.skew := rfl
@[simp] theorem State.modWave_ceiling (s : State) (w : Nat) (f : Wave → Wave) : (s.modWave w f).ceiling = s.ceiling := rfl
@[simp] theorem State.modWave_record (s : State) (w : Nat) (f : Wave → Wave) : (s.modWave w f).record = s.record := rfl
@[simp] theorem State.modWave_binding (s : State) (w : Nat) (f : Wave → Wave) : (s.modWave w f).binding = s.binding := rfl
@[simp] theorem State.modWave_reply (s : State) (w : Nat) (f : Wave → Wave) : (s.modWave w f).reply = s.reply := rfl
@[simp] theorem State.modWave_words (s : State) (w : Nat) (f : Wave → Wave) : (s.modWave w f).words = s.words := rfl
@[simp] theorem State.modWave_listing (s : State) (w : Nat) (f : Wave → Wave) : (s.modWave w f).listing = s.listing := rfl
@[simp] theorem State.modWave_notes (s : State) (w : Nat) (f : Wave → Wave) : (s.modWave w f).notes = s.notes := rfl
@[simp] theorem State.modWave_trace (s : State) (w : Nat) (f : Wave → Wave) : (s.modWave w f).trace = s.trace := rfl
@[simp] theorem State.modWave_exchanges (s : State) (w : Nat) (f : Wave → Wave) : (s.modWave w f).exchanges = s.exchanges := rfl
@[simp] theorem State.modWave_waves (s : State) (w : Nat) (f : Wave → Wave) : (s.modWave w f).waves = s.waves.modify w f := rfl
@[simp] theorem State.modGang_time (s : State) (g : Nat) (f : Gang → Gang) : (s.modGang g f).time = s.time := rfl
@[simp] theorem State.modGang_pace (s : State) (g : Nat) (f : Gang → Gang) : (s.modGang g f).pace = s.pace := rfl
@[simp] theorem State.modGang_inputs (s : State) (g : Nat) (f : Gang → Gang) : (s.modGang g f).inputs = s.inputs := rfl
@[simp] theorem State.modGang_turns (s : State) (g : Nat) (f : Gang → Gang) : (s.modGang g f).turns = s.turns := rfl
@[simp] theorem State.modGang_evTurn (s : State) (g : Nat) (f : Gang → Gang) : (s.modGang g f).evTurn = s.evTurn := rfl
@[simp] theorem State.modGang_free (s : State) (g : Nat) (f : Gang → Gang) : (s.modGang g f).free = s.free := rfl
@[simp] theorem State.modGang_seq (s : State) (g : Nat) (f : Gang → Gang) : (s.modGang g f).seq = s.seq := rfl
@[simp] theorem State.modGang_cur (s : State) (g : Nat) (f : Gang → Gang) : (s.modGang g f).cur = s.cur := rfl
@[simp] theorem State.modGang_latches (s : State) (g : Nat) (f : Gang → Gang) : (s.modGang g f).latches = s.latches := rfl
@[simp] theorem State.modGang_waves (s : State) (g : Nat) (f : Gang → Gang) : (s.modGang g f).waves = s.waves := rfl
@[simp] theorem State.modGang_launches (s : State) (g : Nat) (f : Gang → Gang) : (s.modGang g f).launches = s.launches := rfl
@[simp] theorem State.modGang_vds (s : State) (g : Nat) (f : Gang → Gang) : (s.modGang g f).vds = s.vds := rfl
@[simp] theorem State.modGang_tasks (s : State) (g : Nat) (f : Gang → Gang) : (s.modGang g f).tasks = s.tasks := rfl
@[simp] theorem State.modGang_mem (s : State) (g : Nat) (f : Gang → Gang) : (s.modGang g f).mem = s.mem := rfl
@[simp] theorem State.modGang_bad (s : State) (g : Nat) (f : Gang → Gang) : (s.modGang g f).bad = s.bad := rfl
@[simp] theorem State.modGang_flight (s : State) (g : Nat) (f : Gang → Gang) : (s.modGang g f).flight = s.flight := rfl
@[simp] theorem State.modGang_homes (s : State) (g : Nat) (f : Gang → Gang) : (s.modGang g f).homes = s.homes := rfl
@[simp] theorem State.modGang_copies (s : State) (g : Nat) (f : Gang → Gang) : (s.modGang g f).copies = s.copies := rfl
@[simp] theorem State.modGang_privHeld (s : State) (g : Nat) (f : Gang → Gang) : (s.modGang g f).privHeld = s.privHeld := rfl
@[simp] theorem State.modGang_llc (s : State) (g : Nat) (f : Gang → Gang) : (s.modGang g f).llc = s.llc := rfl
@[simp] theorem State.modGang_atomLog (s : State) (g : Nat) (f : Gang → Gang) : (s.modGang g f).atomLog = s.atomLog := rfl
@[simp] theorem State.modGang_sectors (s : State) (g : Nat) (f : Gang → Gang) : (s.modGang g f).sectors = s.sectors := rfl
@[simp] theorem State.modGang_views (s : State) (g : Nat) (f : Gang → Gang) : (s.modGang g f).views = s.views := rfl
@[simp] theorem State.modGang_tlb (s : State) (g : Nat) (f : Gang → Gang) : (s.modGang g f).tlb = s.tlb := rfl
@[simp] theorem State.modGang_dir (s : State) (g : Nat) (f : Gang → Gang) : (s.modGang g f).dir = s.dir := rfl
@[simp] theorem State.modGang_bridge (s : State) (g : Nat) (f : Gang → Gang) : (s.modGang g f).bridge = s.bridge := rfl
@[simp] theorem State.modGang_hostReqs (s : State) (g : Nat) (f : Gang → Gang) : (s.modGang g f).hostReqs = s.hostReqs := rfl
@[simp] theorem State.modGang_snoops (s : State) (g : Nat) (f : Gang → Gang) : (s.modGang g f).snoops = s.snoops := rfl
@[simp] theorem State.modGang_colls (s : State) (g : Nat) (f : Gang → Gang) : (s.modGang g f).colls = s.colls := rfl
@[simp] theorem State.modGang_steals (s : State) (g : Nat) (f : Gang → Gang) : (s.modGang g f).steals = s.steals := rfl
@[simp] theorem State.modGang_scOrder (s : State) (g : Nat) (f : Gang → Gang) : (s.modGang g f).scOrder = s.scOrder := rfl
@[simp] theorem State.modGang_ports (s : State) (g : Nat) (f : Gang → Gang) : (s.modGang g f).ports = s.ports := rfl
@[simp] theorem State.modGang_links (s : State) (g : Nat) (f : Gang → Gang) : (s.modGang g f).links = s.links := rfl
@[simp] theorem State.modGang_performed (s : State) (g : Nat) (f : Gang → Gang) : (s.modGang g f).performed = s.performed := rfl
@[simp] theorem State.modGang_firewall (s : State) (g : Nat) (f : Gang → Gang) : (s.modGang g f).firewall = s.firewall := rfl
@[simp] theorem State.modGang_partitions (s : State) (g : Nat) (f : Gang → Gang) : (s.modGang g f).partitions = s.partitions := rfl
@[simp] theorem State.modGang_slices (s : State) (g : Nat) (f : Gang → Gang) : (s.modGang g f).slices = s.slices := rfl
@[simp] theorem State.modGang_pfWr (s : State) (g : Nat) (f : Gang → Gang) : (s.modGang g f).pfWr = s.pfWr := rfl
@[simp] theorem State.modGang_pfRd (s : State) (g : Nat) (f : Gang → Gang) : (s.modGang g f).pfRd = s.pfRd := rfl
@[simp] theorem State.modGang_pfHeld (s : State) (g : Nat) (f : Gang → Gang) : (s.modGang g f).pfHeld = s.pfHeld := rfl
@[simp] theorem State.modGang_msix (s : State) (g : Nat) (f : Gang → Gang) : (s.modGang g f).msix = s.msix := rfl
@[simp] theorem State.modGang_modules (s : State) (g : Nat) (f : Gang → Gang) : (s.modGang g f).modules = s.modules := rfl
@[simp] theorem State.modGang_recovery (s : State) (g : Nat) (f : Gang → Gang) : (s.modGang g f).recovery = s.recovery := rfl
@[simp] theorem State.modGang_started (s : State) (g : Nat) (f : Gang → Gang) : (s.modGang g f).started = s.started := rfl
@[simp] theorem State.modGang_keys (s : State) (g : Nat) (f : Gang → Gang) : (s.modGang g f).keys = s.keys := rfl
@[simp] theorem State.modGang_moves (s : State) (g : Nat) (f : Gang → Gang) : (s.modGang g f).moves = s.moves := rfl
@[simp] theorem State.modGang_owners (s : State) (g : Nat) (f : Gang → Gang) : (s.modGang g f).owners = s.owners := rfl
@[simp] theorem State.modGang_marked (s : State) (g : Nat) (f : Gang → Gang) : (s.modGang g f).marked = s.marked := rfl
@[simp] theorem State.modGang_ranges (s : State) (g : Nat) (f : Gang → Gang) : (s.modGang g f).ranges = s.ranges := rfl
@[simp] theorem State.modGang_windows (s : State) (g : Nat) (f : Gang → Gang) : (s.modGang g f).windows = s.windows := rfl
@[simp] theorem State.modGang_islands (s : State) (g : Nat) (f : Gang → Gang) : (s.modGang g f).islands = s.islands := rfl
@[simp] theorem State.modGang_skew (s : State) (g : Nat) (f : Gang → Gang) : (s.modGang g f).skew = s.skew := rfl
@[simp] theorem State.modGang_ceiling (s : State) (g : Nat) (f : Gang → Gang) : (s.modGang g f).ceiling = s.ceiling := rfl
@[simp] theorem State.modGang_record (s : State) (g : Nat) (f : Gang → Gang) : (s.modGang g f).record = s.record := rfl
@[simp] theorem State.modGang_binding (s : State) (g : Nat) (f : Gang → Gang) : (s.modGang g f).binding = s.binding := rfl
@[simp] theorem State.modGang_reply (s : State) (g : Nat) (f : Gang → Gang) : (s.modGang g f).reply = s.reply := rfl
@[simp] theorem State.modGang_words (s : State) (g : Nat) (f : Gang → Gang) : (s.modGang g f).words = s.words := rfl
@[simp] theorem State.modGang_listing (s : State) (g : Nat) (f : Gang → Gang) : (s.modGang g f).listing = s.listing := rfl
@[simp] theorem State.modGang_notes (s : State) (g : Nat) (f : Gang → Gang) : (s.modGang g f).notes = s.notes := rfl
@[simp] theorem State.modGang_trace (s : State) (g : Nat) (f : Gang → Gang) : (s.modGang g f).trace = s.trace := rfl
@[simp] theorem State.modGang_exchanges (s : State) (g : Nat) (f : Gang → Gang) : (s.modGang g f).exchanges = s.exchanges := rfl
@[simp] theorem State.modGang_gangs (s : State) (g : Nat) (f : Gang → Gang) : (s.modGang g f).gangs = s.gangs.modify g f := rfl
@[simp] theorem State.modVd_time (s : State) (d : Nat) (f : Vd → Vd) : (s.modVd d f).time = s.time := rfl
@[simp] theorem State.modVd_pace (s : State) (d : Nat) (f : Vd → Vd) : (s.modVd d f).pace = s.pace := rfl
@[simp] theorem State.modVd_inputs (s : State) (d : Nat) (f : Vd → Vd) : (s.modVd d f).inputs = s.inputs := rfl
@[simp] theorem State.modVd_turns (s : State) (d : Nat) (f : Vd → Vd) : (s.modVd d f).turns = s.turns := rfl
@[simp] theorem State.modVd_evTurn (s : State) (d : Nat) (f : Vd → Vd) : (s.modVd d f).evTurn = s.evTurn := rfl
@[simp] theorem State.modVd_free (s : State) (d : Nat) (f : Vd → Vd) : (s.modVd d f).free = s.free := rfl
@[simp] theorem State.modVd_seq (s : State) (d : Nat) (f : Vd → Vd) : (s.modVd d f).seq = s.seq := rfl
@[simp] theorem State.modVd_cur (s : State) (d : Nat) (f : Vd → Vd) : (s.modVd d f).cur = s.cur := rfl
@[simp] theorem State.modVd_latches (s : State) (d : Nat) (f : Vd → Vd) : (s.modVd d f).latches = s.latches := rfl
@[simp] theorem State.modVd_waves (s : State) (d : Nat) (f : Vd → Vd) : (s.modVd d f).waves = s.waves := rfl
@[simp] theorem State.modVd_gangs (s : State) (d : Nat) (f : Vd → Vd) : (s.modVd d f).gangs = s.gangs := rfl
@[simp] theorem State.modVd_launches (s : State) (d : Nat) (f : Vd → Vd) : (s.modVd d f).launches = s.launches := rfl
@[simp] theorem State.modVd_tasks (s : State) (d : Nat) (f : Vd → Vd) : (s.modVd d f).tasks = s.tasks := rfl
@[simp] theorem State.modVd_mem (s : State) (d : Nat) (f : Vd → Vd) : (s.modVd d f).mem = s.mem := rfl
@[simp] theorem State.modVd_bad (s : State) (d : Nat) (f : Vd → Vd) : (s.modVd d f).bad = s.bad := rfl
@[simp] theorem State.modVd_flight (s : State) (d : Nat) (f : Vd → Vd) : (s.modVd d f).flight = s.flight := rfl
@[simp] theorem State.modVd_homes (s : State) (d : Nat) (f : Vd → Vd) : (s.modVd d f).homes = s.homes := rfl
@[simp] theorem State.modVd_copies (s : State) (d : Nat) (f : Vd → Vd) : (s.modVd d f).copies = s.copies := rfl
@[simp] theorem State.modVd_privHeld (s : State) (d : Nat) (f : Vd → Vd) : (s.modVd d f).privHeld = s.privHeld := rfl
@[simp] theorem State.modVd_llc (s : State) (d : Nat) (f : Vd → Vd) : (s.modVd d f).llc = s.llc := rfl
@[simp] theorem State.modVd_atomLog (s : State) (d : Nat) (f : Vd → Vd) : (s.modVd d f).atomLog = s.atomLog := rfl
@[simp] theorem State.modVd_sectors (s : State) (d : Nat) (f : Vd → Vd) : (s.modVd d f).sectors = s.sectors := rfl
@[simp] theorem State.modVd_views (s : State) (d : Nat) (f : Vd → Vd) : (s.modVd d f).views = s.views := rfl
@[simp] theorem State.modVd_tlb (s : State) (d : Nat) (f : Vd → Vd) : (s.modVd d f).tlb = s.tlb := rfl
@[simp] theorem State.modVd_dir (s : State) (d : Nat) (f : Vd → Vd) : (s.modVd d f).dir = s.dir := rfl
@[simp] theorem State.modVd_bridge (s : State) (d : Nat) (f : Vd → Vd) : (s.modVd d f).bridge = s.bridge := rfl
@[simp] theorem State.modVd_hostReqs (s : State) (d : Nat) (f : Vd → Vd) : (s.modVd d f).hostReqs = s.hostReqs := rfl
@[simp] theorem State.modVd_snoops (s : State) (d : Nat) (f : Vd → Vd) : (s.modVd d f).snoops = s.snoops := rfl
@[simp] theorem State.modVd_colls (s : State) (d : Nat) (f : Vd → Vd) : (s.modVd d f).colls = s.colls := rfl
@[simp] theorem State.modVd_steals (s : State) (d : Nat) (f : Vd → Vd) : (s.modVd d f).steals = s.steals := rfl
@[simp] theorem State.modVd_scOrder (s : State) (d : Nat) (f : Vd → Vd) : (s.modVd d f).scOrder = s.scOrder := rfl
@[simp] theorem State.modVd_ports (s : State) (d : Nat) (f : Vd → Vd) : (s.modVd d f).ports = s.ports := rfl
@[simp] theorem State.modVd_links (s : State) (d : Nat) (f : Vd → Vd) : (s.modVd d f).links = s.links := rfl
@[simp] theorem State.modVd_performed (s : State) (d : Nat) (f : Vd → Vd) : (s.modVd d f).performed = s.performed := rfl
@[simp] theorem State.modVd_firewall (s : State) (d : Nat) (f : Vd → Vd) : (s.modVd d f).firewall = s.firewall := rfl
@[simp] theorem State.modVd_partitions (s : State) (d : Nat) (f : Vd → Vd) : (s.modVd d f).partitions = s.partitions := rfl
@[simp] theorem State.modVd_slices (s : State) (d : Nat) (f : Vd → Vd) : (s.modVd d f).slices = s.slices := rfl
@[simp] theorem State.modVd_pfWr (s : State) (d : Nat) (f : Vd → Vd) : (s.modVd d f).pfWr = s.pfWr := rfl
@[simp] theorem State.modVd_pfRd (s : State) (d : Nat) (f : Vd → Vd) : (s.modVd d f).pfRd = s.pfRd := rfl
@[simp] theorem State.modVd_pfHeld (s : State) (d : Nat) (f : Vd → Vd) : (s.modVd d f).pfHeld = s.pfHeld := rfl
@[simp] theorem State.modVd_msix (s : State) (d : Nat) (f : Vd → Vd) : (s.modVd d f).msix = s.msix := rfl
@[simp] theorem State.modVd_modules (s : State) (d : Nat) (f : Vd → Vd) : (s.modVd d f).modules = s.modules := rfl
@[simp] theorem State.modVd_recovery (s : State) (d : Nat) (f : Vd → Vd) : (s.modVd d f).recovery = s.recovery := rfl
@[simp] theorem State.modVd_started (s : State) (d : Nat) (f : Vd → Vd) : (s.modVd d f).started = s.started := rfl
@[simp] theorem State.modVd_keys (s : State) (d : Nat) (f : Vd → Vd) : (s.modVd d f).keys = s.keys := rfl
@[simp] theorem State.modVd_moves (s : State) (d : Nat) (f : Vd → Vd) : (s.modVd d f).moves = s.moves := rfl
@[simp] theorem State.modVd_owners (s : State) (d : Nat) (f : Vd → Vd) : (s.modVd d f).owners = s.owners := rfl
@[simp] theorem State.modVd_marked (s : State) (d : Nat) (f : Vd → Vd) : (s.modVd d f).marked = s.marked := rfl
@[simp] theorem State.modVd_ranges (s : State) (d : Nat) (f : Vd → Vd) : (s.modVd d f).ranges = s.ranges := rfl
@[simp] theorem State.modVd_windows (s : State) (d : Nat) (f : Vd → Vd) : (s.modVd d f).windows = s.windows := rfl
@[simp] theorem State.modVd_islands (s : State) (d : Nat) (f : Vd → Vd) : (s.modVd d f).islands = s.islands := rfl
@[simp] theorem State.modVd_skew (s : State) (d : Nat) (f : Vd → Vd) : (s.modVd d f).skew = s.skew := rfl
@[simp] theorem State.modVd_ceiling (s : State) (d : Nat) (f : Vd → Vd) : (s.modVd d f).ceiling = s.ceiling := rfl
@[simp] theorem State.modVd_record (s : State) (d : Nat) (f : Vd → Vd) : (s.modVd d f).record = s.record := rfl
@[simp] theorem State.modVd_binding (s : State) (d : Nat) (f : Vd → Vd) : (s.modVd d f).binding = s.binding := rfl
@[simp] theorem State.modVd_reply (s : State) (d : Nat) (f : Vd → Vd) : (s.modVd d f).reply = s.reply := rfl
@[simp] theorem State.modVd_words (s : State) (d : Nat) (f : Vd → Vd) : (s.modVd d f).words = s.words := rfl
@[simp] theorem State.modVd_listing (s : State) (d : Nat) (f : Vd → Vd) : (s.modVd d f).listing = s.listing := rfl
@[simp] theorem State.modVd_notes (s : State) (d : Nat) (f : Vd → Vd) : (s.modVd d f).notes = s.notes := rfl
@[simp] theorem State.modVd_trace (s : State) (d : Nat) (f : Vd → Vd) : (s.modVd d f).trace = s.trace := rfl
@[simp] theorem State.modVd_exchanges (s : State) (d : Nat) (f : Vd → Vd) : (s.modVd d f).exchanges = s.exchanges := rfl
@[simp] theorem State.modVd_vds (s : State) (d : Nat) (f : Vd → Vd) : (s.modVd d f).vds = s.vds.modify d f := rfl
@[simp] theorem State.modLaunch_time (s : State) (l : Nat) (f : Launch → Launch) : (s.modLaunch l f).time = s.time := rfl
@[simp] theorem State.modLaunch_pace (s : State) (l : Nat) (f : Launch → Launch) : (s.modLaunch l f).pace = s.pace := rfl
@[simp] theorem State.modLaunch_inputs (s : State) (l : Nat) (f : Launch → Launch) : (s.modLaunch l f).inputs = s.inputs := rfl
@[simp] theorem State.modLaunch_turns (s : State) (l : Nat) (f : Launch → Launch) : (s.modLaunch l f).turns = s.turns := rfl
@[simp] theorem State.modLaunch_evTurn (s : State) (l : Nat) (f : Launch → Launch) : (s.modLaunch l f).evTurn = s.evTurn := rfl
@[simp] theorem State.modLaunch_free (s : State) (l : Nat) (f : Launch → Launch) : (s.modLaunch l f).free = s.free := rfl
@[simp] theorem State.modLaunch_seq (s : State) (l : Nat) (f : Launch → Launch) : (s.modLaunch l f).seq = s.seq := rfl
@[simp] theorem State.modLaunch_cur (s : State) (l : Nat) (f : Launch → Launch) : (s.modLaunch l f).cur = s.cur := rfl
@[simp] theorem State.modLaunch_latches (s : State) (l : Nat) (f : Launch → Launch) : (s.modLaunch l f).latches = s.latches := rfl
@[simp] theorem State.modLaunch_waves (s : State) (l : Nat) (f : Launch → Launch) : (s.modLaunch l f).waves = s.waves := rfl
@[simp] theorem State.modLaunch_gangs (s : State) (l : Nat) (f : Launch → Launch) : (s.modLaunch l f).gangs = s.gangs := rfl
@[simp] theorem State.modLaunch_vds (s : State) (l : Nat) (f : Launch → Launch) : (s.modLaunch l f).vds = s.vds := rfl
@[simp] theorem State.modLaunch_tasks (s : State) (l : Nat) (f : Launch → Launch) : (s.modLaunch l f).tasks = s.tasks := rfl
@[simp] theorem State.modLaunch_mem (s : State) (l : Nat) (f : Launch → Launch) : (s.modLaunch l f).mem = s.mem := rfl
@[simp] theorem State.modLaunch_bad (s : State) (l : Nat) (f : Launch → Launch) : (s.modLaunch l f).bad = s.bad := rfl
@[simp] theorem State.modLaunch_flight (s : State) (l : Nat) (f : Launch → Launch) : (s.modLaunch l f).flight = s.flight := rfl
@[simp] theorem State.modLaunch_homes (s : State) (l : Nat) (f : Launch → Launch) : (s.modLaunch l f).homes = s.homes := rfl
@[simp] theorem State.modLaunch_copies (s : State) (l : Nat) (f : Launch → Launch) : (s.modLaunch l f).copies = s.copies := rfl
@[simp] theorem State.modLaunch_privHeld (s : State) (l : Nat) (f : Launch → Launch) : (s.modLaunch l f).privHeld = s.privHeld := rfl
@[simp] theorem State.modLaunch_llc (s : State) (l : Nat) (f : Launch → Launch) : (s.modLaunch l f).llc = s.llc := rfl
@[simp] theorem State.modLaunch_atomLog (s : State) (l : Nat) (f : Launch → Launch) : (s.modLaunch l f).atomLog = s.atomLog := rfl
@[simp] theorem State.modLaunch_sectors (s : State) (l : Nat) (f : Launch → Launch) : (s.modLaunch l f).sectors = s.sectors := rfl
@[simp] theorem State.modLaunch_views (s : State) (l : Nat) (f : Launch → Launch) : (s.modLaunch l f).views = s.views := rfl
@[simp] theorem State.modLaunch_tlb (s : State) (l : Nat) (f : Launch → Launch) : (s.modLaunch l f).tlb = s.tlb := rfl
@[simp] theorem State.modLaunch_dir (s : State) (l : Nat) (f : Launch → Launch) : (s.modLaunch l f).dir = s.dir := rfl
@[simp] theorem State.modLaunch_bridge (s : State) (l : Nat) (f : Launch → Launch) : (s.modLaunch l f).bridge = s.bridge := rfl
@[simp] theorem State.modLaunch_hostReqs (s : State) (l : Nat) (f : Launch → Launch) : (s.modLaunch l f).hostReqs = s.hostReqs := rfl
@[simp] theorem State.modLaunch_snoops (s : State) (l : Nat) (f : Launch → Launch) : (s.modLaunch l f).snoops = s.snoops := rfl
@[simp] theorem State.modLaunch_colls (s : State) (l : Nat) (f : Launch → Launch) : (s.modLaunch l f).colls = s.colls := rfl
@[simp] theorem State.modLaunch_steals (s : State) (l : Nat) (f : Launch → Launch) : (s.modLaunch l f).steals = s.steals := rfl
@[simp] theorem State.modLaunch_scOrder (s : State) (l : Nat) (f : Launch → Launch) : (s.modLaunch l f).scOrder = s.scOrder := rfl
@[simp] theorem State.modLaunch_ports (s : State) (l : Nat) (f : Launch → Launch) : (s.modLaunch l f).ports = s.ports := rfl
@[simp] theorem State.modLaunch_links (s : State) (l : Nat) (f : Launch → Launch) : (s.modLaunch l f).links = s.links := rfl
@[simp] theorem State.modLaunch_performed (s : State) (l : Nat) (f : Launch → Launch) : (s.modLaunch l f).performed = s.performed := rfl
@[simp] theorem State.modLaunch_firewall (s : State) (l : Nat) (f : Launch → Launch) : (s.modLaunch l f).firewall = s.firewall := rfl
@[simp] theorem State.modLaunch_partitions (s : State) (l : Nat) (f : Launch → Launch) : (s.modLaunch l f).partitions = s.partitions := rfl
@[simp] theorem State.modLaunch_slices (s : State) (l : Nat) (f : Launch → Launch) : (s.modLaunch l f).slices = s.slices := rfl
@[simp] theorem State.modLaunch_pfWr (s : State) (l : Nat) (f : Launch → Launch) : (s.modLaunch l f).pfWr = s.pfWr := rfl
@[simp] theorem State.modLaunch_pfRd (s : State) (l : Nat) (f : Launch → Launch) : (s.modLaunch l f).pfRd = s.pfRd := rfl
@[simp] theorem State.modLaunch_pfHeld (s : State) (l : Nat) (f : Launch → Launch) : (s.modLaunch l f).pfHeld = s.pfHeld := rfl
@[simp] theorem State.modLaunch_msix (s : State) (l : Nat) (f : Launch → Launch) : (s.modLaunch l f).msix = s.msix := rfl
@[simp] theorem State.modLaunch_modules (s : State) (l : Nat) (f : Launch → Launch) : (s.modLaunch l f).modules = s.modules := rfl
@[simp] theorem State.modLaunch_recovery (s : State) (l : Nat) (f : Launch → Launch) : (s.modLaunch l f).recovery = s.recovery := rfl
@[simp] theorem State.modLaunch_started (s : State) (l : Nat) (f : Launch → Launch) : (s.modLaunch l f).started = s.started := rfl
@[simp] theorem State.modLaunch_keys (s : State) (l : Nat) (f : Launch → Launch) : (s.modLaunch l f).keys = s.keys := rfl
@[simp] theorem State.modLaunch_moves (s : State) (l : Nat) (f : Launch → Launch) : (s.modLaunch l f).moves = s.moves := rfl
@[simp] theorem State.modLaunch_owners (s : State) (l : Nat) (f : Launch → Launch) : (s.modLaunch l f).owners = s.owners := rfl
@[simp] theorem State.modLaunch_marked (s : State) (l : Nat) (f : Launch → Launch) : (s.modLaunch l f).marked = s.marked := rfl
@[simp] theorem State.modLaunch_ranges (s : State) (l : Nat) (f : Launch → Launch) : (s.modLaunch l f).ranges = s.ranges := rfl
@[simp] theorem State.modLaunch_windows (s : State) (l : Nat) (f : Launch → Launch) : (s.modLaunch l f).windows = s.windows := rfl
@[simp] theorem State.modLaunch_islands (s : State) (l : Nat) (f : Launch → Launch) : (s.modLaunch l f).islands = s.islands := rfl
@[simp] theorem State.modLaunch_skew (s : State) (l : Nat) (f : Launch → Launch) : (s.modLaunch l f).skew = s.skew := rfl
@[simp] theorem State.modLaunch_ceiling (s : State) (l : Nat) (f : Launch → Launch) : (s.modLaunch l f).ceiling = s.ceiling := rfl
@[simp] theorem State.modLaunch_record (s : State) (l : Nat) (f : Launch → Launch) : (s.modLaunch l f).record = s.record := rfl
@[simp] theorem State.modLaunch_binding (s : State) (l : Nat) (f : Launch → Launch) : (s.modLaunch l f).binding = s.binding := rfl
@[simp] theorem State.modLaunch_reply (s : State) (l : Nat) (f : Launch → Launch) : (s.modLaunch l f).reply = s.reply := rfl
@[simp] theorem State.modLaunch_words (s : State) (l : Nat) (f : Launch → Launch) : (s.modLaunch l f).words = s.words := rfl
@[simp] theorem State.modLaunch_listing (s : State) (l : Nat) (f : Launch → Launch) : (s.modLaunch l f).listing = s.listing := rfl
@[simp] theorem State.modLaunch_notes (s : State) (l : Nat) (f : Launch → Launch) : (s.modLaunch l f).notes = s.notes := rfl
@[simp] theorem State.modLaunch_trace (s : State) (l : Nat) (f : Launch → Launch) : (s.modLaunch l f).trace = s.trace := rfl
@[simp] theorem State.modLaunch_exchanges (s : State) (l : Nat) (f : Launch → Launch) : (s.modLaunch l f).exchanges = s.exchanges := rfl
@[simp] theorem State.modLaunch_launches (s : State) (l : Nat) (f : Launch → Launch) : (s.modLaunch l f).launches = s.launches.modify l f := rfl

/-! ## Changing the unit's wave and fragment -/

@[simp] theorem State.modCw_time (s : State) (f : Wave → Wave) : (s.modCw f).time = s.time := rfl
@[simp] theorem State.modCw_pace (s : State) (f : Wave → Wave) : (s.modCw f).pace = s.pace := rfl
@[simp] theorem State.modCw_inputs (s : State) (f : Wave → Wave) : (s.modCw f).inputs = s.inputs := rfl
@[simp] theorem State.modCw_turns (s : State) (f : Wave → Wave) : (s.modCw f).turns = s.turns := rfl
@[simp] theorem State.modCw_evTurn (s : State) (f : Wave → Wave) : (s.modCw f).evTurn = s.evTurn := rfl
@[simp] theorem State.modCw_free (s : State) (f : Wave → Wave) : (s.modCw f).free = s.free := rfl
@[simp] theorem State.modCw_seq (s : State) (f : Wave → Wave) : (s.modCw f).seq = s.seq := rfl
@[simp] theorem State.modCw_cur (s : State) (f : Wave → Wave) : (s.modCw f).cur = s.cur := rfl
@[simp] theorem State.modCw_latches (s : State) (f : Wave → Wave) : (s.modCw f).latches = s.latches := rfl
@[simp] theorem State.modCw_gangs (s : State) (f : Wave → Wave) : (s.modCw f).gangs = s.gangs := rfl
@[simp] theorem State.modCw_launches (s : State) (f : Wave → Wave) : (s.modCw f).launches = s.launches := rfl
@[simp] theorem State.modCw_vds (s : State) (f : Wave → Wave) : (s.modCw f).vds = s.vds := rfl
@[simp] theorem State.modCw_tasks (s : State) (f : Wave → Wave) : (s.modCw f).tasks = s.tasks := rfl
@[simp] theorem State.modCw_mem (s : State) (f : Wave → Wave) : (s.modCw f).mem = s.mem := rfl
@[simp] theorem State.modCw_bad (s : State) (f : Wave → Wave) : (s.modCw f).bad = s.bad := rfl
@[simp] theorem State.modCw_flight (s : State) (f : Wave → Wave) : (s.modCw f).flight = s.flight := rfl
@[simp] theorem State.modCw_homes (s : State) (f : Wave → Wave) : (s.modCw f).homes = s.homes := rfl
@[simp] theorem State.modCw_copies (s : State) (f : Wave → Wave) : (s.modCw f).copies = s.copies := rfl
@[simp] theorem State.modCw_privHeld (s : State) (f : Wave → Wave) : (s.modCw f).privHeld = s.privHeld := rfl
@[simp] theorem State.modCw_llc (s : State) (f : Wave → Wave) : (s.modCw f).llc = s.llc := rfl
@[simp] theorem State.modCw_atomLog (s : State) (f : Wave → Wave) : (s.modCw f).atomLog = s.atomLog := rfl
@[simp] theorem State.modCw_sectors (s : State) (f : Wave → Wave) : (s.modCw f).sectors = s.sectors := rfl
@[simp] theorem State.modCw_views (s : State) (f : Wave → Wave) : (s.modCw f).views = s.views := rfl
@[simp] theorem State.modCw_tlb (s : State) (f : Wave → Wave) : (s.modCw f).tlb = s.tlb := rfl
@[simp] theorem State.modCw_dir (s : State) (f : Wave → Wave) : (s.modCw f).dir = s.dir := rfl
@[simp] theorem State.modCw_bridge (s : State) (f : Wave → Wave) : (s.modCw f).bridge = s.bridge := rfl
@[simp] theorem State.modCw_hostReqs (s : State) (f : Wave → Wave) : (s.modCw f).hostReqs = s.hostReqs := rfl
@[simp] theorem State.modCw_snoops (s : State) (f : Wave → Wave) : (s.modCw f).snoops = s.snoops := rfl
@[simp] theorem State.modCw_colls (s : State) (f : Wave → Wave) : (s.modCw f).colls = s.colls := rfl
@[simp] theorem State.modCw_steals (s : State) (f : Wave → Wave) : (s.modCw f).steals = s.steals := rfl
@[simp] theorem State.modCw_scOrder (s : State) (f : Wave → Wave) : (s.modCw f).scOrder = s.scOrder := rfl
@[simp] theorem State.modCw_ports (s : State) (f : Wave → Wave) : (s.modCw f).ports = s.ports := rfl
@[simp] theorem State.modCw_links (s : State) (f : Wave → Wave) : (s.modCw f).links = s.links := rfl
@[simp] theorem State.modCw_performed (s : State) (f : Wave → Wave) : (s.modCw f).performed = s.performed := rfl
@[simp] theorem State.modCw_firewall (s : State) (f : Wave → Wave) : (s.modCw f).firewall = s.firewall := rfl
@[simp] theorem State.modCw_partitions (s : State) (f : Wave → Wave) : (s.modCw f).partitions = s.partitions := rfl
@[simp] theorem State.modCw_slices (s : State) (f : Wave → Wave) : (s.modCw f).slices = s.slices := rfl
@[simp] theorem State.modCw_pfWr (s : State) (f : Wave → Wave) : (s.modCw f).pfWr = s.pfWr := rfl
@[simp] theorem State.modCw_pfRd (s : State) (f : Wave → Wave) : (s.modCw f).pfRd = s.pfRd := rfl
@[simp] theorem State.modCw_pfHeld (s : State) (f : Wave → Wave) : (s.modCw f).pfHeld = s.pfHeld := rfl
@[simp] theorem State.modCw_msix (s : State) (f : Wave → Wave) : (s.modCw f).msix = s.msix := rfl
@[simp] theorem State.modCw_modules (s : State) (f : Wave → Wave) : (s.modCw f).modules = s.modules := rfl
@[simp] theorem State.modCw_recovery (s : State) (f : Wave → Wave) : (s.modCw f).recovery = s.recovery := rfl
@[simp] theorem State.modCw_started (s : State) (f : Wave → Wave) : (s.modCw f).started = s.started := rfl
@[simp] theorem State.modCw_keys (s : State) (f : Wave → Wave) : (s.modCw f).keys = s.keys := rfl
@[simp] theorem State.modCw_moves (s : State) (f : Wave → Wave) : (s.modCw f).moves = s.moves := rfl
@[simp] theorem State.modCw_owners (s : State) (f : Wave → Wave) : (s.modCw f).owners = s.owners := rfl
@[simp] theorem State.modCw_marked (s : State) (f : Wave → Wave) : (s.modCw f).marked = s.marked := rfl
@[simp] theorem State.modCw_ranges (s : State) (f : Wave → Wave) : (s.modCw f).ranges = s.ranges := rfl
@[simp] theorem State.modCw_windows (s : State) (f : Wave → Wave) : (s.modCw f).windows = s.windows := rfl
@[simp] theorem State.modCw_islands (s : State) (f : Wave → Wave) : (s.modCw f).islands = s.islands := rfl
@[simp] theorem State.modCw_skew (s : State) (f : Wave → Wave) : (s.modCw f).skew = s.skew := rfl
@[simp] theorem State.modCw_ceiling (s : State) (f : Wave → Wave) : (s.modCw f).ceiling = s.ceiling := rfl
@[simp] theorem State.modCw_record (s : State) (f : Wave → Wave) : (s.modCw f).record = s.record := rfl
@[simp] theorem State.modCw_binding (s : State) (f : Wave → Wave) : (s.modCw f).binding = s.binding := rfl
@[simp] theorem State.modCw_reply (s : State) (f : Wave → Wave) : (s.modCw f).reply = s.reply := rfl
@[simp] theorem State.modCw_words (s : State) (f : Wave → Wave) : (s.modCw f).words = s.words := rfl
@[simp] theorem State.modCw_listing (s : State) (f : Wave → Wave) : (s.modCw f).listing = s.listing := rfl
@[simp] theorem State.modCw_notes (s : State) (f : Wave → Wave) : (s.modCw f).notes = s.notes := rfl
@[simp] theorem State.modCw_trace (s : State) (f : Wave → Wave) : (s.modCw f).trace = s.trace := rfl
@[simp] theorem State.modCw_exchanges (s : State) (f : Wave → Wave) : (s.modCw f).exchanges = s.exchanges := rfl
@[simp] theorem State.modCw_waves (s : State) (f : Wave → Wave) : (s.modCw f).waves = s.waves.modify s.cur.wave f := rfl
@[simp] theorem State.modCf_time (s : State) (f : Frag → Frag) : (s.modCf f).time = s.time := rfl
@[simp] theorem State.modCf_pace (s : State) (f : Frag → Frag) : (s.modCf f).pace = s.pace := rfl
@[simp] theorem State.modCf_inputs (s : State) (f : Frag → Frag) : (s.modCf f).inputs = s.inputs := rfl
@[simp] theorem State.modCf_turns (s : State) (f : Frag → Frag) : (s.modCf f).turns = s.turns := rfl
@[simp] theorem State.modCf_evTurn (s : State) (f : Frag → Frag) : (s.modCf f).evTurn = s.evTurn := rfl
@[simp] theorem State.modCf_free (s : State) (f : Frag → Frag) : (s.modCf f).free = s.free := rfl
@[simp] theorem State.modCf_seq (s : State) (f : Frag → Frag) : (s.modCf f).seq = s.seq := rfl
@[simp] theorem State.modCf_cur (s : State) (f : Frag → Frag) : (s.modCf f).cur = s.cur := rfl
@[simp] theorem State.modCf_latches (s : State) (f : Frag → Frag) : (s.modCf f).latches = s.latches := rfl
@[simp] theorem State.modCf_gangs (s : State) (f : Frag → Frag) : (s.modCf f).gangs = s.gangs := rfl
@[simp] theorem State.modCf_launches (s : State) (f : Frag → Frag) : (s.modCf f).launches = s.launches := rfl
@[simp] theorem State.modCf_vds (s : State) (f : Frag → Frag) : (s.modCf f).vds = s.vds := rfl
@[simp] theorem State.modCf_tasks (s : State) (f : Frag → Frag) : (s.modCf f).tasks = s.tasks := rfl
@[simp] theorem State.modCf_mem (s : State) (f : Frag → Frag) : (s.modCf f).mem = s.mem := rfl
@[simp] theorem State.modCf_bad (s : State) (f : Frag → Frag) : (s.modCf f).bad = s.bad := rfl
@[simp] theorem State.modCf_flight (s : State) (f : Frag → Frag) : (s.modCf f).flight = s.flight := rfl
@[simp] theorem State.modCf_homes (s : State) (f : Frag → Frag) : (s.modCf f).homes = s.homes := rfl
@[simp] theorem State.modCf_copies (s : State) (f : Frag → Frag) : (s.modCf f).copies = s.copies := rfl
@[simp] theorem State.modCf_privHeld (s : State) (f : Frag → Frag) : (s.modCf f).privHeld = s.privHeld := rfl
@[simp] theorem State.modCf_llc (s : State) (f : Frag → Frag) : (s.modCf f).llc = s.llc := rfl
@[simp] theorem State.modCf_atomLog (s : State) (f : Frag → Frag) : (s.modCf f).atomLog = s.atomLog := rfl
@[simp] theorem State.modCf_sectors (s : State) (f : Frag → Frag) : (s.modCf f).sectors = s.sectors := rfl
@[simp] theorem State.modCf_views (s : State) (f : Frag → Frag) : (s.modCf f).views = s.views := rfl
@[simp] theorem State.modCf_tlb (s : State) (f : Frag → Frag) : (s.modCf f).tlb = s.tlb := rfl
@[simp] theorem State.modCf_dir (s : State) (f : Frag → Frag) : (s.modCf f).dir = s.dir := rfl
@[simp] theorem State.modCf_bridge (s : State) (f : Frag → Frag) : (s.modCf f).bridge = s.bridge := rfl
@[simp] theorem State.modCf_hostReqs (s : State) (f : Frag → Frag) : (s.modCf f).hostReqs = s.hostReqs := rfl
@[simp] theorem State.modCf_snoops (s : State) (f : Frag → Frag) : (s.modCf f).snoops = s.snoops := rfl
@[simp] theorem State.modCf_colls (s : State) (f : Frag → Frag) : (s.modCf f).colls = s.colls := rfl
@[simp] theorem State.modCf_steals (s : State) (f : Frag → Frag) : (s.modCf f).steals = s.steals := rfl
@[simp] theorem State.modCf_scOrder (s : State) (f : Frag → Frag) : (s.modCf f).scOrder = s.scOrder := rfl
@[simp] theorem State.modCf_ports (s : State) (f : Frag → Frag) : (s.modCf f).ports = s.ports := rfl
@[simp] theorem State.modCf_links (s : State) (f : Frag → Frag) : (s.modCf f).links = s.links := rfl
@[simp] theorem State.modCf_performed (s : State) (f : Frag → Frag) : (s.modCf f).performed = s.performed := rfl
@[simp] theorem State.modCf_firewall (s : State) (f : Frag → Frag) : (s.modCf f).firewall = s.firewall := rfl
@[simp] theorem State.modCf_partitions (s : State) (f : Frag → Frag) : (s.modCf f).partitions = s.partitions := rfl
@[simp] theorem State.modCf_slices (s : State) (f : Frag → Frag) : (s.modCf f).slices = s.slices := rfl
@[simp] theorem State.modCf_pfWr (s : State) (f : Frag → Frag) : (s.modCf f).pfWr = s.pfWr := rfl
@[simp] theorem State.modCf_pfRd (s : State) (f : Frag → Frag) : (s.modCf f).pfRd = s.pfRd := rfl
@[simp] theorem State.modCf_pfHeld (s : State) (f : Frag → Frag) : (s.modCf f).pfHeld = s.pfHeld := rfl
@[simp] theorem State.modCf_msix (s : State) (f : Frag → Frag) : (s.modCf f).msix = s.msix := rfl
@[simp] theorem State.modCf_modules (s : State) (f : Frag → Frag) : (s.modCf f).modules = s.modules := rfl
@[simp] theorem State.modCf_recovery (s : State) (f : Frag → Frag) : (s.modCf f).recovery = s.recovery := rfl
@[simp] theorem State.modCf_started (s : State) (f : Frag → Frag) : (s.modCf f).started = s.started := rfl
@[simp] theorem State.modCf_keys (s : State) (f : Frag → Frag) : (s.modCf f).keys = s.keys := rfl
@[simp] theorem State.modCf_moves (s : State) (f : Frag → Frag) : (s.modCf f).moves = s.moves := rfl
@[simp] theorem State.modCf_owners (s : State) (f : Frag → Frag) : (s.modCf f).owners = s.owners := rfl
@[simp] theorem State.modCf_marked (s : State) (f : Frag → Frag) : (s.modCf f).marked = s.marked := rfl
@[simp] theorem State.modCf_ranges (s : State) (f : Frag → Frag) : (s.modCf f).ranges = s.ranges := rfl
@[simp] theorem State.modCf_windows (s : State) (f : Frag → Frag) : (s.modCf f).windows = s.windows := rfl
@[simp] theorem State.modCf_islands (s : State) (f : Frag → Frag) : (s.modCf f).islands = s.islands := rfl
@[simp] theorem State.modCf_skew (s : State) (f : Frag → Frag) : (s.modCf f).skew = s.skew := rfl
@[simp] theorem State.modCf_ceiling (s : State) (f : Frag → Frag) : (s.modCf f).ceiling = s.ceiling := rfl
@[simp] theorem State.modCf_record (s : State) (f : Frag → Frag) : (s.modCf f).record = s.record := rfl
@[simp] theorem State.modCf_binding (s : State) (f : Frag → Frag) : (s.modCf f).binding = s.binding := rfl
@[simp] theorem State.modCf_reply (s : State) (f : Frag → Frag) : (s.modCf f).reply = s.reply := rfl
@[simp] theorem State.modCf_words (s : State) (f : Frag → Frag) : (s.modCf f).words = s.words := rfl
@[simp] theorem State.modCf_listing (s : State) (f : Frag → Frag) : (s.modCf f).listing = s.listing := rfl
@[simp] theorem State.modCf_notes (s : State) (f : Frag → Frag) : (s.modCf f).notes = s.notes := rfl
@[simp] theorem State.modCf_trace (s : State) (f : Frag → Frag) : (s.modCf f).trace = s.trace := rfl
@[simp] theorem State.modCf_exchanges (s : State) (f : Frag → Frag) : (s.modCf f).exchanges = s.exchanges := rfl
@[simp] theorem State.modCg_time (s : State) (f : Gang → Gang) : (s.modCg f).time = s.time := rfl
@[simp] theorem State.modCg_pace (s : State) (f : Gang → Gang) : (s.modCg f).pace = s.pace := rfl
@[simp] theorem State.modCg_inputs (s : State) (f : Gang → Gang) : (s.modCg f).inputs = s.inputs := rfl
@[simp] theorem State.modCg_turns (s : State) (f : Gang → Gang) : (s.modCg f).turns = s.turns := rfl
@[simp] theorem State.modCg_evTurn (s : State) (f : Gang → Gang) : (s.modCg f).evTurn = s.evTurn := rfl
@[simp] theorem State.modCg_free (s : State) (f : Gang → Gang) : (s.modCg f).free = s.free := rfl
@[simp] theorem State.modCg_seq (s : State) (f : Gang → Gang) : (s.modCg f).seq = s.seq := rfl
@[simp] theorem State.modCg_cur (s : State) (f : Gang → Gang) : (s.modCg f).cur = s.cur := rfl
@[simp] theorem State.modCg_latches (s : State) (f : Gang → Gang) : (s.modCg f).latches = s.latches := rfl
@[simp] theorem State.modCg_waves (s : State) (f : Gang → Gang) : (s.modCg f).waves = s.waves := rfl
@[simp] theorem State.modCg_launches (s : State) (f : Gang → Gang) : (s.modCg f).launches = s.launches := rfl
@[simp] theorem State.modCg_vds (s : State) (f : Gang → Gang) : (s.modCg f).vds = s.vds := rfl
@[simp] theorem State.modCg_tasks (s : State) (f : Gang → Gang) : (s.modCg f).tasks = s.tasks := rfl
@[simp] theorem State.modCg_mem (s : State) (f : Gang → Gang) : (s.modCg f).mem = s.mem := rfl
@[simp] theorem State.modCg_bad (s : State) (f : Gang → Gang) : (s.modCg f).bad = s.bad := rfl
@[simp] theorem State.modCg_flight (s : State) (f : Gang → Gang) : (s.modCg f).flight = s.flight := rfl
@[simp] theorem State.modCg_homes (s : State) (f : Gang → Gang) : (s.modCg f).homes = s.homes := rfl
@[simp] theorem State.modCg_copies (s : State) (f : Gang → Gang) : (s.modCg f).copies = s.copies := rfl
@[simp] theorem State.modCg_privHeld (s : State) (f : Gang → Gang) : (s.modCg f).privHeld = s.privHeld := rfl
@[simp] theorem State.modCg_llc (s : State) (f : Gang → Gang) : (s.modCg f).llc = s.llc := rfl
@[simp] theorem State.modCg_atomLog (s : State) (f : Gang → Gang) : (s.modCg f).atomLog = s.atomLog := rfl
@[simp] theorem State.modCg_sectors (s : State) (f : Gang → Gang) : (s.modCg f).sectors = s.sectors := rfl
@[simp] theorem State.modCg_views (s : State) (f : Gang → Gang) : (s.modCg f).views = s.views := rfl
@[simp] theorem State.modCg_tlb (s : State) (f : Gang → Gang) : (s.modCg f).tlb = s.tlb := rfl
@[simp] theorem State.modCg_dir (s : State) (f : Gang → Gang) : (s.modCg f).dir = s.dir := rfl
@[simp] theorem State.modCg_bridge (s : State) (f : Gang → Gang) : (s.modCg f).bridge = s.bridge := rfl
@[simp] theorem State.modCg_hostReqs (s : State) (f : Gang → Gang) : (s.modCg f).hostReqs = s.hostReqs := rfl
@[simp] theorem State.modCg_snoops (s : State) (f : Gang → Gang) : (s.modCg f).snoops = s.snoops := rfl
@[simp] theorem State.modCg_colls (s : State) (f : Gang → Gang) : (s.modCg f).colls = s.colls := rfl
@[simp] theorem State.modCg_steals (s : State) (f : Gang → Gang) : (s.modCg f).steals = s.steals := rfl
@[simp] theorem State.modCg_scOrder (s : State) (f : Gang → Gang) : (s.modCg f).scOrder = s.scOrder := rfl
@[simp] theorem State.modCg_ports (s : State) (f : Gang → Gang) : (s.modCg f).ports = s.ports := rfl
@[simp] theorem State.modCg_links (s : State) (f : Gang → Gang) : (s.modCg f).links = s.links := rfl
@[simp] theorem State.modCg_performed (s : State) (f : Gang → Gang) : (s.modCg f).performed = s.performed := rfl
@[simp] theorem State.modCg_firewall (s : State) (f : Gang → Gang) : (s.modCg f).firewall = s.firewall := rfl
@[simp] theorem State.modCg_partitions (s : State) (f : Gang → Gang) : (s.modCg f).partitions = s.partitions := rfl
@[simp] theorem State.modCg_slices (s : State) (f : Gang → Gang) : (s.modCg f).slices = s.slices := rfl
@[simp] theorem State.modCg_pfWr (s : State) (f : Gang → Gang) : (s.modCg f).pfWr = s.pfWr := rfl
@[simp] theorem State.modCg_pfRd (s : State) (f : Gang → Gang) : (s.modCg f).pfRd = s.pfRd := rfl
@[simp] theorem State.modCg_pfHeld (s : State) (f : Gang → Gang) : (s.modCg f).pfHeld = s.pfHeld := rfl
@[simp] theorem State.modCg_msix (s : State) (f : Gang → Gang) : (s.modCg f).msix = s.msix := rfl
@[simp] theorem State.modCg_modules (s : State) (f : Gang → Gang) : (s.modCg f).modules = s.modules := rfl
@[simp] theorem State.modCg_recovery (s : State) (f : Gang → Gang) : (s.modCg f).recovery = s.recovery := rfl
@[simp] theorem State.modCg_started (s : State) (f : Gang → Gang) : (s.modCg f).started = s.started := rfl
@[simp] theorem State.modCg_keys (s : State) (f : Gang → Gang) : (s.modCg f).keys = s.keys := rfl
@[simp] theorem State.modCg_moves (s : State) (f : Gang → Gang) : (s.modCg f).moves = s.moves := rfl
@[simp] theorem State.modCg_owners (s : State) (f : Gang → Gang) : (s.modCg f).owners = s.owners := rfl
@[simp] theorem State.modCg_marked (s : State) (f : Gang → Gang) : (s.modCg f).marked = s.marked := rfl
@[simp] theorem State.modCg_ranges (s : State) (f : Gang → Gang) : (s.modCg f).ranges = s.ranges := rfl
@[simp] theorem State.modCg_windows (s : State) (f : Gang → Gang) : (s.modCg f).windows = s.windows := rfl
@[simp] theorem State.modCg_islands (s : State) (f : Gang → Gang) : (s.modCg f).islands = s.islands := rfl
@[simp] theorem State.modCg_skew (s : State) (f : Gang → Gang) : (s.modCg f).skew = s.skew := rfl
@[simp] theorem State.modCg_ceiling (s : State) (f : Gang → Gang) : (s.modCg f).ceiling = s.ceiling := rfl
@[simp] theorem State.modCg_record (s : State) (f : Gang → Gang) : (s.modCg f).record = s.record := rfl
@[simp] theorem State.modCg_binding (s : State) (f : Gang → Gang) : (s.modCg f).binding = s.binding := rfl
@[simp] theorem State.modCg_reply (s : State) (f : Gang → Gang) : (s.modCg f).reply = s.reply := rfl
@[simp] theorem State.modCg_words (s : State) (f : Gang → Gang) : (s.modCg f).words = s.words := rfl
@[simp] theorem State.modCg_listing (s : State) (f : Gang → Gang) : (s.modCg f).listing = s.listing := rfl
@[simp] theorem State.modCg_notes (s : State) (f : Gang → Gang) : (s.modCg f).notes = s.notes := rfl
@[simp] theorem State.modCg_trace (s : State) (f : Gang → Gang) : (s.modCg f).trace = s.trace := rfl
@[simp] theorem State.modCg_exchanges (s : State) (f : Gang → Gang) : (s.modCg f).exchanges = s.exchanges := rfl

/-! ## Registers, program counter, the end of a unit -/

@[simp] theorem State.modS_time (s : State) (r : Nat) (f : SReg → SReg) : (s.modS r f).time = s.time := by unfold State.modS; (repeat' split) <;> rfl
@[simp] theorem State.modS_pace (s : State) (r : Nat) (f : SReg → SReg) : (s.modS r f).pace = s.pace := by unfold State.modS; (repeat' split) <;> rfl
@[simp] theorem State.modS_inputs (s : State) (r : Nat) (f : SReg → SReg) : (s.modS r f).inputs = s.inputs := by unfold State.modS; (repeat' split) <;> rfl
@[simp] theorem State.modS_turns (s : State) (r : Nat) (f : SReg → SReg) : (s.modS r f).turns = s.turns := by unfold State.modS; (repeat' split) <;> rfl
@[simp] theorem State.modS_evTurn (s : State) (r : Nat) (f : SReg → SReg) : (s.modS r f).evTurn = s.evTurn := by unfold State.modS; (repeat' split) <;> rfl
@[simp] theorem State.modS_free (s : State) (r : Nat) (f : SReg → SReg) : (s.modS r f).free = s.free := by unfold State.modS; (repeat' split) <;> rfl
@[simp] theorem State.modS_seq (s : State) (r : Nat) (f : SReg → SReg) : (s.modS r f).seq = s.seq := by unfold State.modS; (repeat' split) <;> rfl
@[simp] theorem State.modS_cur (s : State) (r : Nat) (f : SReg → SReg) : (s.modS r f).cur = s.cur := by unfold State.modS; (repeat' split) <;> rfl
@[simp] theorem State.modS_latches (s : State) (r : Nat) (f : SReg → SReg) : (s.modS r f).latches = s.latches := by unfold State.modS; (repeat' split) <;> rfl
@[simp] theorem State.modS_gangs (s : State) (r : Nat) (f : SReg → SReg) : (s.modS r f).gangs = s.gangs := by unfold State.modS; (repeat' split) <;> rfl
@[simp] theorem State.modS_launches (s : State) (r : Nat) (f : SReg → SReg) : (s.modS r f).launches = s.launches := by unfold State.modS; (repeat' split) <;> rfl
@[simp] theorem State.modS_vds (s : State) (r : Nat) (f : SReg → SReg) : (s.modS r f).vds = s.vds := by unfold State.modS; (repeat' split) <;> rfl
@[simp] theorem State.modS_tasks (s : State) (r : Nat) (f : SReg → SReg) : (s.modS r f).tasks = s.tasks := by unfold State.modS; (repeat' split) <;> rfl
@[simp] theorem State.modS_mem (s : State) (r : Nat) (f : SReg → SReg) : (s.modS r f).mem = s.mem := by unfold State.modS; (repeat' split) <;> rfl
@[simp] theorem State.modS_bad (s : State) (r : Nat) (f : SReg → SReg) : (s.modS r f).bad = s.bad := by unfold State.modS; (repeat' split) <;> rfl
@[simp] theorem State.modS_flight (s : State) (r : Nat) (f : SReg → SReg) : (s.modS r f).flight = s.flight := by unfold State.modS; (repeat' split) <;> rfl
@[simp] theorem State.modS_homes (s : State) (r : Nat) (f : SReg → SReg) : (s.modS r f).homes = s.homes := by unfold State.modS; (repeat' split) <;> rfl
@[simp] theorem State.modS_copies (s : State) (r : Nat) (f : SReg → SReg) : (s.modS r f).copies = s.copies := by unfold State.modS; (repeat' split) <;> rfl
@[simp] theorem State.modS_privHeld (s : State) (r : Nat) (f : SReg → SReg) : (s.modS r f).privHeld = s.privHeld := by unfold State.modS; (repeat' split) <;> rfl
@[simp] theorem State.modS_llc (s : State) (r : Nat) (f : SReg → SReg) : (s.modS r f).llc = s.llc := by unfold State.modS; (repeat' split) <;> rfl
@[simp] theorem State.modS_atomLog (s : State) (r : Nat) (f : SReg → SReg) : (s.modS r f).atomLog = s.atomLog := by unfold State.modS; (repeat' split) <;> rfl
@[simp] theorem State.modS_sectors (s : State) (r : Nat) (f : SReg → SReg) : (s.modS r f).sectors = s.sectors := by unfold State.modS; (repeat' split) <;> rfl
@[simp] theorem State.modS_views (s : State) (r : Nat) (f : SReg → SReg) : (s.modS r f).views = s.views := by unfold State.modS; (repeat' split) <;> rfl
@[simp] theorem State.modS_tlb (s : State) (r : Nat) (f : SReg → SReg) : (s.modS r f).tlb = s.tlb := by unfold State.modS; (repeat' split) <;> rfl
@[simp] theorem State.modS_dir (s : State) (r : Nat) (f : SReg → SReg) : (s.modS r f).dir = s.dir := by unfold State.modS; (repeat' split) <;> rfl
@[simp] theorem State.modS_bridge (s : State) (r : Nat) (f : SReg → SReg) : (s.modS r f).bridge = s.bridge := by unfold State.modS; (repeat' split) <;> rfl
@[simp] theorem State.modS_hostReqs (s : State) (r : Nat) (f : SReg → SReg) : (s.modS r f).hostReqs = s.hostReqs := by unfold State.modS; (repeat' split) <;> rfl
@[simp] theorem State.modS_snoops (s : State) (r : Nat) (f : SReg → SReg) : (s.modS r f).snoops = s.snoops := by unfold State.modS; (repeat' split) <;> rfl
@[simp] theorem State.modS_colls (s : State) (r : Nat) (f : SReg → SReg) : (s.modS r f).colls = s.colls := by unfold State.modS; (repeat' split) <;> rfl
@[simp] theorem State.modS_steals (s : State) (r : Nat) (f : SReg → SReg) : (s.modS r f).steals = s.steals := by unfold State.modS; (repeat' split) <;> rfl
@[simp] theorem State.modS_scOrder (s : State) (r : Nat) (f : SReg → SReg) : (s.modS r f).scOrder = s.scOrder := by unfold State.modS; (repeat' split) <;> rfl
@[simp] theorem State.modS_ports (s : State) (r : Nat) (f : SReg → SReg) : (s.modS r f).ports = s.ports := by unfold State.modS; (repeat' split) <;> rfl
@[simp] theorem State.modS_links (s : State) (r : Nat) (f : SReg → SReg) : (s.modS r f).links = s.links := by unfold State.modS; (repeat' split) <;> rfl
@[simp] theorem State.modS_performed (s : State) (r : Nat) (f : SReg → SReg) : (s.modS r f).performed = s.performed := by unfold State.modS; (repeat' split) <;> rfl
@[simp] theorem State.modS_firewall (s : State) (r : Nat) (f : SReg → SReg) : (s.modS r f).firewall = s.firewall := by unfold State.modS; (repeat' split) <;> rfl
@[simp] theorem State.modS_partitions (s : State) (r : Nat) (f : SReg → SReg) : (s.modS r f).partitions = s.partitions := by unfold State.modS; (repeat' split) <;> rfl
@[simp] theorem State.modS_slices (s : State) (r : Nat) (f : SReg → SReg) : (s.modS r f).slices = s.slices := by unfold State.modS; (repeat' split) <;> rfl
@[simp] theorem State.modS_pfWr (s : State) (r : Nat) (f : SReg → SReg) : (s.modS r f).pfWr = s.pfWr := by unfold State.modS; (repeat' split) <;> rfl
@[simp] theorem State.modS_pfRd (s : State) (r : Nat) (f : SReg → SReg) : (s.modS r f).pfRd = s.pfRd := by unfold State.modS; (repeat' split) <;> rfl
@[simp] theorem State.modS_pfHeld (s : State) (r : Nat) (f : SReg → SReg) : (s.modS r f).pfHeld = s.pfHeld := by unfold State.modS; (repeat' split) <;> rfl
@[simp] theorem State.modS_msix (s : State) (r : Nat) (f : SReg → SReg) : (s.modS r f).msix = s.msix := by unfold State.modS; (repeat' split) <;> rfl
@[simp] theorem State.modS_modules (s : State) (r : Nat) (f : SReg → SReg) : (s.modS r f).modules = s.modules := by unfold State.modS; (repeat' split) <;> rfl
@[simp] theorem State.modS_recovery (s : State) (r : Nat) (f : SReg → SReg) : (s.modS r f).recovery = s.recovery := by unfold State.modS; (repeat' split) <;> rfl
@[simp] theorem State.modS_started (s : State) (r : Nat) (f : SReg → SReg) : (s.modS r f).started = s.started := by unfold State.modS; (repeat' split) <;> rfl
@[simp] theorem State.modS_keys (s : State) (r : Nat) (f : SReg → SReg) : (s.modS r f).keys = s.keys := by unfold State.modS; (repeat' split) <;> rfl
@[simp] theorem State.modS_moves (s : State) (r : Nat) (f : SReg → SReg) : (s.modS r f).moves = s.moves := by unfold State.modS; (repeat' split) <;> rfl
@[simp] theorem State.modS_owners (s : State) (r : Nat) (f : SReg → SReg) : (s.modS r f).owners = s.owners := by unfold State.modS; (repeat' split) <;> rfl
@[simp] theorem State.modS_marked (s : State) (r : Nat) (f : SReg → SReg) : (s.modS r f).marked = s.marked := by unfold State.modS; (repeat' split) <;> rfl
@[simp] theorem State.modS_ranges (s : State) (r : Nat) (f : SReg → SReg) : (s.modS r f).ranges = s.ranges := by unfold State.modS; (repeat' split) <;> rfl
@[simp] theorem State.modS_windows (s : State) (r : Nat) (f : SReg → SReg) : (s.modS r f).windows = s.windows := by unfold State.modS; (repeat' split) <;> rfl
@[simp] theorem State.modS_islands (s : State) (r : Nat) (f : SReg → SReg) : (s.modS r f).islands = s.islands := by unfold State.modS; (repeat' split) <;> rfl
@[simp] theorem State.modS_skew (s : State) (r : Nat) (f : SReg → SReg) : (s.modS r f).skew = s.skew := by unfold State.modS; (repeat' split) <;> rfl
@[simp] theorem State.modS_ceiling (s : State) (r : Nat) (f : SReg → SReg) : (s.modS r f).ceiling = s.ceiling := by unfold State.modS; (repeat' split) <;> rfl
@[simp] theorem State.modS_record (s : State) (r : Nat) (f : SReg → SReg) : (s.modS r f).record = s.record := by unfold State.modS; (repeat' split) <;> rfl
@[simp] theorem State.modS_binding (s : State) (r : Nat) (f : SReg → SReg) : (s.modS r f).binding = s.binding := by unfold State.modS; (repeat' split) <;> rfl
@[simp] theorem State.modS_reply (s : State) (r : Nat) (f : SReg → SReg) : (s.modS r f).reply = s.reply := by unfold State.modS; (repeat' split) <;> rfl
@[simp] theorem State.modS_words (s : State) (r : Nat) (f : SReg → SReg) : (s.modS r f).words = s.words := by unfold State.modS; (repeat' split) <;> rfl
@[simp] theorem State.modS_listing (s : State) (r : Nat) (f : SReg → SReg) : (s.modS r f).listing = s.listing := by unfold State.modS; (repeat' split) <;> rfl
@[simp] theorem State.modS_notes (s : State) (r : Nat) (f : SReg → SReg) : (s.modS r f).notes = s.notes := by unfold State.modS; (repeat' split) <;> rfl
@[simp] theorem State.modS_trace (s : State) (r : Nat) (f : SReg → SReg) : (s.modS r f).trace = s.trace := by unfold State.modS; (repeat' split) <;> rfl
@[simp] theorem State.modS_exchanges (s : State) (r : Nat) (f : SReg → SReg) : (s.modS r f).exchanges = s.exchanges := by unfold State.modS; (repeat' split) <;> rfl
@[simp] theorem State.writeS_time (s : State) (r : Nat) (v : DWord) (t : Byte) : (s.writeS r v t).time = s.time := by simp [State.writeS]
@[simp] theorem State.writeS_pace (s : State) (r : Nat) (v : DWord) (t : Byte) : (s.writeS r v t).pace = s.pace := by simp [State.writeS]
@[simp] theorem State.writeS_inputs (s : State) (r : Nat) (v : DWord) (t : Byte) : (s.writeS r v t).inputs = s.inputs := by simp [State.writeS]
@[simp] theorem State.writeS_turns (s : State) (r : Nat) (v : DWord) (t : Byte) : (s.writeS r v t).turns = s.turns := by simp [State.writeS]
@[simp] theorem State.writeS_evTurn (s : State) (r : Nat) (v : DWord) (t : Byte) : (s.writeS r v t).evTurn = s.evTurn := by simp [State.writeS]
@[simp] theorem State.writeS_free (s : State) (r : Nat) (v : DWord) (t : Byte) : (s.writeS r v t).free = s.free := by simp [State.writeS]
@[simp] theorem State.writeS_seq (s : State) (r : Nat) (v : DWord) (t : Byte) : (s.writeS r v t).seq = s.seq := by simp [State.writeS]
@[simp] theorem State.writeS_cur (s : State) (r : Nat) (v : DWord) (t : Byte) : (s.writeS r v t).cur = s.cur := by simp [State.writeS]
@[simp] theorem State.writeS_latches (s : State) (r : Nat) (v : DWord) (t : Byte) : (s.writeS r v t).latches = s.latches := by simp [State.writeS]
@[simp] theorem State.writeS_gangs (s : State) (r : Nat) (v : DWord) (t : Byte) : (s.writeS r v t).gangs = s.gangs := by simp [State.writeS]
@[simp] theorem State.writeS_launches (s : State) (r : Nat) (v : DWord) (t : Byte) : (s.writeS r v t).launches = s.launches := by simp [State.writeS]
@[simp] theorem State.writeS_vds (s : State) (r : Nat) (v : DWord) (t : Byte) : (s.writeS r v t).vds = s.vds := by simp [State.writeS]
@[simp] theorem State.writeS_tasks (s : State) (r : Nat) (v : DWord) (t : Byte) : (s.writeS r v t).tasks = s.tasks := by simp [State.writeS]
@[simp] theorem State.writeS_mem (s : State) (r : Nat) (v : DWord) (t : Byte) : (s.writeS r v t).mem = s.mem := by simp [State.writeS]
@[simp] theorem State.writeS_bad (s : State) (r : Nat) (v : DWord) (t : Byte) : (s.writeS r v t).bad = s.bad := by simp [State.writeS]
@[simp] theorem State.writeS_flight (s : State) (r : Nat) (v : DWord) (t : Byte) : (s.writeS r v t).flight = s.flight := by simp [State.writeS]
@[simp] theorem State.writeS_homes (s : State) (r : Nat) (v : DWord) (t : Byte) : (s.writeS r v t).homes = s.homes := by simp [State.writeS]
@[simp] theorem State.writeS_copies (s : State) (r : Nat) (v : DWord) (t : Byte) : (s.writeS r v t).copies = s.copies := by simp [State.writeS]
@[simp] theorem State.writeS_privHeld (s : State) (r : Nat) (v : DWord) (t : Byte) : (s.writeS r v t).privHeld = s.privHeld := by simp [State.writeS]
@[simp] theorem State.writeS_llc (s : State) (r : Nat) (v : DWord) (t : Byte) : (s.writeS r v t).llc = s.llc := by simp [State.writeS]
@[simp] theorem State.writeS_atomLog (s : State) (r : Nat) (v : DWord) (t : Byte) : (s.writeS r v t).atomLog = s.atomLog := by simp [State.writeS]
@[simp] theorem State.writeS_sectors (s : State) (r : Nat) (v : DWord) (t : Byte) : (s.writeS r v t).sectors = s.sectors := by simp [State.writeS]
@[simp] theorem State.writeS_views (s : State) (r : Nat) (v : DWord) (t : Byte) : (s.writeS r v t).views = s.views := by simp [State.writeS]
@[simp] theorem State.writeS_tlb (s : State) (r : Nat) (v : DWord) (t : Byte) : (s.writeS r v t).tlb = s.tlb := by simp [State.writeS]
@[simp] theorem State.writeS_dir (s : State) (r : Nat) (v : DWord) (t : Byte) : (s.writeS r v t).dir = s.dir := by simp [State.writeS]
@[simp] theorem State.writeS_bridge (s : State) (r : Nat) (v : DWord) (t : Byte) : (s.writeS r v t).bridge = s.bridge := by simp [State.writeS]
@[simp] theorem State.writeS_hostReqs (s : State) (r : Nat) (v : DWord) (t : Byte) : (s.writeS r v t).hostReqs = s.hostReqs := by simp [State.writeS]
@[simp] theorem State.writeS_snoops (s : State) (r : Nat) (v : DWord) (t : Byte) : (s.writeS r v t).snoops = s.snoops := by simp [State.writeS]
@[simp] theorem State.writeS_colls (s : State) (r : Nat) (v : DWord) (t : Byte) : (s.writeS r v t).colls = s.colls := by simp [State.writeS]
@[simp] theorem State.writeS_steals (s : State) (r : Nat) (v : DWord) (t : Byte) : (s.writeS r v t).steals = s.steals := by simp [State.writeS]
@[simp] theorem State.writeS_scOrder (s : State) (r : Nat) (v : DWord) (t : Byte) : (s.writeS r v t).scOrder = s.scOrder := by simp [State.writeS]
@[simp] theorem State.writeS_ports (s : State) (r : Nat) (v : DWord) (t : Byte) : (s.writeS r v t).ports = s.ports := by simp [State.writeS]
@[simp] theorem State.writeS_links (s : State) (r : Nat) (v : DWord) (t : Byte) : (s.writeS r v t).links = s.links := by simp [State.writeS]
@[simp] theorem State.writeS_performed (s : State) (r : Nat) (v : DWord) (t : Byte) : (s.writeS r v t).performed = s.performed := by simp [State.writeS]
@[simp] theorem State.writeS_firewall (s : State) (r : Nat) (v : DWord) (t : Byte) : (s.writeS r v t).firewall = s.firewall := by simp [State.writeS]
@[simp] theorem State.writeS_partitions (s : State) (r : Nat) (v : DWord) (t : Byte) : (s.writeS r v t).partitions = s.partitions := by simp [State.writeS]
@[simp] theorem State.writeS_slices (s : State) (r : Nat) (v : DWord) (t : Byte) : (s.writeS r v t).slices = s.slices := by simp [State.writeS]
@[simp] theorem State.writeS_pfWr (s : State) (r : Nat) (v : DWord) (t : Byte) : (s.writeS r v t).pfWr = s.pfWr := by simp [State.writeS]
@[simp] theorem State.writeS_pfRd (s : State) (r : Nat) (v : DWord) (t : Byte) : (s.writeS r v t).pfRd = s.pfRd := by simp [State.writeS]
@[simp] theorem State.writeS_pfHeld (s : State) (r : Nat) (v : DWord) (t : Byte) : (s.writeS r v t).pfHeld = s.pfHeld := by simp [State.writeS]
@[simp] theorem State.writeS_msix (s : State) (r : Nat) (v : DWord) (t : Byte) : (s.writeS r v t).msix = s.msix := by simp [State.writeS]
@[simp] theorem State.writeS_modules (s : State) (r : Nat) (v : DWord) (t : Byte) : (s.writeS r v t).modules = s.modules := by simp [State.writeS]
@[simp] theorem State.writeS_recovery (s : State) (r : Nat) (v : DWord) (t : Byte) : (s.writeS r v t).recovery = s.recovery := by simp [State.writeS]
@[simp] theorem State.writeS_started (s : State) (r : Nat) (v : DWord) (t : Byte) : (s.writeS r v t).started = s.started := by simp [State.writeS]
@[simp] theorem State.writeS_keys (s : State) (r : Nat) (v : DWord) (t : Byte) : (s.writeS r v t).keys = s.keys := by simp [State.writeS]
@[simp] theorem State.writeS_moves (s : State) (r : Nat) (v : DWord) (t : Byte) : (s.writeS r v t).moves = s.moves := by simp [State.writeS]
@[simp] theorem State.writeS_owners (s : State) (r : Nat) (v : DWord) (t : Byte) : (s.writeS r v t).owners = s.owners := by simp [State.writeS]
@[simp] theorem State.writeS_marked (s : State) (r : Nat) (v : DWord) (t : Byte) : (s.writeS r v t).marked = s.marked := by simp [State.writeS]
@[simp] theorem State.writeS_ranges (s : State) (r : Nat) (v : DWord) (t : Byte) : (s.writeS r v t).ranges = s.ranges := by simp [State.writeS]
@[simp] theorem State.writeS_windows (s : State) (r : Nat) (v : DWord) (t : Byte) : (s.writeS r v t).windows = s.windows := by simp [State.writeS]
@[simp] theorem State.writeS_islands (s : State) (r : Nat) (v : DWord) (t : Byte) : (s.writeS r v t).islands = s.islands := by simp [State.writeS]
@[simp] theorem State.writeS_skew (s : State) (r : Nat) (v : DWord) (t : Byte) : (s.writeS r v t).skew = s.skew := by simp [State.writeS]
@[simp] theorem State.writeS_ceiling (s : State) (r : Nat) (v : DWord) (t : Byte) : (s.writeS r v t).ceiling = s.ceiling := by simp [State.writeS]
@[simp] theorem State.writeS_record (s : State) (r : Nat) (v : DWord) (t : Byte) : (s.writeS r v t).record = s.record := by simp [State.writeS]
@[simp] theorem State.writeS_binding (s : State) (r : Nat) (v : DWord) (t : Byte) : (s.writeS r v t).binding = s.binding := by simp [State.writeS]
@[simp] theorem State.writeS_reply (s : State) (r : Nat) (v : DWord) (t : Byte) : (s.writeS r v t).reply = s.reply := by simp [State.writeS]
@[simp] theorem State.writeS_words (s : State) (r : Nat) (v : DWord) (t : Byte) : (s.writeS r v t).words = s.words := by simp [State.writeS]
@[simp] theorem State.writeS_listing (s : State) (r : Nat) (v : DWord) (t : Byte) : (s.writeS r v t).listing = s.listing := by simp [State.writeS]
@[simp] theorem State.writeS_notes (s : State) (r : Nat) (v : DWord) (t : Byte) : (s.writeS r v t).notes = s.notes := by simp [State.writeS]
@[simp] theorem State.writeS_trace (s : State) (r : Nat) (v : DWord) (t : Byte) : (s.writeS r v t).trace = s.trace := by simp [State.writeS]
@[simp] theorem State.writeS_exchanges (s : State) (r : Nat) (v : DWord) (t : Byte) : (s.writeS r v t).exchanges = s.exchanges := by simp [State.writeS]
@[simp] theorem State.modV_time (s : State) (r : Nat) (f : VReg → VReg) : (s.modV r f).time = s.time := by unfold State.modV; split <;> rfl
@[simp] theorem State.modV_pace (s : State) (r : Nat) (f : VReg → VReg) : (s.modV r f).pace = s.pace := by unfold State.modV; split <;> rfl
@[simp] theorem State.modV_inputs (s : State) (r : Nat) (f : VReg → VReg) : (s.modV r f).inputs = s.inputs := by unfold State.modV; split <;> rfl
@[simp] theorem State.modV_turns (s : State) (r : Nat) (f : VReg → VReg) : (s.modV r f).turns = s.turns := by unfold State.modV; split <;> rfl
@[simp] theorem State.modV_evTurn (s : State) (r : Nat) (f : VReg → VReg) : (s.modV r f).evTurn = s.evTurn := by unfold State.modV; split <;> rfl
@[simp] theorem State.modV_free (s : State) (r : Nat) (f : VReg → VReg) : (s.modV r f).free = s.free := by unfold State.modV; split <;> rfl
@[simp] theorem State.modV_seq (s : State) (r : Nat) (f : VReg → VReg) : (s.modV r f).seq = s.seq := by unfold State.modV; split <;> rfl
@[simp] theorem State.modV_cur (s : State) (r : Nat) (f : VReg → VReg) : (s.modV r f).cur = s.cur := by unfold State.modV; split <;> rfl
@[simp] theorem State.modV_latches (s : State) (r : Nat) (f : VReg → VReg) : (s.modV r f).latches = s.latches := by unfold State.modV; split <;> rfl
@[simp] theorem State.modV_gangs (s : State) (r : Nat) (f : VReg → VReg) : (s.modV r f).gangs = s.gangs := by unfold State.modV; split <;> rfl
@[simp] theorem State.modV_launches (s : State) (r : Nat) (f : VReg → VReg) : (s.modV r f).launches = s.launches := by unfold State.modV; split <;> rfl
@[simp] theorem State.modV_vds (s : State) (r : Nat) (f : VReg → VReg) : (s.modV r f).vds = s.vds := by unfold State.modV; split <;> rfl
@[simp] theorem State.modV_tasks (s : State) (r : Nat) (f : VReg → VReg) : (s.modV r f).tasks = s.tasks := by unfold State.modV; split <;> rfl
@[simp] theorem State.modV_mem (s : State) (r : Nat) (f : VReg → VReg) : (s.modV r f).mem = s.mem := by unfold State.modV; split <;> rfl
@[simp] theorem State.modV_bad (s : State) (r : Nat) (f : VReg → VReg) : (s.modV r f).bad = s.bad := by unfold State.modV; split <;> rfl
@[simp] theorem State.modV_flight (s : State) (r : Nat) (f : VReg → VReg) : (s.modV r f).flight = s.flight := by unfold State.modV; split <;> rfl
@[simp] theorem State.modV_homes (s : State) (r : Nat) (f : VReg → VReg) : (s.modV r f).homes = s.homes := by unfold State.modV; split <;> rfl
@[simp] theorem State.modV_copies (s : State) (r : Nat) (f : VReg → VReg) : (s.modV r f).copies = s.copies := by unfold State.modV; split <;> rfl
@[simp] theorem State.modV_privHeld (s : State) (r : Nat) (f : VReg → VReg) : (s.modV r f).privHeld = s.privHeld := by unfold State.modV; split <;> rfl
@[simp] theorem State.modV_llc (s : State) (r : Nat) (f : VReg → VReg) : (s.modV r f).llc = s.llc := by unfold State.modV; split <;> rfl
@[simp] theorem State.modV_atomLog (s : State) (r : Nat) (f : VReg → VReg) : (s.modV r f).atomLog = s.atomLog := by unfold State.modV; split <;> rfl
@[simp] theorem State.modV_sectors (s : State) (r : Nat) (f : VReg → VReg) : (s.modV r f).sectors = s.sectors := by unfold State.modV; split <;> rfl
@[simp] theorem State.modV_views (s : State) (r : Nat) (f : VReg → VReg) : (s.modV r f).views = s.views := by unfold State.modV; split <;> rfl
@[simp] theorem State.modV_tlb (s : State) (r : Nat) (f : VReg → VReg) : (s.modV r f).tlb = s.tlb := by unfold State.modV; split <;> rfl
@[simp] theorem State.modV_dir (s : State) (r : Nat) (f : VReg → VReg) : (s.modV r f).dir = s.dir := by unfold State.modV; split <;> rfl
@[simp] theorem State.modV_bridge (s : State) (r : Nat) (f : VReg → VReg) : (s.modV r f).bridge = s.bridge := by unfold State.modV; split <;> rfl
@[simp] theorem State.modV_hostReqs (s : State) (r : Nat) (f : VReg → VReg) : (s.modV r f).hostReqs = s.hostReqs := by unfold State.modV; split <;> rfl
@[simp] theorem State.modV_snoops (s : State) (r : Nat) (f : VReg → VReg) : (s.modV r f).snoops = s.snoops := by unfold State.modV; split <;> rfl
@[simp] theorem State.modV_colls (s : State) (r : Nat) (f : VReg → VReg) : (s.modV r f).colls = s.colls := by unfold State.modV; split <;> rfl
@[simp] theorem State.modV_steals (s : State) (r : Nat) (f : VReg → VReg) : (s.modV r f).steals = s.steals := by unfold State.modV; split <;> rfl
@[simp] theorem State.modV_scOrder (s : State) (r : Nat) (f : VReg → VReg) : (s.modV r f).scOrder = s.scOrder := by unfold State.modV; split <;> rfl
@[simp] theorem State.modV_ports (s : State) (r : Nat) (f : VReg → VReg) : (s.modV r f).ports = s.ports := by unfold State.modV; split <;> rfl
@[simp] theorem State.modV_links (s : State) (r : Nat) (f : VReg → VReg) : (s.modV r f).links = s.links := by unfold State.modV; split <;> rfl
@[simp] theorem State.modV_performed (s : State) (r : Nat) (f : VReg → VReg) : (s.modV r f).performed = s.performed := by unfold State.modV; split <;> rfl
@[simp] theorem State.modV_firewall (s : State) (r : Nat) (f : VReg → VReg) : (s.modV r f).firewall = s.firewall := by unfold State.modV; split <;> rfl
@[simp] theorem State.modV_partitions (s : State) (r : Nat) (f : VReg → VReg) : (s.modV r f).partitions = s.partitions := by unfold State.modV; split <;> rfl
@[simp] theorem State.modV_slices (s : State) (r : Nat) (f : VReg → VReg) : (s.modV r f).slices = s.slices := by unfold State.modV; split <;> rfl
@[simp] theorem State.modV_pfWr (s : State) (r : Nat) (f : VReg → VReg) : (s.modV r f).pfWr = s.pfWr := by unfold State.modV; split <;> rfl
@[simp] theorem State.modV_pfRd (s : State) (r : Nat) (f : VReg → VReg) : (s.modV r f).pfRd = s.pfRd := by unfold State.modV; split <;> rfl
@[simp] theorem State.modV_pfHeld (s : State) (r : Nat) (f : VReg → VReg) : (s.modV r f).pfHeld = s.pfHeld := by unfold State.modV; split <;> rfl
@[simp] theorem State.modV_msix (s : State) (r : Nat) (f : VReg → VReg) : (s.modV r f).msix = s.msix := by unfold State.modV; split <;> rfl
@[simp] theorem State.modV_modules (s : State) (r : Nat) (f : VReg → VReg) : (s.modV r f).modules = s.modules := by unfold State.modV; split <;> rfl
@[simp] theorem State.modV_recovery (s : State) (r : Nat) (f : VReg → VReg) : (s.modV r f).recovery = s.recovery := by unfold State.modV; split <;> rfl
@[simp] theorem State.modV_started (s : State) (r : Nat) (f : VReg → VReg) : (s.modV r f).started = s.started := by unfold State.modV; split <;> rfl
@[simp] theorem State.modV_keys (s : State) (r : Nat) (f : VReg → VReg) : (s.modV r f).keys = s.keys := by unfold State.modV; split <;> rfl
@[simp] theorem State.modV_moves (s : State) (r : Nat) (f : VReg → VReg) : (s.modV r f).moves = s.moves := by unfold State.modV; split <;> rfl
@[simp] theorem State.modV_owners (s : State) (r : Nat) (f : VReg → VReg) : (s.modV r f).owners = s.owners := by unfold State.modV; split <;> rfl
@[simp] theorem State.modV_marked (s : State) (r : Nat) (f : VReg → VReg) : (s.modV r f).marked = s.marked := by unfold State.modV; split <;> rfl
@[simp] theorem State.modV_ranges (s : State) (r : Nat) (f : VReg → VReg) : (s.modV r f).ranges = s.ranges := by unfold State.modV; split <;> rfl
@[simp] theorem State.modV_windows (s : State) (r : Nat) (f : VReg → VReg) : (s.modV r f).windows = s.windows := by unfold State.modV; split <;> rfl
@[simp] theorem State.modV_islands (s : State) (r : Nat) (f : VReg → VReg) : (s.modV r f).islands = s.islands := by unfold State.modV; split <;> rfl
@[simp] theorem State.modV_skew (s : State) (r : Nat) (f : VReg → VReg) : (s.modV r f).skew = s.skew := by unfold State.modV; split <;> rfl
@[simp] theorem State.modV_ceiling (s : State) (r : Nat) (f : VReg → VReg) : (s.modV r f).ceiling = s.ceiling := by unfold State.modV; split <;> rfl
@[simp] theorem State.modV_record (s : State) (r : Nat) (f : VReg → VReg) : (s.modV r f).record = s.record := by unfold State.modV; split <;> rfl
@[simp] theorem State.modV_binding (s : State) (r : Nat) (f : VReg → VReg) : (s.modV r f).binding = s.binding := by unfold State.modV; split <;> rfl
@[simp] theorem State.modV_reply (s : State) (r : Nat) (f : VReg → VReg) : (s.modV r f).reply = s.reply := by unfold State.modV; split <;> rfl
@[simp] theorem State.modV_words (s : State) (r : Nat) (f : VReg → VReg) : (s.modV r f).words = s.words := by unfold State.modV; split <;> rfl
@[simp] theorem State.modV_listing (s : State) (r : Nat) (f : VReg → VReg) : (s.modV r f).listing = s.listing := by unfold State.modV; split <;> rfl
@[simp] theorem State.modV_notes (s : State) (r : Nat) (f : VReg → VReg) : (s.modV r f).notes = s.notes := by unfold State.modV; split <;> rfl
@[simp] theorem State.modV_trace (s : State) (r : Nat) (f : VReg → VReg) : (s.modV r f).trace = s.trace := by unfold State.modV; split <;> rfl
@[simp] theorem State.modV_exchanges (s : State) (r : Nat) (f : VReg → VReg) : (s.modV r f).exchanges = s.exchanges := by unfold State.modV; split <;> rfl
@[simp] theorem State.setPc_time (s : State) (pc : DWord) : (s.setPc pc).time = s.time := by unfold State.setPc; split <;> rfl
@[simp] theorem State.setPc_pace (s : State) (pc : DWord) : (s.setPc pc).pace = s.pace := by unfold State.setPc; split <;> rfl
@[simp] theorem State.setPc_inputs (s : State) (pc : DWord) : (s.setPc pc).inputs = s.inputs := by unfold State.setPc; split <;> rfl
@[simp] theorem State.setPc_turns (s : State) (pc : DWord) : (s.setPc pc).turns = s.turns := by unfold State.setPc; split <;> rfl
@[simp] theorem State.setPc_evTurn (s : State) (pc : DWord) : (s.setPc pc).evTurn = s.evTurn := by unfold State.setPc; split <;> rfl
@[simp] theorem State.setPc_free (s : State) (pc : DWord) : (s.setPc pc).free = s.free := by unfold State.setPc; split <;> rfl
@[simp] theorem State.setPc_seq (s : State) (pc : DWord) : (s.setPc pc).seq = s.seq := by unfold State.setPc; split <;> rfl
@[simp] theorem State.setPc_cur (s : State) (pc : DWord) : (s.setPc pc).cur = s.cur := by unfold State.setPc; split <;> rfl
@[simp] theorem State.setPc_latches (s : State) (pc : DWord) : (s.setPc pc).latches = s.latches := by unfold State.setPc; split <;> rfl
@[simp] theorem State.setPc_gangs (s : State) (pc : DWord) : (s.setPc pc).gangs = s.gangs := by unfold State.setPc; split <;> rfl
@[simp] theorem State.setPc_launches (s : State) (pc : DWord) : (s.setPc pc).launches = s.launches := by unfold State.setPc; split <;> rfl
@[simp] theorem State.setPc_vds (s : State) (pc : DWord) : (s.setPc pc).vds = s.vds := by unfold State.setPc; split <;> rfl
@[simp] theorem State.setPc_tasks (s : State) (pc : DWord) : (s.setPc pc).tasks = s.tasks := by unfold State.setPc; split <;> rfl
@[simp] theorem State.setPc_mem (s : State) (pc : DWord) : (s.setPc pc).mem = s.mem := by unfold State.setPc; split <;> rfl
@[simp] theorem State.setPc_bad (s : State) (pc : DWord) : (s.setPc pc).bad = s.bad := by unfold State.setPc; split <;> rfl
@[simp] theorem State.setPc_flight (s : State) (pc : DWord) : (s.setPc pc).flight = s.flight := by unfold State.setPc; split <;> rfl
@[simp] theorem State.setPc_homes (s : State) (pc : DWord) : (s.setPc pc).homes = s.homes := by unfold State.setPc; split <;> rfl
@[simp] theorem State.setPc_copies (s : State) (pc : DWord) : (s.setPc pc).copies = s.copies := by unfold State.setPc; split <;> rfl
@[simp] theorem State.setPc_privHeld (s : State) (pc : DWord) : (s.setPc pc).privHeld = s.privHeld := by unfold State.setPc; split <;> rfl
@[simp] theorem State.setPc_llc (s : State) (pc : DWord) : (s.setPc pc).llc = s.llc := by unfold State.setPc; split <;> rfl
@[simp] theorem State.setPc_atomLog (s : State) (pc : DWord) : (s.setPc pc).atomLog = s.atomLog := by unfold State.setPc; split <;> rfl
@[simp] theorem State.setPc_sectors (s : State) (pc : DWord) : (s.setPc pc).sectors = s.sectors := by unfold State.setPc; split <;> rfl
@[simp] theorem State.setPc_views (s : State) (pc : DWord) : (s.setPc pc).views = s.views := by unfold State.setPc; split <;> rfl
@[simp] theorem State.setPc_tlb (s : State) (pc : DWord) : (s.setPc pc).tlb = s.tlb := by unfold State.setPc; split <;> rfl
@[simp] theorem State.setPc_dir (s : State) (pc : DWord) : (s.setPc pc).dir = s.dir := by unfold State.setPc; split <;> rfl
@[simp] theorem State.setPc_bridge (s : State) (pc : DWord) : (s.setPc pc).bridge = s.bridge := by unfold State.setPc; split <;> rfl
@[simp] theorem State.setPc_hostReqs (s : State) (pc : DWord) : (s.setPc pc).hostReqs = s.hostReqs := by unfold State.setPc; split <;> rfl
@[simp] theorem State.setPc_snoops (s : State) (pc : DWord) : (s.setPc pc).snoops = s.snoops := by unfold State.setPc; split <;> rfl
@[simp] theorem State.setPc_colls (s : State) (pc : DWord) : (s.setPc pc).colls = s.colls := by unfold State.setPc; split <;> rfl
@[simp] theorem State.setPc_steals (s : State) (pc : DWord) : (s.setPc pc).steals = s.steals := by unfold State.setPc; split <;> rfl
@[simp] theorem State.setPc_scOrder (s : State) (pc : DWord) : (s.setPc pc).scOrder = s.scOrder := by unfold State.setPc; split <;> rfl
@[simp] theorem State.setPc_ports (s : State) (pc : DWord) : (s.setPc pc).ports = s.ports := by unfold State.setPc; split <;> rfl
@[simp] theorem State.setPc_links (s : State) (pc : DWord) : (s.setPc pc).links = s.links := by unfold State.setPc; split <;> rfl
@[simp] theorem State.setPc_performed (s : State) (pc : DWord) : (s.setPc pc).performed = s.performed := by unfold State.setPc; split <;> rfl
@[simp] theorem State.setPc_firewall (s : State) (pc : DWord) : (s.setPc pc).firewall = s.firewall := by unfold State.setPc; split <;> rfl
@[simp] theorem State.setPc_partitions (s : State) (pc : DWord) : (s.setPc pc).partitions = s.partitions := by unfold State.setPc; split <;> rfl
@[simp] theorem State.setPc_slices (s : State) (pc : DWord) : (s.setPc pc).slices = s.slices := by unfold State.setPc; split <;> rfl
@[simp] theorem State.setPc_pfWr (s : State) (pc : DWord) : (s.setPc pc).pfWr = s.pfWr := by unfold State.setPc; split <;> rfl
@[simp] theorem State.setPc_pfRd (s : State) (pc : DWord) : (s.setPc pc).pfRd = s.pfRd := by unfold State.setPc; split <;> rfl
@[simp] theorem State.setPc_pfHeld (s : State) (pc : DWord) : (s.setPc pc).pfHeld = s.pfHeld := by unfold State.setPc; split <;> rfl
@[simp] theorem State.setPc_msix (s : State) (pc : DWord) : (s.setPc pc).msix = s.msix := by unfold State.setPc; split <;> rfl
@[simp] theorem State.setPc_modules (s : State) (pc : DWord) : (s.setPc pc).modules = s.modules := by unfold State.setPc; split <;> rfl
@[simp] theorem State.setPc_recovery (s : State) (pc : DWord) : (s.setPc pc).recovery = s.recovery := by unfold State.setPc; split <;> rfl
@[simp] theorem State.setPc_started (s : State) (pc : DWord) : (s.setPc pc).started = s.started := by unfold State.setPc; split <;> rfl
@[simp] theorem State.setPc_keys (s : State) (pc : DWord) : (s.setPc pc).keys = s.keys := by unfold State.setPc; split <;> rfl
@[simp] theorem State.setPc_moves (s : State) (pc : DWord) : (s.setPc pc).moves = s.moves := by unfold State.setPc; split <;> rfl
@[simp] theorem State.setPc_owners (s : State) (pc : DWord) : (s.setPc pc).owners = s.owners := by unfold State.setPc; split <;> rfl
@[simp] theorem State.setPc_marked (s : State) (pc : DWord) : (s.setPc pc).marked = s.marked := by unfold State.setPc; split <;> rfl
@[simp] theorem State.setPc_ranges (s : State) (pc : DWord) : (s.setPc pc).ranges = s.ranges := by unfold State.setPc; split <;> rfl
@[simp] theorem State.setPc_windows (s : State) (pc : DWord) : (s.setPc pc).windows = s.windows := by unfold State.setPc; split <;> rfl
@[simp] theorem State.setPc_islands (s : State) (pc : DWord) : (s.setPc pc).islands = s.islands := by unfold State.setPc; split <;> rfl
@[simp] theorem State.setPc_skew (s : State) (pc : DWord) : (s.setPc pc).skew = s.skew := by unfold State.setPc; split <;> rfl
@[simp] theorem State.setPc_ceiling (s : State) (pc : DWord) : (s.setPc pc).ceiling = s.ceiling := by unfold State.setPc; split <;> rfl
@[simp] theorem State.setPc_record (s : State) (pc : DWord) : (s.setPc pc).record = s.record := by unfold State.setPc; split <;> rfl
@[simp] theorem State.setPc_binding (s : State) (pc : DWord) : (s.setPc pc).binding = s.binding := by unfold State.setPc; split <;> rfl
@[simp] theorem State.setPc_reply (s : State) (pc : DWord) : (s.setPc pc).reply = s.reply := by unfold State.setPc; split <;> rfl
@[simp] theorem State.setPc_words (s : State) (pc : DWord) : (s.setPc pc).words = s.words := by unfold State.setPc; split <;> rfl
@[simp] theorem State.setPc_listing (s : State) (pc : DWord) : (s.setPc pc).listing = s.listing := by unfold State.setPc; split <;> rfl
@[simp] theorem State.setPc_notes (s : State) (pc : DWord) : (s.setPc pc).notes = s.notes := by unfold State.setPc; split <;> rfl
@[simp] theorem State.setPc_trace (s : State) (pc : DWord) : (s.setPc pc).trace = s.trace := by unfold State.setPc; split <;> rfl
@[simp] theorem State.setPc_exchanges (s : State) (pc : DWord) : (s.setPc pc).exchanges = s.exchanges := by unfold State.setPc; split <;> rfl
@[simp] theorem State.issued_time (s : State)  : (s.issued).time = s.time := rfl
@[simp] theorem State.issued_pace (s : State)  : (s.issued).pace = s.pace := rfl
@[simp] theorem State.issued_inputs (s : State)  : (s.issued).inputs = s.inputs := rfl
@[simp] theorem State.issued_turns (s : State)  : (s.issued).turns = s.turns := rfl
@[simp] theorem State.issued_evTurn (s : State)  : (s.issued).evTurn = s.evTurn := rfl
@[simp] theorem State.issued_free (s : State)  : (s.issued).free = s.free := rfl
@[simp] theorem State.issued_gangs (s : State)  : (s.issued).gangs = s.gangs := rfl
@[simp] theorem State.issued_launches (s : State)  : (s.issued).launches = s.launches := rfl
@[simp] theorem State.issued_vds (s : State)  : (s.issued).vds = s.vds := rfl
@[simp] theorem State.issued_tasks (s : State)  : (s.issued).tasks = s.tasks := rfl
@[simp] theorem State.issued_mem (s : State)  : (s.issued).mem = s.mem := rfl
@[simp] theorem State.issued_bad (s : State)  : (s.issued).bad = s.bad := rfl
@[simp] theorem State.issued_flight (s : State)  : (s.issued).flight = s.flight := rfl
@[simp] theorem State.issued_homes (s : State)  : (s.issued).homes = s.homes := rfl
@[simp] theorem State.issued_copies (s : State)  : (s.issued).copies = s.copies := rfl
@[simp] theorem State.issued_privHeld (s : State)  : (s.issued).privHeld = s.privHeld := rfl
@[simp] theorem State.issued_llc (s : State)  : (s.issued).llc = s.llc := rfl
@[simp] theorem State.issued_atomLog (s : State)  : (s.issued).atomLog = s.atomLog := rfl
@[simp] theorem State.issued_sectors (s : State)  : (s.issued).sectors = s.sectors := rfl
@[simp] theorem State.issued_views (s : State)  : (s.issued).views = s.views := rfl
@[simp] theorem State.issued_tlb (s : State)  : (s.issued).tlb = s.tlb := rfl
@[simp] theorem State.issued_dir (s : State)  : (s.issued).dir = s.dir := rfl
@[simp] theorem State.issued_bridge (s : State)  : (s.issued).bridge = s.bridge := rfl
@[simp] theorem State.issued_hostReqs (s : State)  : (s.issued).hostReqs = s.hostReqs := rfl
@[simp] theorem State.issued_snoops (s : State)  : (s.issued).snoops = s.snoops := rfl
@[simp] theorem State.issued_colls (s : State)  : (s.issued).colls = s.colls := rfl
@[simp] theorem State.issued_steals (s : State)  : (s.issued).steals = s.steals := rfl
@[simp] theorem State.issued_scOrder (s : State)  : (s.issued).scOrder = s.scOrder := rfl
@[simp] theorem State.issued_ports (s : State)  : (s.issued).ports = s.ports := rfl
@[simp] theorem State.issued_links (s : State)  : (s.issued).links = s.links := rfl
@[simp] theorem State.issued_performed (s : State)  : (s.issued).performed = s.performed := rfl
@[simp] theorem State.issued_firewall (s : State)  : (s.issued).firewall = s.firewall := rfl
@[simp] theorem State.issued_partitions (s : State)  : (s.issued).partitions = s.partitions := rfl
@[simp] theorem State.issued_slices (s : State)  : (s.issued).slices = s.slices := rfl
@[simp] theorem State.issued_pfWr (s : State)  : (s.issued).pfWr = s.pfWr := rfl
@[simp] theorem State.issued_pfRd (s : State)  : (s.issued).pfRd = s.pfRd := rfl
@[simp] theorem State.issued_pfHeld (s : State)  : (s.issued).pfHeld = s.pfHeld := rfl
@[simp] theorem State.issued_msix (s : State)  : (s.issued).msix = s.msix := rfl
@[simp] theorem State.issued_modules (s : State)  : (s.issued).modules = s.modules := rfl
@[simp] theorem State.issued_recovery (s : State)  : (s.issued).recovery = s.recovery := rfl
@[simp] theorem State.issued_started (s : State)  : (s.issued).started = s.started := rfl
@[simp] theorem State.issued_keys (s : State)  : (s.issued).keys = s.keys := rfl
@[simp] theorem State.issued_moves (s : State)  : (s.issued).moves = s.moves := rfl
@[simp] theorem State.issued_owners (s : State)  : (s.issued).owners = s.owners := rfl
@[simp] theorem State.issued_marked (s : State)  : (s.issued).marked = s.marked := rfl
@[simp] theorem State.issued_ranges (s : State)  : (s.issued).ranges = s.ranges := rfl
@[simp] theorem State.issued_windows (s : State)  : (s.issued).windows = s.windows := rfl
@[simp] theorem State.issued_islands (s : State)  : (s.issued).islands = s.islands := rfl
@[simp] theorem State.issued_skew (s : State)  : (s.issued).skew = s.skew := rfl
@[simp] theorem State.issued_ceiling (s : State)  : (s.issued).ceiling = s.ceiling := rfl
@[simp] theorem State.issued_record (s : State)  : (s.issued).record = s.record := rfl
@[simp] theorem State.issued_binding (s : State)  : (s.issued).binding = s.binding := rfl
@[simp] theorem State.issued_reply (s : State)  : (s.issued).reply = s.reply := rfl
@[simp] theorem State.issued_words (s : State)  : (s.issued).words = s.words := rfl
@[simp] theorem State.issued_listing (s : State)  : (s.issued).listing = s.listing := rfl
@[simp] theorem State.issued_notes (s : State)  : (s.issued).notes = s.notes := rfl
@[simp] theorem State.issued_trace (s : State)  : (s.issued).trace = s.trace := rfl
@[simp] theorem State.issued_exchanges (s : State)  : (s.issued).exchanges = s.exchanges := rfl
@[simp] theorem State.issued_seq (s : State) : s.issued.seq = s.seq + 1 := rfl
@[simp] theorem State.done_time (s : State)  : (s.done).time = s.time := by simp [State.done]
@[simp] theorem State.done_pace (s : State)  : (s.done).pace = s.pace := by simp [State.done]
@[simp] theorem State.done_inputs (s : State)  : (s.done).inputs = s.inputs := by simp [State.done]
@[simp] theorem State.done_turns (s : State)  : (s.done).turns = s.turns := by simp [State.done]
@[simp] theorem State.done_evTurn (s : State)  : (s.done).evTurn = s.evTurn := by simp [State.done]
@[simp] theorem State.done_free (s : State)  : (s.done).free = s.free := by simp [State.done]
@[simp] theorem State.done_gangs (s : State)  : (s.done).gangs = s.gangs := by simp [State.done]
@[simp] theorem State.done_launches (s : State)  : (s.done).launches = s.launches := by simp [State.done]
@[simp] theorem State.done_vds (s : State)  : (s.done).vds = s.vds := by simp [State.done]
@[simp] theorem State.done_tasks (s : State)  : (s.done).tasks = s.tasks := by simp [State.done]
@[simp] theorem State.done_mem (s : State)  : (s.done).mem = s.mem := by simp [State.done]
@[simp] theorem State.done_bad (s : State)  : (s.done).bad = s.bad := by simp [State.done]
@[simp] theorem State.done_flight (s : State)  : (s.done).flight = s.flight := by simp [State.done]
@[simp] theorem State.done_homes (s : State)  : (s.done).homes = s.homes := by simp [State.done]
@[simp] theorem State.done_copies (s : State)  : (s.done).copies = s.copies := by simp [State.done]
@[simp] theorem State.done_privHeld (s : State)  : (s.done).privHeld = s.privHeld := by simp [State.done]
@[simp] theorem State.done_llc (s : State)  : (s.done).llc = s.llc := by simp [State.done]
@[simp] theorem State.done_atomLog (s : State)  : (s.done).atomLog = s.atomLog := by simp [State.done]
@[simp] theorem State.done_sectors (s : State)  : (s.done).sectors = s.sectors := by simp [State.done]
@[simp] theorem State.done_views (s : State)  : (s.done).views = s.views := by simp [State.done]
@[simp] theorem State.done_tlb (s : State)  : (s.done).tlb = s.tlb := by simp [State.done]
@[simp] theorem State.done_dir (s : State)  : (s.done).dir = s.dir := by simp [State.done]
@[simp] theorem State.done_bridge (s : State)  : (s.done).bridge = s.bridge := by simp [State.done]
@[simp] theorem State.done_hostReqs (s : State)  : (s.done).hostReqs = s.hostReqs := by simp [State.done]
@[simp] theorem State.done_snoops (s : State)  : (s.done).snoops = s.snoops := by simp [State.done]
@[simp] theorem State.done_colls (s : State)  : (s.done).colls = s.colls := by simp [State.done]
@[simp] theorem State.done_steals (s : State)  : (s.done).steals = s.steals := by simp [State.done]
@[simp] theorem State.done_scOrder (s : State)  : (s.done).scOrder = s.scOrder := by simp [State.done]
@[simp] theorem State.done_ports (s : State)  : (s.done).ports = s.ports := by simp [State.done]
@[simp] theorem State.done_links (s : State)  : (s.done).links = s.links := by simp [State.done]
@[simp] theorem State.done_performed (s : State)  : (s.done).performed = s.performed := by simp [State.done]
@[simp] theorem State.done_firewall (s : State)  : (s.done).firewall = s.firewall := by simp [State.done]
@[simp] theorem State.done_partitions (s : State)  : (s.done).partitions = s.partitions := by simp [State.done]
@[simp] theorem State.done_slices (s : State)  : (s.done).slices = s.slices := by simp [State.done]
@[simp] theorem State.done_pfWr (s : State)  : (s.done).pfWr = s.pfWr := by simp [State.done]
@[simp] theorem State.done_pfRd (s : State)  : (s.done).pfRd = s.pfRd := by simp [State.done]
@[simp] theorem State.done_pfHeld (s : State)  : (s.done).pfHeld = s.pfHeld := by simp [State.done]
@[simp] theorem State.done_msix (s : State)  : (s.done).msix = s.msix := by simp [State.done]
@[simp] theorem State.done_modules (s : State)  : (s.done).modules = s.modules := by simp [State.done]
@[simp] theorem State.done_recovery (s : State)  : (s.done).recovery = s.recovery := by simp [State.done]
@[simp] theorem State.done_started (s : State)  : (s.done).started = s.started := by simp [State.done]
@[simp] theorem State.done_keys (s : State)  : (s.done).keys = s.keys := by simp [State.done]
@[simp] theorem State.done_moves (s : State)  : (s.done).moves = s.moves := by simp [State.done]
@[simp] theorem State.done_owners (s : State)  : (s.done).owners = s.owners := by simp [State.done]
@[simp] theorem State.done_marked (s : State)  : (s.done).marked = s.marked := by simp [State.done]
@[simp] theorem State.done_ranges (s : State)  : (s.done).ranges = s.ranges := by simp [State.done]
@[simp] theorem State.done_windows (s : State)  : (s.done).windows = s.windows := by simp [State.done]
@[simp] theorem State.done_islands (s : State)  : (s.done).islands = s.islands := by simp [State.done]
@[simp] theorem State.done_skew (s : State)  : (s.done).skew = s.skew := by simp [State.done]
@[simp] theorem State.done_ceiling (s : State)  : (s.done).ceiling = s.ceiling := by simp [State.done]
@[simp] theorem State.done_record (s : State)  : (s.done).record = s.record := by simp [State.done]
@[simp] theorem State.done_binding (s : State)  : (s.done).binding = s.binding := by simp [State.done]
@[simp] theorem State.done_reply (s : State)  : (s.done).reply = s.reply := by simp [State.done]
@[simp] theorem State.done_words (s : State)  : (s.done).words = s.words := by simp [State.done]
@[simp] theorem State.done_listing (s : State)  : (s.done).listing = s.listing := by simp [State.done]
@[simp] theorem State.done_notes (s : State)  : (s.done).notes = s.notes := by simp [State.done]
@[simp] theorem State.done_trace (s : State)  : (s.done).trace = s.trace := by simp [State.done]
@[simp] theorem State.done_exchanges (s : State)  : (s.done).exchanges = s.exchanges := by simp [State.done]
@[simp] theorem State.done_seq (s : State) : s.done.seq = s.seq + 1 := by simp [State.done]
@[simp] theorem State.commitMark_time (s : State)  : (s.commitMark).time = s.time := rfl
@[simp] theorem State.commitMark_pace (s : State)  : (s.commitMark).pace = s.pace := rfl
@[simp] theorem State.commitMark_inputs (s : State)  : (s.commitMark).inputs = s.inputs := rfl
@[simp] theorem State.commitMark_turns (s : State)  : (s.commitMark).turns = s.turns := rfl
@[simp] theorem State.commitMark_evTurn (s : State)  : (s.commitMark).evTurn = s.evTurn := rfl
@[simp] theorem State.commitMark_free (s : State)  : (s.commitMark).free = s.free := rfl
@[simp] theorem State.commitMark_seq (s : State)  : (s.commitMark).seq = s.seq := rfl
@[simp] theorem State.commitMark_cur (s : State)  : (s.commitMark).cur = s.cur := rfl
@[simp] theorem State.commitMark_latches (s : State)  : (s.commitMark).latches = s.latches := rfl
@[simp] theorem State.commitMark_launches (s : State)  : (s.commitMark).launches = s.launches := rfl
@[simp] theorem State.commitMark_vds (s : State)  : (s.commitMark).vds = s.vds := rfl
@[simp] theorem State.commitMark_tasks (s : State)  : (s.commitMark).tasks = s.tasks := rfl
@[simp] theorem State.commitMark_mem (s : State)  : (s.commitMark).mem = s.mem := rfl
@[simp] theorem State.commitMark_bad (s : State)  : (s.commitMark).bad = s.bad := rfl
@[simp] theorem State.commitMark_flight (s : State)  : (s.commitMark).flight = s.flight := rfl
@[simp] theorem State.commitMark_homes (s : State)  : (s.commitMark).homes = s.homes := rfl
@[simp] theorem State.commitMark_copies (s : State)  : (s.commitMark).copies = s.copies := rfl
@[simp] theorem State.commitMark_privHeld (s : State)  : (s.commitMark).privHeld = s.privHeld := rfl
@[simp] theorem State.commitMark_llc (s : State)  : (s.commitMark).llc = s.llc := rfl
@[simp] theorem State.commitMark_atomLog (s : State)  : (s.commitMark).atomLog = s.atomLog := rfl
@[simp] theorem State.commitMark_sectors (s : State)  : (s.commitMark).sectors = s.sectors := rfl
@[simp] theorem State.commitMark_views (s : State)  : (s.commitMark).views = s.views := rfl
@[simp] theorem State.commitMark_tlb (s : State)  : (s.commitMark).tlb = s.tlb := rfl
@[simp] theorem State.commitMark_dir (s : State)  : (s.commitMark).dir = s.dir := rfl
@[simp] theorem State.commitMark_bridge (s : State)  : (s.commitMark).bridge = s.bridge := rfl
@[simp] theorem State.commitMark_hostReqs (s : State)  : (s.commitMark).hostReqs = s.hostReqs := rfl
@[simp] theorem State.commitMark_snoops (s : State)  : (s.commitMark).snoops = s.snoops := rfl
@[simp] theorem State.commitMark_colls (s : State)  : (s.commitMark).colls = s.colls := rfl
@[simp] theorem State.commitMark_steals (s : State)  : (s.commitMark).steals = s.steals := rfl
@[simp] theorem State.commitMark_scOrder (s : State)  : (s.commitMark).scOrder = s.scOrder := rfl
@[simp] theorem State.commitMark_ports (s : State)  : (s.commitMark).ports = s.ports := rfl
@[simp] theorem State.commitMark_links (s : State)  : (s.commitMark).links = s.links := rfl
@[simp] theorem State.commitMark_performed (s : State)  : (s.commitMark).performed = s.performed := rfl
@[simp] theorem State.commitMark_firewall (s : State)  : (s.commitMark).firewall = s.firewall := rfl
@[simp] theorem State.commitMark_partitions (s : State)  : (s.commitMark).partitions = s.partitions := rfl
@[simp] theorem State.commitMark_slices (s : State)  : (s.commitMark).slices = s.slices := rfl
@[simp] theorem State.commitMark_pfWr (s : State)  : (s.commitMark).pfWr = s.pfWr := rfl
@[simp] theorem State.commitMark_pfRd (s : State)  : (s.commitMark).pfRd = s.pfRd := rfl
@[simp] theorem State.commitMark_pfHeld (s : State)  : (s.commitMark).pfHeld = s.pfHeld := rfl
@[simp] theorem State.commitMark_msix (s : State)  : (s.commitMark).msix = s.msix := rfl
@[simp] theorem State.commitMark_modules (s : State)  : (s.commitMark).modules = s.modules := rfl
@[simp] theorem State.commitMark_recovery (s : State)  : (s.commitMark).recovery = s.recovery := rfl
@[simp] theorem State.commitMark_started (s : State)  : (s.commitMark).started = s.started := rfl
@[simp] theorem State.commitMark_keys (s : State)  : (s.commitMark).keys = s.keys := rfl
@[simp] theorem State.commitMark_moves (s : State)  : (s.commitMark).moves = s.moves := rfl
@[simp] theorem State.commitMark_owners (s : State)  : (s.commitMark).owners = s.owners := rfl
@[simp] theorem State.commitMark_marked (s : State)  : (s.commitMark).marked = s.marked := rfl
@[simp] theorem State.commitMark_ranges (s : State)  : (s.commitMark).ranges = s.ranges := rfl
@[simp] theorem State.commitMark_windows (s : State)  : (s.commitMark).windows = s.windows := rfl
@[simp] theorem State.commitMark_islands (s : State)  : (s.commitMark).islands = s.islands := rfl
@[simp] theorem State.commitMark_skew (s : State)  : (s.commitMark).skew = s.skew := rfl
@[simp] theorem State.commitMark_ceiling (s : State)  : (s.commitMark).ceiling = s.ceiling := rfl
@[simp] theorem State.commitMark_record (s : State)  : (s.commitMark).record = s.record := rfl
@[simp] theorem State.commitMark_binding (s : State)  : (s.commitMark).binding = s.binding := rfl
@[simp] theorem State.commitMark_reply (s : State)  : (s.commitMark).reply = s.reply := rfl
@[simp] theorem State.commitMark_words (s : State)  : (s.commitMark).words = s.words := rfl
@[simp] theorem State.commitMark_listing (s : State)  : (s.commitMark).listing = s.listing := rfl
@[simp] theorem State.commitMark_notes (s : State)  : (s.commitMark).notes = s.notes := rfl
@[simp] theorem State.commitMark_trace (s : State)  : (s.commitMark).trace = s.trace := rfl
@[simp] theorem State.commitMark_exchanges (s : State)  : (s.commitMark).exchanges = s.exchanges := rfl
@[simp] theorem State.latchVa_time (s : State) (h : BitVec 1) (va : BitVec 6) : (s.latchVa h va).time = s.time := by unfold State.latchVa; split <;> rfl
@[simp] theorem State.latchVa_pace (s : State) (h : BitVec 1) (va : BitVec 6) : (s.latchVa h va).pace = s.pace := by unfold State.latchVa; split <;> rfl
@[simp] theorem State.latchVa_inputs (s : State) (h : BitVec 1) (va : BitVec 6) : (s.latchVa h va).inputs = s.inputs := by unfold State.latchVa; split <;> rfl
@[simp] theorem State.latchVa_turns (s : State) (h : BitVec 1) (va : BitVec 6) : (s.latchVa h va).turns = s.turns := by unfold State.latchVa; split <;> rfl
@[simp] theorem State.latchVa_evTurn (s : State) (h : BitVec 1) (va : BitVec 6) : (s.latchVa h va).evTurn = s.evTurn := by unfold State.latchVa; split <;> rfl
@[simp] theorem State.latchVa_free (s : State) (h : BitVec 1) (va : BitVec 6) : (s.latchVa h va).free = s.free := by unfold State.latchVa; split <;> rfl
@[simp] theorem State.latchVa_seq (s : State) (h : BitVec 1) (va : BitVec 6) : (s.latchVa h va).seq = s.seq := by unfold State.latchVa; split <;> rfl
@[simp] theorem State.latchVa_cur (s : State) (h : BitVec 1) (va : BitVec 6) : (s.latchVa h va).cur = s.cur := by unfold State.latchVa; split <;> rfl
@[simp] theorem State.latchVa_waves (s : State) (h : BitVec 1) (va : BitVec 6) : (s.latchVa h va).waves = s.waves := by unfold State.latchVa; split <;> rfl
@[simp] theorem State.latchVa_gangs (s : State) (h : BitVec 1) (va : BitVec 6) : (s.latchVa h va).gangs = s.gangs := by unfold State.latchVa; split <;> rfl
@[simp] theorem State.latchVa_launches (s : State) (h : BitVec 1) (va : BitVec 6) : (s.latchVa h va).launches = s.launches := by unfold State.latchVa; split <;> rfl
@[simp] theorem State.latchVa_vds (s : State) (h : BitVec 1) (va : BitVec 6) : (s.latchVa h va).vds = s.vds := by unfold State.latchVa; split <;> rfl
@[simp] theorem State.latchVa_tasks (s : State) (h : BitVec 1) (va : BitVec 6) : (s.latchVa h va).tasks = s.tasks := by unfold State.latchVa; split <;> rfl
@[simp] theorem State.latchVa_mem (s : State) (h : BitVec 1) (va : BitVec 6) : (s.latchVa h va).mem = s.mem := by unfold State.latchVa; split <;> rfl
@[simp] theorem State.latchVa_bad (s : State) (h : BitVec 1) (va : BitVec 6) : (s.latchVa h va).bad = s.bad := by unfold State.latchVa; split <;> rfl
@[simp] theorem State.latchVa_flight (s : State) (h : BitVec 1) (va : BitVec 6) : (s.latchVa h va).flight = s.flight := by unfold State.latchVa; split <;> rfl
@[simp] theorem State.latchVa_homes (s : State) (h : BitVec 1) (va : BitVec 6) : (s.latchVa h va).homes = s.homes := by unfold State.latchVa; split <;> rfl
@[simp] theorem State.latchVa_copies (s : State) (h : BitVec 1) (va : BitVec 6) : (s.latchVa h va).copies = s.copies := by unfold State.latchVa; split <;> rfl
@[simp] theorem State.latchVa_privHeld (s : State) (h : BitVec 1) (va : BitVec 6) : (s.latchVa h va).privHeld = s.privHeld := by unfold State.latchVa; split <;> rfl
@[simp] theorem State.latchVa_llc (s : State) (h : BitVec 1) (va : BitVec 6) : (s.latchVa h va).llc = s.llc := by unfold State.latchVa; split <;> rfl
@[simp] theorem State.latchVa_atomLog (s : State) (h : BitVec 1) (va : BitVec 6) : (s.latchVa h va).atomLog = s.atomLog := by unfold State.latchVa; split <;> rfl
@[simp] theorem State.latchVa_sectors (s : State) (h : BitVec 1) (va : BitVec 6) : (s.latchVa h va).sectors = s.sectors := by unfold State.latchVa; split <;> rfl
@[simp] theorem State.latchVa_views (s : State) (h : BitVec 1) (va : BitVec 6) : (s.latchVa h va).views = s.views := by unfold State.latchVa; split <;> rfl
@[simp] theorem State.latchVa_tlb (s : State) (h : BitVec 1) (va : BitVec 6) : (s.latchVa h va).tlb = s.tlb := by unfold State.latchVa; split <;> rfl
@[simp] theorem State.latchVa_dir (s : State) (h : BitVec 1) (va : BitVec 6) : (s.latchVa h va).dir = s.dir := by unfold State.latchVa; split <;> rfl
@[simp] theorem State.latchVa_bridge (s : State) (h : BitVec 1) (va : BitVec 6) : (s.latchVa h va).bridge = s.bridge := by unfold State.latchVa; split <;> rfl
@[simp] theorem State.latchVa_hostReqs (s : State) (h : BitVec 1) (va : BitVec 6) : (s.latchVa h va).hostReqs = s.hostReqs := by unfold State.latchVa; split <;> rfl
@[simp] theorem State.latchVa_snoops (s : State) (h : BitVec 1) (va : BitVec 6) : (s.latchVa h va).snoops = s.snoops := by unfold State.latchVa; split <;> rfl
@[simp] theorem State.latchVa_colls (s : State) (h : BitVec 1) (va : BitVec 6) : (s.latchVa h va).colls = s.colls := by unfold State.latchVa; split <;> rfl
@[simp] theorem State.latchVa_steals (s : State) (h : BitVec 1) (va : BitVec 6) : (s.latchVa h va).steals = s.steals := by unfold State.latchVa; split <;> rfl
@[simp] theorem State.latchVa_scOrder (s : State) (h : BitVec 1) (va : BitVec 6) : (s.latchVa h va).scOrder = s.scOrder := by unfold State.latchVa; split <;> rfl
@[simp] theorem State.latchVa_ports (s : State) (h : BitVec 1) (va : BitVec 6) : (s.latchVa h va).ports = s.ports := by unfold State.latchVa; split <;> rfl
@[simp] theorem State.latchVa_links (s : State) (h : BitVec 1) (va : BitVec 6) : (s.latchVa h va).links = s.links := by unfold State.latchVa; split <;> rfl
@[simp] theorem State.latchVa_performed (s : State) (h : BitVec 1) (va : BitVec 6) : (s.latchVa h va).performed = s.performed := by unfold State.latchVa; split <;> rfl
@[simp] theorem State.latchVa_firewall (s : State) (h : BitVec 1) (va : BitVec 6) : (s.latchVa h va).firewall = s.firewall := by unfold State.latchVa; split <;> rfl
@[simp] theorem State.latchVa_partitions (s : State) (h : BitVec 1) (va : BitVec 6) : (s.latchVa h va).partitions = s.partitions := by unfold State.latchVa; split <;> rfl
@[simp] theorem State.latchVa_slices (s : State) (h : BitVec 1) (va : BitVec 6) : (s.latchVa h va).slices = s.slices := by unfold State.latchVa; split <;> rfl
@[simp] theorem State.latchVa_pfWr (s : State) (h : BitVec 1) (va : BitVec 6) : (s.latchVa h va).pfWr = s.pfWr := by unfold State.latchVa; split <;> rfl
@[simp] theorem State.latchVa_pfRd (s : State) (h : BitVec 1) (va : BitVec 6) : (s.latchVa h va).pfRd = s.pfRd := by unfold State.latchVa; split <;> rfl
@[simp] theorem State.latchVa_pfHeld (s : State) (h : BitVec 1) (va : BitVec 6) : (s.latchVa h va).pfHeld = s.pfHeld := by unfold State.latchVa; split <;> rfl
@[simp] theorem State.latchVa_msix (s : State) (h : BitVec 1) (va : BitVec 6) : (s.latchVa h va).msix = s.msix := by unfold State.latchVa; split <;> rfl
@[simp] theorem State.latchVa_modules (s : State) (h : BitVec 1) (va : BitVec 6) : (s.latchVa h va).modules = s.modules := by unfold State.latchVa; split <;> rfl
@[simp] theorem State.latchVa_recovery (s : State) (h : BitVec 1) (va : BitVec 6) : (s.latchVa h va).recovery = s.recovery := by unfold State.latchVa; split <;> rfl
@[simp] theorem State.latchVa_started (s : State) (h : BitVec 1) (va : BitVec 6) : (s.latchVa h va).started = s.started := by unfold State.latchVa; split <;> rfl
@[simp] theorem State.latchVa_keys (s : State) (h : BitVec 1) (va : BitVec 6) : (s.latchVa h va).keys = s.keys := by unfold State.latchVa; split <;> rfl
@[simp] theorem State.latchVa_moves (s : State) (h : BitVec 1) (va : BitVec 6) : (s.latchVa h va).moves = s.moves := by unfold State.latchVa; split <;> rfl
@[simp] theorem State.latchVa_owners (s : State) (h : BitVec 1) (va : BitVec 6) : (s.latchVa h va).owners = s.owners := by unfold State.latchVa; split <;> rfl
@[simp] theorem State.latchVa_marked (s : State) (h : BitVec 1) (va : BitVec 6) : (s.latchVa h va).marked = s.marked := by unfold State.latchVa; split <;> rfl
@[simp] theorem State.latchVa_ranges (s : State) (h : BitVec 1) (va : BitVec 6) : (s.latchVa h va).ranges = s.ranges := by unfold State.latchVa; split <;> rfl
@[simp] theorem State.latchVa_windows (s : State) (h : BitVec 1) (va : BitVec 6) : (s.latchVa h va).windows = s.windows := by unfold State.latchVa; split <;> rfl
@[simp] theorem State.latchVa_islands (s : State) (h : BitVec 1) (va : BitVec 6) : (s.latchVa h va).islands = s.islands := by unfold State.latchVa; split <;> rfl
@[simp] theorem State.latchVa_skew (s : State) (h : BitVec 1) (va : BitVec 6) : (s.latchVa h va).skew = s.skew := by unfold State.latchVa; split <;> rfl
@[simp] theorem State.latchVa_ceiling (s : State) (h : BitVec 1) (va : BitVec 6) : (s.latchVa h va).ceiling = s.ceiling := by unfold State.latchVa; split <;> rfl
@[simp] theorem State.latchVa_record (s : State) (h : BitVec 1) (va : BitVec 6) : (s.latchVa h va).record = s.record := by unfold State.latchVa; split <;> rfl
@[simp] theorem State.latchVa_binding (s : State) (h : BitVec 1) (va : BitVec 6) : (s.latchVa h va).binding = s.binding := by unfold State.latchVa; split <;> rfl
@[simp] theorem State.latchVa_reply (s : State) (h : BitVec 1) (va : BitVec 6) : (s.latchVa h va).reply = s.reply := by unfold State.latchVa; split <;> rfl
@[simp] theorem State.latchVa_words (s : State) (h : BitVec 1) (va : BitVec 6) : (s.latchVa h va).words = s.words := by unfold State.latchVa; split <;> rfl
@[simp] theorem State.latchVa_listing (s : State) (h : BitVec 1) (va : BitVec 6) : (s.latchVa h va).listing = s.listing := by unfold State.latchVa; split <;> rfl
@[simp] theorem State.latchVa_notes (s : State) (h : BitVec 1) (va : BitVec 6) : (s.latchVa h va).notes = s.notes := by unfold State.latchVa; split <;> rfl
@[simp] theorem State.latchVa_trace (s : State) (h : BitVec 1) (va : BitVec 6) : (s.latchVa h va).trace = s.trace := by unfold State.latchVa; split <;> rfl
@[simp] theorem State.latchVa_exchanges (s : State) (h : BitVec 1) (va : BitVec 6) : (s.latchVa h va).exchanges = s.exchanges := by unfold State.latchVa; split <;> rfl

/-! ## Operations in flight and bytes -/

@[simp] theorem State.launchOp_time (s : State) (c : Option Nat) (k : OpKind) (o : Order) (m : BitVec 5) (e : Nat) : (s.launchOp c k o m e).time = s.time := rfl
@[simp] theorem State.launchOp_pace (s : State) (c : Option Nat) (k : OpKind) (o : Order) (m : BitVec 5) (e : Nat) : (s.launchOp c k o m e).pace = s.pace := rfl
@[simp] theorem State.launchOp_inputs (s : State) (c : Option Nat) (k : OpKind) (o : Order) (m : BitVec 5) (e : Nat) : (s.launchOp c k o m e).inputs = s.inputs := rfl
@[simp] theorem State.launchOp_turns (s : State) (c : Option Nat) (k : OpKind) (o : Order) (m : BitVec 5) (e : Nat) : (s.launchOp c k o m e).turns = s.turns := rfl
@[simp] theorem State.launchOp_evTurn (s : State) (c : Option Nat) (k : OpKind) (o : Order) (m : BitVec 5) (e : Nat) : (s.launchOp c k o m e).evTurn = s.evTurn := rfl
@[simp] theorem State.launchOp_free (s : State) (c : Option Nat) (k : OpKind) (o : Order) (m : BitVec 5) (e : Nat) : (s.launchOp c k o m e).free = s.free := rfl
@[simp] theorem State.launchOp_cur (s : State) (c : Option Nat) (k : OpKind) (o : Order) (m : BitVec 5) (e : Nat) : (s.launchOp c k o m e).cur = s.cur := rfl
@[simp] theorem State.launchOp_latches (s : State) (c : Option Nat) (k : OpKind) (o : Order) (m : BitVec 5) (e : Nat) : (s.launchOp c k o m e).latches = s.latches := rfl
@[simp] theorem State.launchOp_waves (s : State) (c : Option Nat) (k : OpKind) (o : Order) (m : BitVec 5) (e : Nat) : (s.launchOp c k o m e).waves = s.waves := rfl
@[simp] theorem State.launchOp_gangs (s : State) (c : Option Nat) (k : OpKind) (o : Order) (m : BitVec 5) (e : Nat) : (s.launchOp c k o m e).gangs = s.gangs := rfl
@[simp] theorem State.launchOp_launches (s : State) (c : Option Nat) (k : OpKind) (o : Order) (m : BitVec 5) (e : Nat) : (s.launchOp c k o m e).launches = s.launches := rfl
@[simp] theorem State.launchOp_vds (s : State) (c : Option Nat) (k : OpKind) (o : Order) (m : BitVec 5) (e : Nat) : (s.launchOp c k o m e).vds = s.vds := rfl
@[simp] theorem State.launchOp_tasks (s : State) (c : Option Nat) (k : OpKind) (o : Order) (m : BitVec 5) (e : Nat) : (s.launchOp c k o m e).tasks = s.tasks := rfl
@[simp] theorem State.launchOp_mem (s : State) (c : Option Nat) (k : OpKind) (o : Order) (m : BitVec 5) (e : Nat) : (s.launchOp c k o m e).mem = s.mem := rfl
@[simp] theorem State.launchOp_bad (s : State) (c : Option Nat) (k : OpKind) (o : Order) (m : BitVec 5) (e : Nat) : (s.launchOp c k o m e).bad = s.bad := rfl
@[simp] theorem State.launchOp_homes (s : State) (c : Option Nat) (k : OpKind) (o : Order) (m : BitVec 5) (e : Nat) : (s.launchOp c k o m e).homes = s.homes := rfl
@[simp] theorem State.launchOp_copies (s : State) (c : Option Nat) (k : OpKind) (o : Order) (m : BitVec 5) (e : Nat) : (s.launchOp c k o m e).copies = s.copies := rfl
@[simp] theorem State.launchOp_privHeld (s : State) (c : Option Nat) (k : OpKind) (o : Order) (m : BitVec 5) (e : Nat) : (s.launchOp c k o m e).privHeld = s.privHeld := rfl
@[simp] theorem State.launchOp_llc (s : State) (c : Option Nat) (k : OpKind) (o : Order) (m : BitVec 5) (e : Nat) : (s.launchOp c k o m e).llc = s.llc := rfl
@[simp] theorem State.launchOp_atomLog (s : State) (c : Option Nat) (k : OpKind) (o : Order) (m : BitVec 5) (e : Nat) : (s.launchOp c k o m e).atomLog = s.atomLog := rfl
@[simp] theorem State.launchOp_sectors (s : State) (c : Option Nat) (k : OpKind) (o : Order) (m : BitVec 5) (e : Nat) : (s.launchOp c k o m e).sectors = s.sectors := rfl
@[simp] theorem State.launchOp_views (s : State) (c : Option Nat) (k : OpKind) (o : Order) (m : BitVec 5) (e : Nat) : (s.launchOp c k o m e).views = s.views := rfl
@[simp] theorem State.launchOp_tlb (s : State) (c : Option Nat) (k : OpKind) (o : Order) (m : BitVec 5) (e : Nat) : (s.launchOp c k o m e).tlb = s.tlb := rfl
@[simp] theorem State.launchOp_dir (s : State) (c : Option Nat) (k : OpKind) (o : Order) (m : BitVec 5) (e : Nat) : (s.launchOp c k o m e).dir = s.dir := rfl
@[simp] theorem State.launchOp_bridge (s : State) (c : Option Nat) (k : OpKind) (o : Order) (m : BitVec 5) (e : Nat) : (s.launchOp c k o m e).bridge = s.bridge := rfl
@[simp] theorem State.launchOp_hostReqs (s : State) (c : Option Nat) (k : OpKind) (o : Order) (m : BitVec 5) (e : Nat) : (s.launchOp c k o m e).hostReqs = s.hostReqs := rfl
@[simp] theorem State.launchOp_snoops (s : State) (c : Option Nat) (k : OpKind) (o : Order) (m : BitVec 5) (e : Nat) : (s.launchOp c k o m e).snoops = s.snoops := rfl
@[simp] theorem State.launchOp_colls (s : State) (c : Option Nat) (k : OpKind) (o : Order) (m : BitVec 5) (e : Nat) : (s.launchOp c k o m e).colls = s.colls := rfl
@[simp] theorem State.launchOp_steals (s : State) (c : Option Nat) (k : OpKind) (o : Order) (m : BitVec 5) (e : Nat) : (s.launchOp c k o m e).steals = s.steals := rfl
@[simp] theorem State.launchOp_scOrder (s : State) (c : Option Nat) (k : OpKind) (o : Order) (m : BitVec 5) (e : Nat) : (s.launchOp c k o m e).scOrder = s.scOrder := rfl
@[simp] theorem State.launchOp_ports (s : State) (c : Option Nat) (k : OpKind) (o : Order) (m : BitVec 5) (e : Nat) : (s.launchOp c k o m e).ports = s.ports := rfl
@[simp] theorem State.launchOp_links (s : State) (c : Option Nat) (k : OpKind) (o : Order) (m : BitVec 5) (e : Nat) : (s.launchOp c k o m e).links = s.links := rfl
@[simp] theorem State.launchOp_performed (s : State) (c : Option Nat) (k : OpKind) (o : Order) (m : BitVec 5) (e : Nat) : (s.launchOp c k o m e).performed = s.performed := rfl
@[simp] theorem State.launchOp_firewall (s : State) (c : Option Nat) (k : OpKind) (o : Order) (m : BitVec 5) (e : Nat) : (s.launchOp c k o m e).firewall = s.firewall := rfl
@[simp] theorem State.launchOp_partitions (s : State) (c : Option Nat) (k : OpKind) (o : Order) (m : BitVec 5) (e : Nat) : (s.launchOp c k o m e).partitions = s.partitions := rfl
@[simp] theorem State.launchOp_slices (s : State) (c : Option Nat) (k : OpKind) (o : Order) (m : BitVec 5) (e : Nat) : (s.launchOp c k o m e).slices = s.slices := rfl
@[simp] theorem State.launchOp_pfWr (s : State) (c : Option Nat) (k : OpKind) (o : Order) (m : BitVec 5) (e : Nat) : (s.launchOp c k o m e).pfWr = s.pfWr := rfl
@[simp] theorem State.launchOp_pfRd (s : State) (c : Option Nat) (k : OpKind) (o : Order) (m : BitVec 5) (e : Nat) : (s.launchOp c k o m e).pfRd = s.pfRd := rfl
@[simp] theorem State.launchOp_pfHeld (s : State) (c : Option Nat) (k : OpKind) (o : Order) (m : BitVec 5) (e : Nat) : (s.launchOp c k o m e).pfHeld = s.pfHeld := rfl
@[simp] theorem State.launchOp_msix (s : State) (c : Option Nat) (k : OpKind) (o : Order) (m : BitVec 5) (e : Nat) : (s.launchOp c k o m e).msix = s.msix := rfl
@[simp] theorem State.launchOp_modules (s : State) (c : Option Nat) (k : OpKind) (o : Order) (m : BitVec 5) (e : Nat) : (s.launchOp c k o m e).modules = s.modules := rfl
@[simp] theorem State.launchOp_recovery (s : State) (c : Option Nat) (k : OpKind) (o : Order) (m : BitVec 5) (e : Nat) : (s.launchOp c k o m e).recovery = s.recovery := rfl
@[simp] theorem State.launchOp_started (s : State) (c : Option Nat) (k : OpKind) (o : Order) (m : BitVec 5) (e : Nat) : (s.launchOp c k o m e).started = s.started := rfl
@[simp] theorem State.launchOp_keys (s : State) (c : Option Nat) (k : OpKind) (o : Order) (m : BitVec 5) (e : Nat) : (s.launchOp c k o m e).keys = s.keys := rfl
@[simp] theorem State.launchOp_moves (s : State) (c : Option Nat) (k : OpKind) (o : Order) (m : BitVec 5) (e : Nat) : (s.launchOp c k o m e).moves = s.moves := rfl
@[simp] theorem State.launchOp_owners (s : State) (c : Option Nat) (k : OpKind) (o : Order) (m : BitVec 5) (e : Nat) : (s.launchOp c k o m e).owners = s.owners := rfl
@[simp] theorem State.launchOp_marked (s : State) (c : Option Nat) (k : OpKind) (o : Order) (m : BitVec 5) (e : Nat) : (s.launchOp c k o m e).marked = s.marked := rfl
@[simp] theorem State.launchOp_ranges (s : State) (c : Option Nat) (k : OpKind) (o : Order) (m : BitVec 5) (e : Nat) : (s.launchOp c k o m e).ranges = s.ranges := rfl
@[simp] theorem State.launchOp_windows (s : State) (c : Option Nat) (k : OpKind) (o : Order) (m : BitVec 5) (e : Nat) : (s.launchOp c k o m e).windows = s.windows := rfl
@[simp] theorem State.launchOp_islands (s : State) (c : Option Nat) (k : OpKind) (o : Order) (m : BitVec 5) (e : Nat) : (s.launchOp c k o m e).islands = s.islands := rfl
@[simp] theorem State.launchOp_skew (s : State) (c : Option Nat) (k : OpKind) (o : Order) (m : BitVec 5) (e : Nat) : (s.launchOp c k o m e).skew = s.skew := rfl
@[simp] theorem State.launchOp_ceiling (s : State) (c : Option Nat) (k : OpKind) (o : Order) (m : BitVec 5) (e : Nat) : (s.launchOp c k o m e).ceiling = s.ceiling := rfl
@[simp] theorem State.launchOp_record (s : State) (c : Option Nat) (k : OpKind) (o : Order) (m : BitVec 5) (e : Nat) : (s.launchOp c k o m e).record = s.record := rfl
@[simp] theorem State.launchOp_binding (s : State) (c : Option Nat) (k : OpKind) (o : Order) (m : BitVec 5) (e : Nat) : (s.launchOp c k o m e).binding = s.binding := rfl
@[simp] theorem State.launchOp_reply (s : State) (c : Option Nat) (k : OpKind) (o : Order) (m : BitVec 5) (e : Nat) : (s.launchOp c k o m e).reply = s.reply := rfl
@[simp] theorem State.launchOp_words (s : State) (c : Option Nat) (k : OpKind) (o : Order) (m : BitVec 5) (e : Nat) : (s.launchOp c k o m e).words = s.words := rfl
@[simp] theorem State.launchOp_listing (s : State) (c : Option Nat) (k : OpKind) (o : Order) (m : BitVec 5) (e : Nat) : (s.launchOp c k o m e).listing = s.listing := rfl
@[simp] theorem State.launchOp_notes (s : State) (c : Option Nat) (k : OpKind) (o : Order) (m : BitVec 5) (e : Nat) : (s.launchOp c k o m e).notes = s.notes := rfl
@[simp] theorem State.launchOp_trace (s : State) (c : Option Nat) (k : OpKind) (o : Order) (m : BitVec 5) (e : Nat) : (s.launchOp c k o m e).trace = s.trace := rfl
@[simp] theorem State.launchOp_exchanges (s : State) (c : Option Nat) (k : OpKind) (o : Order) (m : BitVec 5) (e : Nat) : (s.launchOp c k o m e).exchanges = s.exchanges := rfl
@[simp] theorem State.launchOp_seq (s : State) (c : Option Nat) (k : OpKind) (o : Order) (m : BitVec 5) (e : Nat) : (s.launchOp c k o m e).seq = s.seq + 1 := rfl
@[simp] theorem State.dropOp_time (s : State) (id : Nat) : (s.dropOp id).time = s.time := rfl
@[simp] theorem State.dropOp_pace (s : State) (id : Nat) : (s.dropOp id).pace = s.pace := rfl
@[simp] theorem State.dropOp_inputs (s : State) (id : Nat) : (s.dropOp id).inputs = s.inputs := rfl
@[simp] theorem State.dropOp_turns (s : State) (id : Nat) : (s.dropOp id).turns = s.turns := rfl
@[simp] theorem State.dropOp_evTurn (s : State) (id : Nat) : (s.dropOp id).evTurn = s.evTurn := rfl
@[simp] theorem State.dropOp_free (s : State) (id : Nat) : (s.dropOp id).free = s.free := rfl
@[simp] theorem State.dropOp_seq (s : State) (id : Nat) : (s.dropOp id).seq = s.seq := rfl
@[simp] theorem State.dropOp_cur (s : State) (id : Nat) : (s.dropOp id).cur = s.cur := rfl
@[simp] theorem State.dropOp_latches (s : State) (id : Nat) : (s.dropOp id).latches = s.latches := rfl
@[simp] theorem State.dropOp_waves (s : State) (id : Nat) : (s.dropOp id).waves = s.waves := rfl
@[simp] theorem State.dropOp_gangs (s : State) (id : Nat) : (s.dropOp id).gangs = s.gangs := rfl
@[simp] theorem State.dropOp_launches (s : State) (id : Nat) : (s.dropOp id).launches = s.launches := rfl
@[simp] theorem State.dropOp_vds (s : State) (id : Nat) : (s.dropOp id).vds = s.vds := rfl
@[simp] theorem State.dropOp_tasks (s : State) (id : Nat) : (s.dropOp id).tasks = s.tasks := rfl
@[simp] theorem State.dropOp_mem (s : State) (id : Nat) : (s.dropOp id).mem = s.mem := rfl
@[simp] theorem State.dropOp_bad (s : State) (id : Nat) : (s.dropOp id).bad = s.bad := rfl
@[simp] theorem State.dropOp_homes (s : State) (id : Nat) : (s.dropOp id).homes = s.homes := rfl
@[simp] theorem State.dropOp_copies (s : State) (id : Nat) : (s.dropOp id).copies = s.copies := rfl
@[simp] theorem State.dropOp_privHeld (s : State) (id : Nat) : (s.dropOp id).privHeld = s.privHeld := rfl
@[simp] theorem State.dropOp_llc (s : State) (id : Nat) : (s.dropOp id).llc = s.llc := rfl
@[simp] theorem State.dropOp_atomLog (s : State) (id : Nat) : (s.dropOp id).atomLog = s.atomLog := rfl
@[simp] theorem State.dropOp_sectors (s : State) (id : Nat) : (s.dropOp id).sectors = s.sectors := rfl
@[simp] theorem State.dropOp_views (s : State) (id : Nat) : (s.dropOp id).views = s.views := rfl
@[simp] theorem State.dropOp_tlb (s : State) (id : Nat) : (s.dropOp id).tlb = s.tlb := rfl
@[simp] theorem State.dropOp_dir (s : State) (id : Nat) : (s.dropOp id).dir = s.dir := rfl
@[simp] theorem State.dropOp_bridge (s : State) (id : Nat) : (s.dropOp id).bridge = s.bridge := rfl
@[simp] theorem State.dropOp_hostReqs (s : State) (id : Nat) : (s.dropOp id).hostReqs = s.hostReqs := rfl
@[simp] theorem State.dropOp_snoops (s : State) (id : Nat) : (s.dropOp id).snoops = s.snoops := rfl
@[simp] theorem State.dropOp_colls (s : State) (id : Nat) : (s.dropOp id).colls = s.colls := rfl
@[simp] theorem State.dropOp_steals (s : State) (id : Nat) : (s.dropOp id).steals = s.steals := rfl
@[simp] theorem State.dropOp_scOrder (s : State) (id : Nat) : (s.dropOp id).scOrder = s.scOrder := rfl
@[simp] theorem State.dropOp_ports (s : State) (id : Nat) : (s.dropOp id).ports = s.ports := rfl
@[simp] theorem State.dropOp_links (s : State) (id : Nat) : (s.dropOp id).links = s.links := rfl
@[simp] theorem State.dropOp_performed (s : State) (id : Nat) : (s.dropOp id).performed = s.performed := rfl
@[simp] theorem State.dropOp_firewall (s : State) (id : Nat) : (s.dropOp id).firewall = s.firewall := rfl
@[simp] theorem State.dropOp_partitions (s : State) (id : Nat) : (s.dropOp id).partitions = s.partitions := rfl
@[simp] theorem State.dropOp_slices (s : State) (id : Nat) : (s.dropOp id).slices = s.slices := rfl
@[simp] theorem State.dropOp_pfWr (s : State) (id : Nat) : (s.dropOp id).pfWr = s.pfWr := rfl
@[simp] theorem State.dropOp_pfRd (s : State) (id : Nat) : (s.dropOp id).pfRd = s.pfRd := rfl
@[simp] theorem State.dropOp_pfHeld (s : State) (id : Nat) : (s.dropOp id).pfHeld = s.pfHeld := rfl
@[simp] theorem State.dropOp_msix (s : State) (id : Nat) : (s.dropOp id).msix = s.msix := rfl
@[simp] theorem State.dropOp_modules (s : State) (id : Nat) : (s.dropOp id).modules = s.modules := rfl
@[simp] theorem State.dropOp_recovery (s : State) (id : Nat) : (s.dropOp id).recovery = s.recovery := rfl
@[simp] theorem State.dropOp_started (s : State) (id : Nat) : (s.dropOp id).started = s.started := rfl
@[simp] theorem State.dropOp_keys (s : State) (id : Nat) : (s.dropOp id).keys = s.keys := rfl
@[simp] theorem State.dropOp_moves (s : State) (id : Nat) : (s.dropOp id).moves = s.moves := rfl
@[simp] theorem State.dropOp_owners (s : State) (id : Nat) : (s.dropOp id).owners = s.owners := rfl
@[simp] theorem State.dropOp_marked (s : State) (id : Nat) : (s.dropOp id).marked = s.marked := rfl
@[simp] theorem State.dropOp_ranges (s : State) (id : Nat) : (s.dropOp id).ranges = s.ranges := rfl
@[simp] theorem State.dropOp_windows (s : State) (id : Nat) : (s.dropOp id).windows = s.windows := rfl
@[simp] theorem State.dropOp_islands (s : State) (id : Nat) : (s.dropOp id).islands = s.islands := rfl
@[simp] theorem State.dropOp_skew (s : State) (id : Nat) : (s.dropOp id).skew = s.skew := rfl
@[simp] theorem State.dropOp_ceiling (s : State) (id : Nat) : (s.dropOp id).ceiling = s.ceiling := rfl
@[simp] theorem State.dropOp_record (s : State) (id : Nat) : (s.dropOp id).record = s.record := rfl
@[simp] theorem State.dropOp_binding (s : State) (id : Nat) : (s.dropOp id).binding = s.binding := rfl
@[simp] theorem State.dropOp_reply (s : State) (id : Nat) : (s.dropOp id).reply = s.reply := rfl
@[simp] theorem State.dropOp_words (s : State) (id : Nat) : (s.dropOp id).words = s.words := rfl
@[simp] theorem State.dropOp_listing (s : State) (id : Nat) : (s.dropOp id).listing = s.listing := rfl
@[simp] theorem State.dropOp_notes (s : State) (id : Nat) : (s.dropOp id).notes = s.notes := rfl
@[simp] theorem State.dropOp_trace (s : State) (id : Nat) : (s.dropOp id).trace = s.trace := rfl
@[simp] theorem State.dropOp_exchanges (s : State) (id : Nat) : (s.dropOp id).exchanges = s.exchanges := rfl
@[simp] theorem State.dropOp_flight (s : State) (id : Nat) : (s.dropOp id).flight = s.flight.filter fun o => o.id != id := rfl
@[simp] theorem State.setOp_time (s : State) (o : Op) : (s.setOp o).time = s.time := rfl
@[simp] theorem State.setOp_pace (s : State) (o : Op) : (s.setOp o).pace = s.pace := rfl
@[simp] theorem State.setOp_inputs (s : State) (o : Op) : (s.setOp o).inputs = s.inputs := rfl
@[simp] theorem State.setOp_turns (s : State) (o : Op) : (s.setOp o).turns = s.turns := rfl
@[simp] theorem State.setOp_evTurn (s : State) (o : Op) : (s.setOp o).evTurn = s.evTurn := rfl
@[simp] theorem State.setOp_free (s : State) (o : Op) : (s.setOp o).free = s.free := rfl
@[simp] theorem State.setOp_seq (s : State) (o : Op) : (s.setOp o).seq = s.seq := rfl
@[simp] theorem State.setOp_cur (s : State) (o : Op) : (s.setOp o).cur = s.cur := rfl
@[simp] theorem State.setOp_latches (s : State) (o : Op) : (s.setOp o).latches = s.latches := rfl
@[simp] theorem State.setOp_waves (s : State) (o : Op) : (s.setOp o).waves = s.waves := rfl
@[simp] theorem State.setOp_gangs (s : State) (o : Op) : (s.setOp o).gangs = s.gangs := rfl
@[simp] theorem State.setOp_launches (s : State) (o : Op) : (s.setOp o).launches = s.launches := rfl
@[simp] theorem State.setOp_vds (s : State) (o : Op) : (s.setOp o).vds = s.vds := rfl
@[simp] theorem State.setOp_tasks (s : State) (o : Op) : (s.setOp o).tasks = s.tasks := rfl
@[simp] theorem State.setOp_mem (s : State) (o : Op) : (s.setOp o).mem = s.mem := rfl
@[simp] theorem State.setOp_bad (s : State) (o : Op) : (s.setOp o).bad = s.bad := rfl
@[simp] theorem State.setOp_homes (s : State) (o : Op) : (s.setOp o).homes = s.homes := rfl
@[simp] theorem State.setOp_copies (s : State) (o : Op) : (s.setOp o).copies = s.copies := rfl
@[simp] theorem State.setOp_privHeld (s : State) (o : Op) : (s.setOp o).privHeld = s.privHeld := rfl
@[simp] theorem State.setOp_llc (s : State) (o : Op) : (s.setOp o).llc = s.llc := rfl
@[simp] theorem State.setOp_atomLog (s : State) (o : Op) : (s.setOp o).atomLog = s.atomLog := rfl
@[simp] theorem State.setOp_sectors (s : State) (o : Op) : (s.setOp o).sectors = s.sectors := rfl
@[simp] theorem State.setOp_views (s : State) (o : Op) : (s.setOp o).views = s.views := rfl
@[simp] theorem State.setOp_tlb (s : State) (o : Op) : (s.setOp o).tlb = s.tlb := rfl
@[simp] theorem State.setOp_dir (s : State) (o : Op) : (s.setOp o).dir = s.dir := rfl
@[simp] theorem State.setOp_bridge (s : State) (o : Op) : (s.setOp o).bridge = s.bridge := rfl
@[simp] theorem State.setOp_hostReqs (s : State) (o : Op) : (s.setOp o).hostReqs = s.hostReqs := rfl
@[simp] theorem State.setOp_snoops (s : State) (o : Op) : (s.setOp o).snoops = s.snoops := rfl
@[simp] theorem State.setOp_colls (s : State) (o : Op) : (s.setOp o).colls = s.colls := rfl
@[simp] theorem State.setOp_steals (s : State) (o : Op) : (s.setOp o).steals = s.steals := rfl
@[simp] theorem State.setOp_scOrder (s : State) (o : Op) : (s.setOp o).scOrder = s.scOrder := rfl
@[simp] theorem State.setOp_ports (s : State) (o : Op) : (s.setOp o).ports = s.ports := rfl
@[simp] theorem State.setOp_links (s : State) (o : Op) : (s.setOp o).links = s.links := rfl
@[simp] theorem State.setOp_performed (s : State) (o : Op) : (s.setOp o).performed = s.performed := rfl
@[simp] theorem State.setOp_firewall (s : State) (o : Op) : (s.setOp o).firewall = s.firewall := rfl
@[simp] theorem State.setOp_partitions (s : State) (o : Op) : (s.setOp o).partitions = s.partitions := rfl
@[simp] theorem State.setOp_slices (s : State) (o : Op) : (s.setOp o).slices = s.slices := rfl
@[simp] theorem State.setOp_pfWr (s : State) (o : Op) : (s.setOp o).pfWr = s.pfWr := rfl
@[simp] theorem State.setOp_pfRd (s : State) (o : Op) : (s.setOp o).pfRd = s.pfRd := rfl
@[simp] theorem State.setOp_pfHeld (s : State) (o : Op) : (s.setOp o).pfHeld = s.pfHeld := rfl
@[simp] theorem State.setOp_msix (s : State) (o : Op) : (s.setOp o).msix = s.msix := rfl
@[simp] theorem State.setOp_modules (s : State) (o : Op) : (s.setOp o).modules = s.modules := rfl
@[simp] theorem State.setOp_recovery (s : State) (o : Op) : (s.setOp o).recovery = s.recovery := rfl
@[simp] theorem State.setOp_started (s : State) (o : Op) : (s.setOp o).started = s.started := rfl
@[simp] theorem State.setOp_keys (s : State) (o : Op) : (s.setOp o).keys = s.keys := rfl
@[simp] theorem State.setOp_moves (s : State) (o : Op) : (s.setOp o).moves = s.moves := rfl
@[simp] theorem State.setOp_owners (s : State) (o : Op) : (s.setOp o).owners = s.owners := rfl
@[simp] theorem State.setOp_marked (s : State) (o : Op) : (s.setOp o).marked = s.marked := rfl
@[simp] theorem State.setOp_ranges (s : State) (o : Op) : (s.setOp o).ranges = s.ranges := rfl
@[simp] theorem State.setOp_windows (s : State) (o : Op) : (s.setOp o).windows = s.windows := rfl
@[simp] theorem State.setOp_islands (s : State) (o : Op) : (s.setOp o).islands = s.islands := rfl
@[simp] theorem State.setOp_skew (s : State) (o : Op) : (s.setOp o).skew = s.skew := rfl
@[simp] theorem State.setOp_ceiling (s : State) (o : Op) : (s.setOp o).ceiling = s.ceiling := rfl
@[simp] theorem State.setOp_record (s : State) (o : Op) : (s.setOp o).record = s.record := rfl
@[simp] theorem State.setOp_binding (s : State) (o : Op) : (s.setOp o).binding = s.binding := rfl
@[simp] theorem State.setOp_reply (s : State) (o : Op) : (s.setOp o).reply = s.reply := rfl
@[simp] theorem State.setOp_words (s : State) (o : Op) : (s.setOp o).words = s.words := rfl
@[simp] theorem State.setOp_listing (s : State) (o : Op) : (s.setOp o).listing = s.listing := rfl
@[simp] theorem State.setOp_notes (s : State) (o : Op) : (s.setOp o).notes = s.notes := rfl
@[simp] theorem State.setOp_trace (s : State) (o : Op) : (s.setOp o).trace = s.trace := rfl
@[simp] theorem State.setOp_exchanges (s : State) (o : Op) : (s.setOp o).exchanges = s.exchanges := rfl
@[simp] theorem State.putRaw_time (s : State) (l : Loc) (b : Byte) (p : Bool) : (s.putRaw l b p).time = s.time := rfl
@[simp] theorem State.putRaw_pace (s : State) (l : Loc) (b : Byte) (p : Bool) : (s.putRaw l b p).pace = s.pace := rfl
@[simp] theorem State.putRaw_inputs (s : State) (l : Loc) (b : Byte) (p : Bool) : (s.putRaw l b p).inputs = s.inputs := rfl
@[simp] theorem State.putRaw_turns (s : State) (l : Loc) (b : Byte) (p : Bool) : (s.putRaw l b p).turns = s.turns := rfl
@[simp] theorem State.putRaw_evTurn (s : State) (l : Loc) (b : Byte) (p : Bool) : (s.putRaw l b p).evTurn = s.evTurn := rfl
@[simp] theorem State.putRaw_free (s : State) (l : Loc) (b : Byte) (p : Bool) : (s.putRaw l b p).free = s.free := rfl
@[simp] theorem State.putRaw_seq (s : State) (l : Loc) (b : Byte) (p : Bool) : (s.putRaw l b p).seq = s.seq := rfl
@[simp] theorem State.putRaw_cur (s : State) (l : Loc) (b : Byte) (p : Bool) : (s.putRaw l b p).cur = s.cur := rfl
@[simp] theorem State.putRaw_latches (s : State) (l : Loc) (b : Byte) (p : Bool) : (s.putRaw l b p).latches = s.latches := rfl
@[simp] theorem State.putRaw_waves (s : State) (l : Loc) (b : Byte) (p : Bool) : (s.putRaw l b p).waves = s.waves := rfl
@[simp] theorem State.putRaw_gangs (s : State) (l : Loc) (b : Byte) (p : Bool) : (s.putRaw l b p).gangs = s.gangs := rfl
@[simp] theorem State.putRaw_launches (s : State) (l : Loc) (b : Byte) (p : Bool) : (s.putRaw l b p).launches = s.launches := rfl
@[simp] theorem State.putRaw_vds (s : State) (l : Loc) (b : Byte) (p : Bool) : (s.putRaw l b p).vds = s.vds := rfl
@[simp] theorem State.putRaw_tasks (s : State) (l : Loc) (b : Byte) (p : Bool) : (s.putRaw l b p).tasks = s.tasks := rfl
@[simp] theorem State.putRaw_flight (s : State) (l : Loc) (b : Byte) (p : Bool) : (s.putRaw l b p).flight = s.flight := rfl
@[simp] theorem State.putRaw_homes (s : State) (l : Loc) (b : Byte) (p : Bool) : (s.putRaw l b p).homes = s.homes := rfl
@[simp] theorem State.putRaw_copies (s : State) (l : Loc) (b : Byte) (p : Bool) : (s.putRaw l b p).copies = s.copies := rfl
@[simp] theorem State.putRaw_privHeld (s : State) (l : Loc) (b : Byte) (p : Bool) : (s.putRaw l b p).privHeld = s.privHeld := rfl
@[simp] theorem State.putRaw_llc (s : State) (l : Loc) (b : Byte) (p : Bool) : (s.putRaw l b p).llc = s.llc := rfl
@[simp] theorem State.putRaw_atomLog (s : State) (l : Loc) (b : Byte) (p : Bool) : (s.putRaw l b p).atomLog = s.atomLog := rfl
@[simp] theorem State.putRaw_sectors (s : State) (l : Loc) (b : Byte) (p : Bool) : (s.putRaw l b p).sectors = s.sectors := rfl
@[simp] theorem State.putRaw_views (s : State) (l : Loc) (b : Byte) (p : Bool) : (s.putRaw l b p).views = s.views := rfl
@[simp] theorem State.putRaw_tlb (s : State) (l : Loc) (b : Byte) (p : Bool) : (s.putRaw l b p).tlb = s.tlb := rfl
@[simp] theorem State.putRaw_dir (s : State) (l : Loc) (b : Byte) (p : Bool) : (s.putRaw l b p).dir = s.dir := rfl
@[simp] theorem State.putRaw_bridge (s : State) (l : Loc) (b : Byte) (p : Bool) : (s.putRaw l b p).bridge = s.bridge := rfl
@[simp] theorem State.putRaw_hostReqs (s : State) (l : Loc) (b : Byte) (p : Bool) : (s.putRaw l b p).hostReqs = s.hostReqs := rfl
@[simp] theorem State.putRaw_snoops (s : State) (l : Loc) (b : Byte) (p : Bool) : (s.putRaw l b p).snoops = s.snoops := rfl
@[simp] theorem State.putRaw_colls (s : State) (l : Loc) (b : Byte) (p : Bool) : (s.putRaw l b p).colls = s.colls := rfl
@[simp] theorem State.putRaw_steals (s : State) (l : Loc) (b : Byte) (p : Bool) : (s.putRaw l b p).steals = s.steals := rfl
@[simp] theorem State.putRaw_scOrder (s : State) (l : Loc) (b : Byte) (p : Bool) : (s.putRaw l b p).scOrder = s.scOrder := rfl
@[simp] theorem State.putRaw_ports (s : State) (l : Loc) (b : Byte) (p : Bool) : (s.putRaw l b p).ports = s.ports := rfl
@[simp] theorem State.putRaw_links (s : State) (l : Loc) (b : Byte) (p : Bool) : (s.putRaw l b p).links = s.links := rfl
@[simp] theorem State.putRaw_performed (s : State) (l : Loc) (b : Byte) (p : Bool) : (s.putRaw l b p).performed = s.performed := rfl
@[simp] theorem State.putRaw_firewall (s : State) (l : Loc) (b : Byte) (p : Bool) : (s.putRaw l b p).firewall = s.firewall := rfl
@[simp] theorem State.putRaw_partitions (s : State) (l : Loc) (b : Byte) (p : Bool) : (s.putRaw l b p).partitions = s.partitions := rfl
@[simp] theorem State.putRaw_slices (s : State) (l : Loc) (b : Byte) (p : Bool) : (s.putRaw l b p).slices = s.slices := rfl
@[simp] theorem State.putRaw_pfWr (s : State) (l : Loc) (b : Byte) (p : Bool) : (s.putRaw l b p).pfWr = s.pfWr := rfl
@[simp] theorem State.putRaw_pfRd (s : State) (l : Loc) (b : Byte) (p : Bool) : (s.putRaw l b p).pfRd = s.pfRd := rfl
@[simp] theorem State.putRaw_pfHeld (s : State) (l : Loc) (b : Byte) (p : Bool) : (s.putRaw l b p).pfHeld = s.pfHeld := rfl
@[simp] theorem State.putRaw_msix (s : State) (l : Loc) (b : Byte) (p : Bool) : (s.putRaw l b p).msix = s.msix := rfl
@[simp] theorem State.putRaw_modules (s : State) (l : Loc) (b : Byte) (p : Bool) : (s.putRaw l b p).modules = s.modules := rfl
@[simp] theorem State.putRaw_recovery (s : State) (l : Loc) (b : Byte) (p : Bool) : (s.putRaw l b p).recovery = s.recovery := rfl
@[simp] theorem State.putRaw_started (s : State) (l : Loc) (b : Byte) (p : Bool) : (s.putRaw l b p).started = s.started := rfl
@[simp] theorem State.putRaw_keys (s : State) (l : Loc) (b : Byte) (p : Bool) : (s.putRaw l b p).keys = s.keys := rfl
@[simp] theorem State.putRaw_moves (s : State) (l : Loc) (b : Byte) (p : Bool) : (s.putRaw l b p).moves = s.moves := rfl
@[simp] theorem State.putRaw_owners (s : State) (l : Loc) (b : Byte) (p : Bool) : (s.putRaw l b p).owners = s.owners := rfl
@[simp] theorem State.putRaw_marked (s : State) (l : Loc) (b : Byte) (p : Bool) : (s.putRaw l b p).marked = s.marked := rfl
@[simp] theorem State.putRaw_ranges (s : State) (l : Loc) (b : Byte) (p : Bool) : (s.putRaw l b p).ranges = s.ranges := rfl
@[simp] theorem State.putRaw_windows (s : State) (l : Loc) (b : Byte) (p : Bool) : (s.putRaw l b p).windows = s.windows := rfl
@[simp] theorem State.putRaw_islands (s : State) (l : Loc) (b : Byte) (p : Bool) : (s.putRaw l b p).islands = s.islands := rfl
@[simp] theorem State.putRaw_skew (s : State) (l : Loc) (b : Byte) (p : Bool) : (s.putRaw l b p).skew = s.skew := rfl
@[simp] theorem State.putRaw_ceiling (s : State) (l : Loc) (b : Byte) (p : Bool) : (s.putRaw l b p).ceiling = s.ceiling := rfl
@[simp] theorem State.putRaw_record (s : State) (l : Loc) (b : Byte) (p : Bool) : (s.putRaw l b p).record = s.record := rfl
@[simp] theorem State.putRaw_binding (s : State) (l : Loc) (b : Byte) (p : Bool) : (s.putRaw l b p).binding = s.binding := rfl
@[simp] theorem State.putRaw_reply (s : State) (l : Loc) (b : Byte) (p : Bool) : (s.putRaw l b p).reply = s.reply := rfl
@[simp] theorem State.putRaw_words (s : State) (l : Loc) (b : Byte) (p : Bool) : (s.putRaw l b p).words = s.words := rfl
@[simp] theorem State.putRaw_listing (s : State) (l : Loc) (b : Byte) (p : Bool) : (s.putRaw l b p).listing = s.listing := rfl
@[simp] theorem State.putRaw_notes (s : State) (l : Loc) (b : Byte) (p : Bool) : (s.putRaw l b p).notes = s.notes := rfl
@[simp] theorem State.putRaw_trace (s : State) (l : Loc) (b : Byte) (p : Bool) : (s.putRaw l b p).trace = s.trace := rfl
@[simp] theorem State.putRaw_exchanges (s : State) (l : Loc) (b : Byte) (p : Bool) : (s.putRaw l b p).exchanges = s.exchanges := rfl
@[simp] theorem State.putRaw_mem (s : State) (l : Loc) (b : Byte) (p : Bool) : (s.putRaw l b p).mem = memSet s.mem l.key b := rfl
@[simp] theorem State.putRaw_bad (s : State) (l : Loc) (b : Byte) (p : Bool) : (s.putRaw l b p).bad = keyPut s.bad l.key p := rfl
@[simp] theorem State.zero_time (s : State) (l : Loc) (n : Nat) : (s.zero l n).time = s.time := rfl
@[simp] theorem State.zero_pace (s : State) (l : Loc) (n : Nat) : (s.zero l n).pace = s.pace := rfl
@[simp] theorem State.zero_inputs (s : State) (l : Loc) (n : Nat) : (s.zero l n).inputs = s.inputs := rfl
@[simp] theorem State.zero_turns (s : State) (l : Loc) (n : Nat) : (s.zero l n).turns = s.turns := rfl
@[simp] theorem State.zero_evTurn (s : State) (l : Loc) (n : Nat) : (s.zero l n).evTurn = s.evTurn := rfl
@[simp] theorem State.zero_free (s : State) (l : Loc) (n : Nat) : (s.zero l n).free = s.free := rfl
@[simp] theorem State.zero_seq (s : State) (l : Loc) (n : Nat) : (s.zero l n).seq = s.seq := rfl
@[simp] theorem State.zero_cur (s : State) (l : Loc) (n : Nat) : (s.zero l n).cur = s.cur := rfl
@[simp] theorem State.zero_latches (s : State) (l : Loc) (n : Nat) : (s.zero l n).latches = s.latches := rfl
@[simp] theorem State.zero_waves (s : State) (l : Loc) (n : Nat) : (s.zero l n).waves = s.waves := rfl
@[simp] theorem State.zero_gangs (s : State) (l : Loc) (n : Nat) : (s.zero l n).gangs = s.gangs := rfl
@[simp] theorem State.zero_launches (s : State) (l : Loc) (n : Nat) : (s.zero l n).launches = s.launches := rfl
@[simp] theorem State.zero_vds (s : State) (l : Loc) (n : Nat) : (s.zero l n).vds = s.vds := rfl
@[simp] theorem State.zero_tasks (s : State) (l : Loc) (n : Nat) : (s.zero l n).tasks = s.tasks := rfl
@[simp] theorem State.zero_flight (s : State) (l : Loc) (n : Nat) : (s.zero l n).flight = s.flight := rfl
@[simp] theorem State.zero_homes (s : State) (l : Loc) (n : Nat) : (s.zero l n).homes = s.homes := rfl
@[simp] theorem State.zero_copies (s : State) (l : Loc) (n : Nat) : (s.zero l n).copies = s.copies := rfl
@[simp] theorem State.zero_privHeld (s : State) (l : Loc) (n : Nat) : (s.zero l n).privHeld = s.privHeld := rfl
@[simp] theorem State.zero_llc (s : State) (l : Loc) (n : Nat) : (s.zero l n).llc = s.llc := rfl
@[simp] theorem State.zero_atomLog (s : State) (l : Loc) (n : Nat) : (s.zero l n).atomLog = s.atomLog := rfl
@[simp] theorem State.zero_sectors (s : State) (l : Loc) (n : Nat) : (s.zero l n).sectors = s.sectors := rfl
@[simp] theorem State.zero_views (s : State) (l : Loc) (n : Nat) : (s.zero l n).views = s.views := rfl
@[simp] theorem State.zero_tlb (s : State) (l : Loc) (n : Nat) : (s.zero l n).tlb = s.tlb := rfl
@[simp] theorem State.zero_dir (s : State) (l : Loc) (n : Nat) : (s.zero l n).dir = s.dir := rfl
@[simp] theorem State.zero_bridge (s : State) (l : Loc) (n : Nat) : (s.zero l n).bridge = s.bridge := rfl
@[simp] theorem State.zero_hostReqs (s : State) (l : Loc) (n : Nat) : (s.zero l n).hostReqs = s.hostReqs := rfl
@[simp] theorem State.zero_snoops (s : State) (l : Loc) (n : Nat) : (s.zero l n).snoops = s.snoops := rfl
@[simp] theorem State.zero_colls (s : State) (l : Loc) (n : Nat) : (s.zero l n).colls = s.colls := rfl
@[simp] theorem State.zero_steals (s : State) (l : Loc) (n : Nat) : (s.zero l n).steals = s.steals := rfl
@[simp] theorem State.zero_scOrder (s : State) (l : Loc) (n : Nat) : (s.zero l n).scOrder = s.scOrder := rfl
@[simp] theorem State.zero_ports (s : State) (l : Loc) (n : Nat) : (s.zero l n).ports = s.ports := rfl
@[simp] theorem State.zero_links (s : State) (l : Loc) (n : Nat) : (s.zero l n).links = s.links := rfl
@[simp] theorem State.zero_performed (s : State) (l : Loc) (n : Nat) : (s.zero l n).performed = s.performed := rfl
@[simp] theorem State.zero_firewall (s : State) (l : Loc) (n : Nat) : (s.zero l n).firewall = s.firewall := rfl
@[simp] theorem State.zero_partitions (s : State) (l : Loc) (n : Nat) : (s.zero l n).partitions = s.partitions := rfl
@[simp] theorem State.zero_slices (s : State) (l : Loc) (n : Nat) : (s.zero l n).slices = s.slices := rfl
@[simp] theorem State.zero_pfWr (s : State) (l : Loc) (n : Nat) : (s.zero l n).pfWr = s.pfWr := rfl
@[simp] theorem State.zero_pfRd (s : State) (l : Loc) (n : Nat) : (s.zero l n).pfRd = s.pfRd := rfl
@[simp] theorem State.zero_pfHeld (s : State) (l : Loc) (n : Nat) : (s.zero l n).pfHeld = s.pfHeld := rfl
@[simp] theorem State.zero_msix (s : State) (l : Loc) (n : Nat) : (s.zero l n).msix = s.msix := rfl
@[simp] theorem State.zero_modules (s : State) (l : Loc) (n : Nat) : (s.zero l n).modules = s.modules := rfl
@[simp] theorem State.zero_recovery (s : State) (l : Loc) (n : Nat) : (s.zero l n).recovery = s.recovery := rfl
@[simp] theorem State.zero_started (s : State) (l : Loc) (n : Nat) : (s.zero l n).started = s.started := rfl
@[simp] theorem State.zero_keys (s : State) (l : Loc) (n : Nat) : (s.zero l n).keys = s.keys := rfl
@[simp] theorem State.zero_moves (s : State) (l : Loc) (n : Nat) : (s.zero l n).moves = s.moves := rfl
@[simp] theorem State.zero_owners (s : State) (l : Loc) (n : Nat) : (s.zero l n).owners = s.owners := rfl
@[simp] theorem State.zero_marked (s : State) (l : Loc) (n : Nat) : (s.zero l n).marked = s.marked := rfl
@[simp] theorem State.zero_ranges (s : State) (l : Loc) (n : Nat) : (s.zero l n).ranges = s.ranges := rfl
@[simp] theorem State.zero_windows (s : State) (l : Loc) (n : Nat) : (s.zero l n).windows = s.windows := rfl
@[simp] theorem State.zero_islands (s : State) (l : Loc) (n : Nat) : (s.zero l n).islands = s.islands := rfl
@[simp] theorem State.zero_skew (s : State) (l : Loc) (n : Nat) : (s.zero l n).skew = s.skew := rfl
@[simp] theorem State.zero_ceiling (s : State) (l : Loc) (n : Nat) : (s.zero l n).ceiling = s.ceiling := rfl
@[simp] theorem State.zero_record (s : State) (l : Loc) (n : Nat) : (s.zero l n).record = s.record := rfl
@[simp] theorem State.zero_binding (s : State) (l : Loc) (n : Nat) : (s.zero l n).binding = s.binding := rfl
@[simp] theorem State.zero_reply (s : State) (l : Loc) (n : Nat) : (s.zero l n).reply = s.reply := rfl
@[simp] theorem State.zero_words (s : State) (l : Loc) (n : Nat) : (s.zero l n).words = s.words := rfl
@[simp] theorem State.zero_listing (s : State) (l : Loc) (n : Nat) : (s.zero l n).listing = s.listing := rfl
@[simp] theorem State.zero_notes (s : State) (l : Loc) (n : Nat) : (s.zero l n).notes = s.notes := rfl
@[simp] theorem State.zero_trace (s : State) (l : Loc) (n : Nat) : (s.zero l n).trace = s.trace := rfl
@[simp] theorem State.zero_exchanges (s : State) (l : Loc) (n : Nat) : (s.zero l n).exchanges = s.exchanges := rfl
@[simp] theorem State.setHome_time (s : State) (h : Home) : (s.setHome h).time = s.time := rfl
@[simp] theorem State.setHome_pace (s : State) (h : Home) : (s.setHome h).pace = s.pace := rfl
@[simp] theorem State.setHome_inputs (s : State) (h : Home) : (s.setHome h).inputs = s.inputs := rfl
@[simp] theorem State.setHome_turns (s : State) (h : Home) : (s.setHome h).turns = s.turns := rfl
@[simp] theorem State.setHome_evTurn (s : State) (h : Home) : (s.setHome h).evTurn = s.evTurn := rfl
@[simp] theorem State.setHome_free (s : State) (h : Home) : (s.setHome h).free = s.free := rfl
@[simp] theorem State.setHome_seq (s : State) (h : Home) : (s.setHome h).seq = s.seq := rfl
@[simp] theorem State.setHome_cur (s : State) (h : Home) : (s.setHome h).cur = s.cur := rfl
@[simp] theorem State.setHome_latches (s : State) (h : Home) : (s.setHome h).latches = s.latches := rfl
@[simp] theorem State.setHome_waves (s : State) (h : Home) : (s.setHome h).waves = s.waves := rfl
@[simp] theorem State.setHome_gangs (s : State) (h : Home) : (s.setHome h).gangs = s.gangs := rfl
@[simp] theorem State.setHome_launches (s : State) (h : Home) : (s.setHome h).launches = s.launches := rfl
@[simp] theorem State.setHome_vds (s : State) (h : Home) : (s.setHome h).vds = s.vds := rfl
@[simp] theorem State.setHome_tasks (s : State) (h : Home) : (s.setHome h).tasks = s.tasks := rfl
@[simp] theorem State.setHome_mem (s : State) (h : Home) : (s.setHome h).mem = s.mem := rfl
@[simp] theorem State.setHome_bad (s : State) (h : Home) : (s.setHome h).bad = s.bad := rfl
@[simp] theorem State.setHome_flight (s : State) (h : Home) : (s.setHome h).flight = s.flight := rfl
@[simp] theorem State.setHome_copies (s : State) (h : Home) : (s.setHome h).copies = s.copies := rfl
@[simp] theorem State.setHome_privHeld (s : State) (h : Home) : (s.setHome h).privHeld = s.privHeld := rfl
@[simp] theorem State.setHome_llc (s : State) (h : Home) : (s.setHome h).llc = s.llc := rfl
@[simp] theorem State.setHome_atomLog (s : State) (h : Home) : (s.setHome h).atomLog = s.atomLog := rfl
@[simp] theorem State.setHome_sectors (s : State) (h : Home) : (s.setHome h).sectors = s.sectors := rfl
@[simp] theorem State.setHome_views (s : State) (h : Home) : (s.setHome h).views = s.views := rfl
@[simp] theorem State.setHome_tlb (s : State) (h : Home) : (s.setHome h).tlb = s.tlb := rfl
@[simp] theorem State.setHome_dir (s : State) (h : Home) : (s.setHome h).dir = s.dir := rfl
@[simp] theorem State.setHome_bridge (s : State) (h : Home) : (s.setHome h).bridge = s.bridge := rfl
@[simp] theorem State.setHome_hostReqs (s : State) (h : Home) : (s.setHome h).hostReqs = s.hostReqs := rfl
@[simp] theorem State.setHome_snoops (s : State) (h : Home) : (s.setHome h).snoops = s.snoops := rfl
@[simp] theorem State.setHome_colls (s : State) (h : Home) : (s.setHome h).colls = s.colls := rfl
@[simp] theorem State.setHome_steals (s : State) (h : Home) : (s.setHome h).steals = s.steals := rfl
@[simp] theorem State.setHome_scOrder (s : State) (h : Home) : (s.setHome h).scOrder = s.scOrder := rfl
@[simp] theorem State.setHome_ports (s : State) (h : Home) : (s.setHome h).ports = s.ports := rfl
@[simp] theorem State.setHome_links (s : State) (h : Home) : (s.setHome h).links = s.links := rfl
@[simp] theorem State.setHome_performed (s : State) (h : Home) : (s.setHome h).performed = s.performed := rfl
@[simp] theorem State.setHome_firewall (s : State) (h : Home) : (s.setHome h).firewall = s.firewall := rfl
@[simp] theorem State.setHome_partitions (s : State) (h : Home) : (s.setHome h).partitions = s.partitions := rfl
@[simp] theorem State.setHome_slices (s : State) (h : Home) : (s.setHome h).slices = s.slices := rfl
@[simp] theorem State.setHome_pfWr (s : State) (h : Home) : (s.setHome h).pfWr = s.pfWr := rfl
@[simp] theorem State.setHome_pfRd (s : State) (h : Home) : (s.setHome h).pfRd = s.pfRd := rfl
@[simp] theorem State.setHome_pfHeld (s : State) (h : Home) : (s.setHome h).pfHeld = s.pfHeld := rfl
@[simp] theorem State.setHome_msix (s : State) (h : Home) : (s.setHome h).msix = s.msix := rfl
@[simp] theorem State.setHome_modules (s : State) (h : Home) : (s.setHome h).modules = s.modules := rfl
@[simp] theorem State.setHome_recovery (s : State) (h : Home) : (s.setHome h).recovery = s.recovery := rfl
@[simp] theorem State.setHome_started (s : State) (h : Home) : (s.setHome h).started = s.started := rfl
@[simp] theorem State.setHome_keys (s : State) (h : Home) : (s.setHome h).keys = s.keys := rfl
@[simp] theorem State.setHome_moves (s : State) (h : Home) : (s.setHome h).moves = s.moves := rfl
@[simp] theorem State.setHome_owners (s : State) (h : Home) : (s.setHome h).owners = s.owners := rfl
@[simp] theorem State.setHome_marked (s : State) (h : Home) : (s.setHome h).marked = s.marked := rfl
@[simp] theorem State.setHome_ranges (s : State) (h : Home) : (s.setHome h).ranges = s.ranges := rfl
@[simp] theorem State.setHome_windows (s : State) (h : Home) : (s.setHome h).windows = s.windows := rfl
@[simp] theorem State.setHome_islands (s : State) (h : Home) : (s.setHome h).islands = s.islands := rfl
@[simp] theorem State.setHome_skew (s : State) (h : Home) : (s.setHome h).skew = s.skew := rfl
@[simp] theorem State.setHome_ceiling (s : State) (h : Home) : (s.setHome h).ceiling = s.ceiling := rfl
@[simp] theorem State.setHome_record (s : State) (h : Home) : (s.setHome h).record = s.record := rfl
@[simp] theorem State.setHome_binding (s : State) (h : Home) : (s.setHome h).binding = s.binding := rfl
@[simp] theorem State.setHome_reply (s : State) (h : Home) : (s.setHome h).reply = s.reply := rfl
@[simp] theorem State.setHome_words (s : State) (h : Home) : (s.setHome h).words = s.words := rfl
@[simp] theorem State.setHome_listing (s : State) (h : Home) : (s.setHome h).listing = s.listing := rfl
@[simp] theorem State.setHome_notes (s : State) (h : Home) : (s.setHome h).notes = s.notes := rfl
@[simp] theorem State.setHome_trace (s : State) (h : Home) : (s.setHome h).trace = s.trace := rfl
@[simp] theorem State.setHome_exchanges (s : State) (h : Home) : (s.setHome h).exchanges = s.exchanges := rfl
@[simp] theorem State.setTask_time (s : State) (t : Task) : (s.setTask t).time = s.time := rfl
@[simp] theorem State.setTask_pace (s : State) (t : Task) : (s.setTask t).pace = s.pace := rfl
@[simp] theorem State.setTask_inputs (s : State) (t : Task) : (s.setTask t).inputs = s.inputs := rfl
@[simp] theorem State.setTask_turns (s : State) (t : Task) : (s.setTask t).turns = s.turns := rfl
@[simp] theorem State.setTask_evTurn (s : State) (t : Task) : (s.setTask t).evTurn = s.evTurn := rfl
@[simp] theorem State.setTask_free (s : State) (t : Task) : (s.setTask t).free = s.free := rfl
@[simp] theorem State.setTask_seq (s : State) (t : Task) : (s.setTask t).seq = s.seq := rfl
@[simp] theorem State.setTask_cur (s : State) (t : Task) : (s.setTask t).cur = s.cur := rfl
@[simp] theorem State.setTask_latches (s : State) (t : Task) : (s.setTask t).latches = s.latches := rfl
@[simp] theorem State.setTask_waves (s : State) (t : Task) : (s.setTask t).waves = s.waves := rfl
@[simp] theorem State.setTask_gangs (s : State) (t : Task) : (s.setTask t).gangs = s.gangs := rfl
@[simp] theorem State.setTask_launches (s : State) (t : Task) : (s.setTask t).launches = s.launches := rfl
@[simp] theorem State.setTask_vds (s : State) (t : Task) : (s.setTask t).vds = s.vds := rfl
@[simp] theorem State.setTask_mem (s : State) (t : Task) : (s.setTask t).mem = s.mem := rfl
@[simp] theorem State.setTask_bad (s : State) (t : Task) : (s.setTask t).bad = s.bad := rfl
@[simp] theorem State.setTask_flight (s : State) (t : Task) : (s.setTask t).flight = s.flight := rfl
@[simp] theorem State.setTask_homes (s : State) (t : Task) : (s.setTask t).homes = s.homes := rfl
@[simp] theorem State.setTask_copies (s : State) (t : Task) : (s.setTask t).copies = s.copies := rfl
@[simp] theorem State.setTask_privHeld (s : State) (t : Task) : (s.setTask t).privHeld = s.privHeld := rfl
@[simp] theorem State.setTask_llc (s : State) (t : Task) : (s.setTask t).llc = s.llc := rfl
@[simp] theorem State.setTask_atomLog (s : State) (t : Task) : (s.setTask t).atomLog = s.atomLog := rfl
@[simp] theorem State.setTask_sectors (s : State) (t : Task) : (s.setTask t).sectors = s.sectors := rfl
@[simp] theorem State.setTask_views (s : State) (t : Task) : (s.setTask t).views = s.views := rfl
@[simp] theorem State.setTask_tlb (s : State) (t : Task) : (s.setTask t).tlb = s.tlb := rfl
@[simp] theorem State.setTask_dir (s : State) (t : Task) : (s.setTask t).dir = s.dir := rfl
@[simp] theorem State.setTask_bridge (s : State) (t : Task) : (s.setTask t).bridge = s.bridge := rfl
@[simp] theorem State.setTask_hostReqs (s : State) (t : Task) : (s.setTask t).hostReqs = s.hostReqs := rfl
@[simp] theorem State.setTask_snoops (s : State) (t : Task) : (s.setTask t).snoops = s.snoops := rfl
@[simp] theorem State.setTask_colls (s : State) (t : Task) : (s.setTask t).colls = s.colls := rfl
@[simp] theorem State.setTask_steals (s : State) (t : Task) : (s.setTask t).steals = s.steals := rfl
@[simp] theorem State.setTask_scOrder (s : State) (t : Task) : (s.setTask t).scOrder = s.scOrder := rfl
@[simp] theorem State.setTask_ports (s : State) (t : Task) : (s.setTask t).ports = s.ports := rfl
@[simp] theorem State.setTask_links (s : State) (t : Task) : (s.setTask t).links = s.links := rfl
@[simp] theorem State.setTask_performed (s : State) (t : Task) : (s.setTask t).performed = s.performed := rfl
@[simp] theorem State.setTask_firewall (s : State) (t : Task) : (s.setTask t).firewall = s.firewall := rfl
@[simp] theorem State.setTask_partitions (s : State) (t : Task) : (s.setTask t).partitions = s.partitions := rfl
@[simp] theorem State.setTask_slices (s : State) (t : Task) : (s.setTask t).slices = s.slices := rfl
@[simp] theorem State.setTask_pfWr (s : State) (t : Task) : (s.setTask t).pfWr = s.pfWr := rfl
@[simp] theorem State.setTask_pfRd (s : State) (t : Task) : (s.setTask t).pfRd = s.pfRd := rfl
@[simp] theorem State.setTask_pfHeld (s : State) (t : Task) : (s.setTask t).pfHeld = s.pfHeld := rfl
@[simp] theorem State.setTask_msix (s : State) (t : Task) : (s.setTask t).msix = s.msix := rfl
@[simp] theorem State.setTask_modules (s : State) (t : Task) : (s.setTask t).modules = s.modules := rfl
@[simp] theorem State.setTask_recovery (s : State) (t : Task) : (s.setTask t).recovery = s.recovery := rfl
@[simp] theorem State.setTask_started (s : State) (t : Task) : (s.setTask t).started = s.started := rfl
@[simp] theorem State.setTask_keys (s : State) (t : Task) : (s.setTask t).keys = s.keys := rfl
@[simp] theorem State.setTask_moves (s : State) (t : Task) : (s.setTask t).moves = s.moves := rfl
@[simp] theorem State.setTask_owners (s : State) (t : Task) : (s.setTask t).owners = s.owners := rfl
@[simp] theorem State.setTask_marked (s : State) (t : Task) : (s.setTask t).marked = s.marked := rfl
@[simp] theorem State.setTask_ranges (s : State) (t : Task) : (s.setTask t).ranges = s.ranges := rfl
@[simp] theorem State.setTask_windows (s : State) (t : Task) : (s.setTask t).windows = s.windows := rfl
@[simp] theorem State.setTask_islands (s : State) (t : Task) : (s.setTask t).islands = s.islands := rfl
@[simp] theorem State.setTask_skew (s : State) (t : Task) : (s.setTask t).skew = s.skew := rfl
@[simp] theorem State.setTask_ceiling (s : State) (t : Task) : (s.setTask t).ceiling = s.ceiling := rfl
@[simp] theorem State.setTask_record (s : State) (t : Task) : (s.setTask t).record = s.record := rfl
@[simp] theorem State.setTask_binding (s : State) (t : Task) : (s.setTask t).binding = s.binding := rfl
@[simp] theorem State.setTask_reply (s : State) (t : Task) : (s.setTask t).reply = s.reply := rfl
@[simp] theorem State.setTask_words (s : State) (t : Task) : (s.setTask t).words = s.words := rfl
@[simp] theorem State.setTask_listing (s : State) (t : Task) : (s.setTask t).listing = s.listing := rfl
@[simp] theorem State.setTask_notes (s : State) (t : Task) : (s.setTask t).notes = s.notes := rfl
@[simp] theorem State.setTask_trace (s : State) (t : Task) : (s.setTask t).trace = s.trace := rfl
@[simp] theorem State.setTask_exchanges (s : State) (t : Task) : (s.setTask t).exchanges = s.exchanges := rfl
@[simp] theorem State.setDir_time (s : State) (h : Nat) (v : Option HalfSt) : (s.setDir h v).time = s.time := rfl
@[simp] theorem State.setDir_pace (s : State) (h : Nat) (v : Option HalfSt) : (s.setDir h v).pace = s.pace := rfl
@[simp] theorem State.setDir_inputs (s : State) (h : Nat) (v : Option HalfSt) : (s.setDir h v).inputs = s.inputs := rfl
@[simp] theorem State.setDir_turns (s : State) (h : Nat) (v : Option HalfSt) : (s.setDir h v).turns = s.turns := rfl
@[simp] theorem State.setDir_evTurn (s : State) (h : Nat) (v : Option HalfSt) : (s.setDir h v).evTurn = s.evTurn := rfl
@[simp] theorem State.setDir_free (s : State) (h : Nat) (v : Option HalfSt) : (s.setDir h v).free = s.free := rfl
@[simp] theorem State.setDir_seq (s : State) (h : Nat) (v : Option HalfSt) : (s.setDir h v).seq = s.seq := rfl
@[simp] theorem State.setDir_cur (s : State) (h : Nat) (v : Option HalfSt) : (s.setDir h v).cur = s.cur := rfl
@[simp] theorem State.setDir_latches (s : State) (h : Nat) (v : Option HalfSt) : (s.setDir h v).latches = s.latches := rfl
@[simp] theorem State.setDir_waves (s : State) (h : Nat) (v : Option HalfSt) : (s.setDir h v).waves = s.waves := rfl
@[simp] theorem State.setDir_gangs (s : State) (h : Nat) (v : Option HalfSt) : (s.setDir h v).gangs = s.gangs := rfl
@[simp] theorem State.setDir_launches (s : State) (h : Nat) (v : Option HalfSt) : (s.setDir h v).launches = s.launches := rfl
@[simp] theorem State.setDir_vds (s : State) (h : Nat) (v : Option HalfSt) : (s.setDir h v).vds = s.vds := rfl
@[simp] theorem State.setDir_tasks (s : State) (h : Nat) (v : Option HalfSt) : (s.setDir h v).tasks = s.tasks := rfl
@[simp] theorem State.setDir_mem (s : State) (h : Nat) (v : Option HalfSt) : (s.setDir h v).mem = s.mem := rfl
@[simp] theorem State.setDir_bad (s : State) (h : Nat) (v : Option HalfSt) : (s.setDir h v).bad = s.bad := rfl
@[simp] theorem State.setDir_flight (s : State) (h : Nat) (v : Option HalfSt) : (s.setDir h v).flight = s.flight := rfl
@[simp] theorem State.setDir_homes (s : State) (h : Nat) (v : Option HalfSt) : (s.setDir h v).homes = s.homes := rfl
@[simp] theorem State.setDir_copies (s : State) (h : Nat) (v : Option HalfSt) : (s.setDir h v).copies = s.copies := rfl
@[simp] theorem State.setDir_privHeld (s : State) (h : Nat) (v : Option HalfSt) : (s.setDir h v).privHeld = s.privHeld := rfl
@[simp] theorem State.setDir_llc (s : State) (h : Nat) (v : Option HalfSt) : (s.setDir h v).llc = s.llc := rfl
@[simp] theorem State.setDir_atomLog (s : State) (h : Nat) (v : Option HalfSt) : (s.setDir h v).atomLog = s.atomLog := rfl
@[simp] theorem State.setDir_sectors (s : State) (h : Nat) (v : Option HalfSt) : (s.setDir h v).sectors = s.sectors := rfl
@[simp] theorem State.setDir_views (s : State) (h : Nat) (v : Option HalfSt) : (s.setDir h v).views = s.views := rfl
@[simp] theorem State.setDir_tlb (s : State) (h : Nat) (v : Option HalfSt) : (s.setDir h v).tlb = s.tlb := rfl
@[simp] theorem State.setDir_bridge (s : State) (h : Nat) (v : Option HalfSt) : (s.setDir h v).bridge = s.bridge := rfl
@[simp] theorem State.setDir_hostReqs (s : State) (h : Nat) (v : Option HalfSt) : (s.setDir h v).hostReqs = s.hostReqs := rfl
@[simp] theorem State.setDir_snoops (s : State) (h : Nat) (v : Option HalfSt) : (s.setDir h v).snoops = s.snoops := rfl
@[simp] theorem State.setDir_colls (s : State) (h : Nat) (v : Option HalfSt) : (s.setDir h v).colls = s.colls := rfl
@[simp] theorem State.setDir_steals (s : State) (h : Nat) (v : Option HalfSt) : (s.setDir h v).steals = s.steals := rfl
@[simp] theorem State.setDir_scOrder (s : State) (h : Nat) (v : Option HalfSt) : (s.setDir h v).scOrder = s.scOrder := rfl
@[simp] theorem State.setDir_ports (s : State) (h : Nat) (v : Option HalfSt) : (s.setDir h v).ports = s.ports := rfl
@[simp] theorem State.setDir_links (s : State) (h : Nat) (v : Option HalfSt) : (s.setDir h v).links = s.links := rfl
@[simp] theorem State.setDir_performed (s : State) (h : Nat) (v : Option HalfSt) : (s.setDir h v).performed = s.performed := rfl
@[simp] theorem State.setDir_firewall (s : State) (h : Nat) (v : Option HalfSt) : (s.setDir h v).firewall = s.firewall := rfl
@[simp] theorem State.setDir_partitions (s : State) (h : Nat) (v : Option HalfSt) : (s.setDir h v).partitions = s.partitions := rfl
@[simp] theorem State.setDir_slices (s : State) (h : Nat) (v : Option HalfSt) : (s.setDir h v).slices = s.slices := rfl
@[simp] theorem State.setDir_pfWr (s : State) (h : Nat) (v : Option HalfSt) : (s.setDir h v).pfWr = s.pfWr := rfl
@[simp] theorem State.setDir_pfRd (s : State) (h : Nat) (v : Option HalfSt) : (s.setDir h v).pfRd = s.pfRd := rfl
@[simp] theorem State.setDir_pfHeld (s : State) (h : Nat) (v : Option HalfSt) : (s.setDir h v).pfHeld = s.pfHeld := rfl
@[simp] theorem State.setDir_msix (s : State) (h : Nat) (v : Option HalfSt) : (s.setDir h v).msix = s.msix := rfl
@[simp] theorem State.setDir_modules (s : State) (h : Nat) (v : Option HalfSt) : (s.setDir h v).modules = s.modules := rfl
@[simp] theorem State.setDir_recovery (s : State) (h : Nat) (v : Option HalfSt) : (s.setDir h v).recovery = s.recovery := rfl
@[simp] theorem State.setDir_started (s : State) (h : Nat) (v : Option HalfSt) : (s.setDir h v).started = s.started := rfl
@[simp] theorem State.setDir_keys (s : State) (h : Nat) (v : Option HalfSt) : (s.setDir h v).keys = s.keys := rfl
@[simp] theorem State.setDir_moves (s : State) (h : Nat) (v : Option HalfSt) : (s.setDir h v).moves = s.moves := rfl
@[simp] theorem State.setDir_owners (s : State) (h : Nat) (v : Option HalfSt) : (s.setDir h v).owners = s.owners := rfl
@[simp] theorem State.setDir_marked (s : State) (h : Nat) (v : Option HalfSt) : (s.setDir h v).marked = s.marked := rfl
@[simp] theorem State.setDir_ranges (s : State) (h : Nat) (v : Option HalfSt) : (s.setDir h v).ranges = s.ranges := rfl
@[simp] theorem State.setDir_windows (s : State) (h : Nat) (v : Option HalfSt) : (s.setDir h v).windows = s.windows := rfl
@[simp] theorem State.setDir_islands (s : State) (h : Nat) (v : Option HalfSt) : (s.setDir h v).islands = s.islands := rfl
@[simp] theorem State.setDir_skew (s : State) (h : Nat) (v : Option HalfSt) : (s.setDir h v).skew = s.skew := rfl
@[simp] theorem State.setDir_ceiling (s : State) (h : Nat) (v : Option HalfSt) : (s.setDir h v).ceiling = s.ceiling := rfl
@[simp] theorem State.setDir_record (s : State) (h : Nat) (v : Option HalfSt) : (s.setDir h v).record = s.record := rfl
@[simp] theorem State.setDir_binding (s : State) (h : Nat) (v : Option HalfSt) : (s.setDir h v).binding = s.binding := rfl
@[simp] theorem State.setDir_reply (s : State) (h : Nat) (v : Option HalfSt) : (s.setDir h v).reply = s.reply := rfl
@[simp] theorem State.setDir_words (s : State) (h : Nat) (v : Option HalfSt) : (s.setDir h v).words = s.words := rfl
@[simp] theorem State.setDir_listing (s : State) (h : Nat) (v : Option HalfSt) : (s.setDir h v).listing = s.listing := rfl
@[simp] theorem State.setDir_notes (s : State) (h : Nat) (v : Option HalfSt) : (s.setDir h v).notes = s.notes := rfl
@[simp] theorem State.setDir_trace (s : State) (h : Nat) (v : Option HalfSt) : (s.setDir h v).trace = s.trace := rfl
@[simp] theorem State.setDir_exchanges (s : State) (h : Nat) (v : Option HalfSt) : (s.setDir h v).exchanges = s.exchanges := rfl
@[simp] theorem State.setBridge_time (s : State) (h : Nat) (v : Option HalfSt) : (s.setBridge h v).time = s.time := rfl
@[simp] theorem State.setBridge_pace (s : State) (h : Nat) (v : Option HalfSt) : (s.setBridge h v).pace = s.pace := rfl
@[simp] theorem State.setBridge_inputs (s : State) (h : Nat) (v : Option HalfSt) : (s.setBridge h v).inputs = s.inputs := rfl
@[simp] theorem State.setBridge_turns (s : State) (h : Nat) (v : Option HalfSt) : (s.setBridge h v).turns = s.turns := rfl
@[simp] theorem State.setBridge_evTurn (s : State) (h : Nat) (v : Option HalfSt) : (s.setBridge h v).evTurn = s.evTurn := rfl
@[simp] theorem State.setBridge_free (s : State) (h : Nat) (v : Option HalfSt) : (s.setBridge h v).free = s.free := rfl
@[simp] theorem State.setBridge_seq (s : State) (h : Nat) (v : Option HalfSt) : (s.setBridge h v).seq = s.seq := rfl
@[simp] theorem State.setBridge_cur (s : State) (h : Nat) (v : Option HalfSt) : (s.setBridge h v).cur = s.cur := rfl
@[simp] theorem State.setBridge_latches (s : State) (h : Nat) (v : Option HalfSt) : (s.setBridge h v).latches = s.latches := rfl
@[simp] theorem State.setBridge_waves (s : State) (h : Nat) (v : Option HalfSt) : (s.setBridge h v).waves = s.waves := rfl
@[simp] theorem State.setBridge_gangs (s : State) (h : Nat) (v : Option HalfSt) : (s.setBridge h v).gangs = s.gangs := rfl
@[simp] theorem State.setBridge_launches (s : State) (h : Nat) (v : Option HalfSt) : (s.setBridge h v).launches = s.launches := rfl
@[simp] theorem State.setBridge_vds (s : State) (h : Nat) (v : Option HalfSt) : (s.setBridge h v).vds = s.vds := rfl
@[simp] theorem State.setBridge_tasks (s : State) (h : Nat) (v : Option HalfSt) : (s.setBridge h v).tasks = s.tasks := rfl
@[simp] theorem State.setBridge_mem (s : State) (h : Nat) (v : Option HalfSt) : (s.setBridge h v).mem = s.mem := rfl
@[simp] theorem State.setBridge_bad (s : State) (h : Nat) (v : Option HalfSt) : (s.setBridge h v).bad = s.bad := rfl
@[simp] theorem State.setBridge_flight (s : State) (h : Nat) (v : Option HalfSt) : (s.setBridge h v).flight = s.flight := rfl
@[simp] theorem State.setBridge_homes (s : State) (h : Nat) (v : Option HalfSt) : (s.setBridge h v).homes = s.homes := rfl
@[simp] theorem State.setBridge_copies (s : State) (h : Nat) (v : Option HalfSt) : (s.setBridge h v).copies = s.copies := rfl
@[simp] theorem State.setBridge_privHeld (s : State) (h : Nat) (v : Option HalfSt) : (s.setBridge h v).privHeld = s.privHeld := rfl
@[simp] theorem State.setBridge_llc (s : State) (h : Nat) (v : Option HalfSt) : (s.setBridge h v).llc = s.llc := rfl
@[simp] theorem State.setBridge_atomLog (s : State) (h : Nat) (v : Option HalfSt) : (s.setBridge h v).atomLog = s.atomLog := rfl
@[simp] theorem State.setBridge_sectors (s : State) (h : Nat) (v : Option HalfSt) : (s.setBridge h v).sectors = s.sectors := rfl
@[simp] theorem State.setBridge_views (s : State) (h : Nat) (v : Option HalfSt) : (s.setBridge h v).views = s.views := rfl
@[simp] theorem State.setBridge_tlb (s : State) (h : Nat) (v : Option HalfSt) : (s.setBridge h v).tlb = s.tlb := rfl
@[simp] theorem State.setBridge_dir (s : State) (h : Nat) (v : Option HalfSt) : (s.setBridge h v).dir = s.dir := rfl
@[simp] theorem State.setBridge_hostReqs (s : State) (h : Nat) (v : Option HalfSt) : (s.setBridge h v).hostReqs = s.hostReqs := rfl
@[simp] theorem State.setBridge_snoops (s : State) (h : Nat) (v : Option HalfSt) : (s.setBridge h v).snoops = s.snoops := rfl
@[simp] theorem State.setBridge_colls (s : State) (h : Nat) (v : Option HalfSt) : (s.setBridge h v).colls = s.colls := rfl
@[simp] theorem State.setBridge_steals (s : State) (h : Nat) (v : Option HalfSt) : (s.setBridge h v).steals = s.steals := rfl
@[simp] theorem State.setBridge_scOrder (s : State) (h : Nat) (v : Option HalfSt) : (s.setBridge h v).scOrder = s.scOrder := rfl
@[simp] theorem State.setBridge_ports (s : State) (h : Nat) (v : Option HalfSt) : (s.setBridge h v).ports = s.ports := rfl
@[simp] theorem State.setBridge_links (s : State) (h : Nat) (v : Option HalfSt) : (s.setBridge h v).links = s.links := rfl
@[simp] theorem State.setBridge_performed (s : State) (h : Nat) (v : Option HalfSt) : (s.setBridge h v).performed = s.performed := rfl
@[simp] theorem State.setBridge_firewall (s : State) (h : Nat) (v : Option HalfSt) : (s.setBridge h v).firewall = s.firewall := rfl
@[simp] theorem State.setBridge_partitions (s : State) (h : Nat) (v : Option HalfSt) : (s.setBridge h v).partitions = s.partitions := rfl
@[simp] theorem State.setBridge_slices (s : State) (h : Nat) (v : Option HalfSt) : (s.setBridge h v).slices = s.slices := rfl
@[simp] theorem State.setBridge_pfWr (s : State) (h : Nat) (v : Option HalfSt) : (s.setBridge h v).pfWr = s.pfWr := rfl
@[simp] theorem State.setBridge_pfRd (s : State) (h : Nat) (v : Option HalfSt) : (s.setBridge h v).pfRd = s.pfRd := rfl
@[simp] theorem State.setBridge_pfHeld (s : State) (h : Nat) (v : Option HalfSt) : (s.setBridge h v).pfHeld = s.pfHeld := rfl
@[simp] theorem State.setBridge_msix (s : State) (h : Nat) (v : Option HalfSt) : (s.setBridge h v).msix = s.msix := rfl
@[simp] theorem State.setBridge_modules (s : State) (h : Nat) (v : Option HalfSt) : (s.setBridge h v).modules = s.modules := rfl
@[simp] theorem State.setBridge_recovery (s : State) (h : Nat) (v : Option HalfSt) : (s.setBridge h v).recovery = s.recovery := rfl
@[simp] theorem State.setBridge_started (s : State) (h : Nat) (v : Option HalfSt) : (s.setBridge h v).started = s.started := rfl
@[simp] theorem State.setBridge_keys (s : State) (h : Nat) (v : Option HalfSt) : (s.setBridge h v).keys = s.keys := rfl
@[simp] theorem State.setBridge_moves (s : State) (h : Nat) (v : Option HalfSt) : (s.setBridge h v).moves = s.moves := rfl
@[simp] theorem State.setBridge_owners (s : State) (h : Nat) (v : Option HalfSt) : (s.setBridge h v).owners = s.owners := rfl
@[simp] theorem State.setBridge_marked (s : State) (h : Nat) (v : Option HalfSt) : (s.setBridge h v).marked = s.marked := rfl
@[simp] theorem State.setBridge_ranges (s : State) (h : Nat) (v : Option HalfSt) : (s.setBridge h v).ranges = s.ranges := rfl
@[simp] theorem State.setBridge_windows (s : State) (h : Nat) (v : Option HalfSt) : (s.setBridge h v).windows = s.windows := rfl
@[simp] theorem State.setBridge_islands (s : State) (h : Nat) (v : Option HalfSt) : (s.setBridge h v).islands = s.islands := rfl
@[simp] theorem State.setBridge_skew (s : State) (h : Nat) (v : Option HalfSt) : (s.setBridge h v).skew = s.skew := rfl
@[simp] theorem State.setBridge_ceiling (s : State) (h : Nat) (v : Option HalfSt) : (s.setBridge h v).ceiling = s.ceiling := rfl
@[simp] theorem State.setBridge_record (s : State) (h : Nat) (v : Option HalfSt) : (s.setBridge h v).record = s.record := rfl
@[simp] theorem State.setBridge_binding (s : State) (h : Nat) (v : Option HalfSt) : (s.setBridge h v).binding = s.binding := rfl
@[simp] theorem State.setBridge_reply (s : State) (h : Nat) (v : Option HalfSt) : (s.setBridge h v).reply = s.reply := rfl
@[simp] theorem State.setBridge_words (s : State) (h : Nat) (v : Option HalfSt) : (s.setBridge h v).words = s.words := rfl
@[simp] theorem State.setBridge_listing (s : State) (h : Nat) (v : Option HalfSt) : (s.setBridge h v).listing = s.listing := rfl
@[simp] theorem State.setBridge_notes (s : State) (h : Nat) (v : Option HalfSt) : (s.setBridge h v).notes = s.notes := rfl
@[simp] theorem State.setBridge_trace (s : State) (h : Nat) (v : Option HalfSt) : (s.setBridge h v).trace = s.trace := rfl
@[simp] theorem State.setBridge_exchanges (s : State) (h : Nat) (v : Option HalfSt) : (s.setBridge h v).exchanges = s.exchanges := rfl

end Sys2Proof.Machine
end

