-- ==== Sys2Proof/Laws/Memory.lean ====
section
/-! SUPPORT. The memory list: reading after writing, and that every operation on bytes keeps the canonical form. -/
namespace Sys2Proof.Machine

/-! ## Lists of cells -/

theorem memWfFrom_weaken {m : List Host.Cell} {lo hi : Nat} (h : lo ≤ hi) (w : memWfFrom hi m = true) :
    memWfFrom lo m = true := by
  cases m with
  | nil => rfl
  | cons c r =>
    obtain ⟨a, b⟩ := c
    simp only [memWfFrom, Bool.and_eq_true, decide_eq_true_eq] at w ⊢
    exact ⟨⟨by omega, w.1.2⟩, w.2⟩

/-- A write keeps the form, from any lower bound not above the key. -/
theorem memSet_wfFrom {m : List Host.Cell} {lo k : Nat} {v : Byte} (w : memWfFrom lo m = true) (h : lo ≤ k) :
    memWfFrom lo (memSet m k v) = true := by
  induction m generalizing lo with
  | nil =>
    simp only [memSet]
    split
    · rfl
    · next hv => simp [memWfFrom, h, hv]
  | cons c r ih =>
    obtain ⟨a, b⟩ := c
    simp only [memWfFrom, Bool.and_eq_true, decide_eq_true_eq] at w
    simp only [memSet]
    split
    · next e =>
      split
      · exact memWfFrom_weaken (by omega) w.2
      · next hv => simp [memWfFrom, h, hv, e ▸ w.2]
    · next ne =>
      split
      · next lt =>
        split
        · simp [memWfFrom, w.1.1, w.1.2, w.2]
        · next hv =>
          have : k + 1 ≤ a := by omega
          simp [memWfFrom, h, hv, this, w.1.2, w.2]
      · next nlt =>
        have := ih (lo := a + 1) w.2 (by omega)
        simp [memWfFrom, w.1.1, w.1.2, this]

@[simp] theorem memSet_wf {m : List Host.Cell} (k : Nat) (v : Byte) (w : Memory.wf m = true) : Memory.wf (memSet m k v) = true :=
  memSet_wfFrom w (Nat.zero_le k)

/-- Forgetting cells keeps the form. -/
theorem filter_wfFrom {m : List Host.Cell} {lo : Nat} (p : Host.Cell → Bool) (w : memWfFrom lo m = true) :
    memWfFrom lo (m.filter p) = true := by
  induction m generalizing lo with
  | nil => rfl
  | cons c r ih =>
    obtain ⟨a, b⟩ := c
    simp only [memWfFrom, Bool.and_eq_true, decide_eq_true_eq] at w
    simp only [List.filter_cons]
    split
    · simp [memWfFrom, w.1.1, w.1.2, ih w.2]
    · exact memWfFrom_weaken (by omega) (ih w.2)

@[simp] theorem filter_wf {m : List Host.Cell} (p : Host.Cell → Bool) (w : Memory.wf m = true) :
    Memory.wf (m.filter p) = true := filter_wfFrom p w

/-- Below its first key a canonical list reads as unlisted. -/
theorem memGet_below {m : List Host.Cell} {lo k : Nat} (w : memWfFrom lo m = true) (h : k < lo) :
    memGet m k = unlisted := by
  cases m with
  | nil => rfl
  | cons c r =>
    obtain ⟨a, b⟩ := c
    simp only [memWfFrom, Bool.and_eq_true, decide_eq_true_eq] at w
    have : a ≠ k := by omega
    have : k < a := by omega
    simp [memGet, *]

/-- What was written is read. -/
theorem memGet_memSet_same {m : List Host.Cell} {lo : Nat} (k : Nat) (v : Byte) (w : memWfFrom lo m = true) :
    memGet (memSet m k v) k = v := by
  induction m generalizing lo with
  | nil =>
    simp only [memSet]
    split
    · next h => simp [memGet, h]
    · simp [memGet]
  | cons c r ih =>
    obtain ⟨a, b⟩ := c
    simp only [memWfFrom, Bool.and_eq_true, decide_eq_true_eq] at w
    simp only [memSet]
    split
    · next e =>
      split
      · next hv => exact (memGet_below w.2 (by omega)).trans hv.symm
      · simp [memGet]
    · next ne =>
      split
      · next lt =>
        split
        · next hv => simp [memGet, ne, lt, hv]
        · simp [memGet]
      · next nlt => simpa [memGet, ne, nlt] using ih w.2

/-- Every other address reads as before. -/
theorem memGet_memSet_ne {m : List Host.Cell} {lo k j : Nat} (v : Byte) (w : memWfFrom lo m = true) (h : j ≠ k) :
    memGet (memSet m k v) j = memGet m j := by
  induction m generalizing lo with
  | nil =>
    simp only [memSet]
    split
    · rfl
    · have : ¬k = j := by omega
      simp [memGet, this]
  | cons c r ih =>
    obtain ⟨a, b⟩ := c
    simp only [memWfFrom, Bool.and_eq_true, decide_eq_true_eq] at w
    simp only [memSet]
    split
    · next e =>
      have ne' : ¬a = j := by omega
      have ne : ¬k = j := by omega
      split
      · by_cases lt : j < a
        · simp [memGet, ne', lt, memGet_below w.2 (show j < a + 1 by omega)]
        · simp [memGet, ne', lt]
      · by_cases lt : j < a
        · simp [memGet, ne', ne, lt, show j < k by omega]
        · simp [memGet, ne', ne, lt, show ¬j < k by omega]
    · next ne =>
      split
      · next lt =>
        split
        · rfl
        · have nkj : ¬k = j := by omega
          by_cases kj : j < k
          · simp [memGet, nkj, kj, show ¬a = j by omega, show j < a by omega]
          · simp [memGet, nkj, kj]
      · next nlt =>
        simp only [memGet]
        split
        · rfl
        · split
          · rfl
          · exact ih w.2

/-! ## Folds -/

/-- A property that every step of a fold keeps. -/
theorem foldl_keeps {σ α : Type} {P : σ → Prop} {f : σ → α → σ} (hf : ∀ s a, P s → P (f s a)) (l : List α) :
    ∀ s, P s → P (l.foldl f s) := by
  induction l with
  | nil => exact fun _ h => h
  | cons a r ih => exact fun s h => ih _ (hf s a h)

/-! ## The form is kept

Each lemma has the hypothesis that the form holds before; simp applies them one inside the other. -/

@[simp] theorem wf_putRaw {s : State} (l : Loc) (b : Byte) (p : Bool) (c : Memory.wf s.mem = true) :
    Memory.wf (s.putRaw l b p).mem = true := memSet_wf _ _ c

@[simp] theorem wf_zero {s : State} (l : Loc) (n : Nat) (c : Memory.wf s.mem = true) :
    Memory.wf (s.zero l n).mem = true := filter_wf _ c

@[simp] theorem wf_putRaws {s : State} (l : Loc) (bs : List (Byte × Bool)) (c : Memory.wf s.mem = true) :
    Memory.wf (s.putRaws l bs).mem = true :=
  foldl_keeps (P := fun q : State × Nat => Memory.wf q.1.mem = true) (fun _ _ h => wf_putRaw _ _ _ h) bs (s, 0) c

@[simp] theorem wf_putHbm {s : State} (l : Loc) (b : Byte) (p : Bool) (c : Memory.wf s.mem = true) :
    Memory.wf (s.putHbm l b p).mem = true := by
  unfold State.putHbm
  apply wf_putRaw
  dsimp only
  split <;> simp [c]

@[simp] theorem State.llcDirty_mem (s : State) (l : Loc) (n : Nat) : (s.llcDirty l n).mem = s.mem := rfl

@[simp] theorem wf_llcClean {s : State} (l : Loc) (c : Memory.wf s.mem = true) :
    Memory.wf (s.llcClean l).mem = true := by
  unfold State.llcClean
  dsimp only
  split
  · exact c
  · refine foldl_keeps (P := fun t : State => Memory.wf t.mem = true) (fun t i h => ?_) _ s c
    split <;> simp [h]

@[simp] theorem wf_llcDrop {s : State} (l : Loc) (c : Memory.wf s.mem = true) :
    Memory.wf (s.llcDrop l).mem = true := wf_zero (s := s) _ _ c

@[simp] theorem State.victim_mem (s : State) (n : Nat) : (s.victim n).2.mem = s.mem := rfl

@[simp] theorem State.evictee_mem (s : State) (ks : List Keep) : (s.evictee ks).2.mem = s.mem := rfl

@[simp] theorem wf_llcRoom {s : State} (l : Loc) (c : Memory.wf s.mem = true) :
    Memory.wf (s.llcRoom l).mem = true := by
  unfold State.llcRoom
  dsimp only
  split
  · exact c
  · split <;> simp [c]

@[simp] theorem wf_llcFill {s : State} (l : Loc) (c : Memory.wf s.mem = true) :
    Memory.wf (s.llcFill l).mem = true := by
  unfold State.llcFill
  dsimp only
  split <;> simp [c]

@[simp] theorem State.exchange_mem (s : State) (k : BridgeAct) (h : Loc) (a b : Option HalfSt) (d : List Byte) :
    (s.exchange k h a b d).mem = s.mem := by
  unfold State.exchange
  split <;> rfl

@[simp] theorem State.credit_mem (s : State) (n : Nat) (c : BridgeBy) : (s.credit n c).mem = s.mem := rfl

@[simp] theorem wf_mergeHalf {s : State} (h : Nat) (c : Memory.wf s.mem = true) :
    Memory.wf (s.mergeHalf h).mem = true :=
  wf_zero _ _ (by simp [c])

@[simp] theorem wf_bridgeDrop {s : State} (h : Nat) (c : Memory.wf s.mem = true) :
    Memory.wf (s.bridgeDrop h).mem = true := by
  unfold State.bridgeDrop
  dsimp only
  split <;> simp [c]

@[simp] theorem wf_bridgeEvict {s : State} (c : Memory.wf s.mem = true) : Memory.wf s.bridgeEvict.mem = true := by
  unfold State.bridgeEvict
  dsimp only
  split
  · split <;> simp [c]
  · exact c

@[simp] theorem wf_bridgeFetch {s : State} (h : Nat) (c : Memory.wf s.mem = true) :
    Memory.wf (s.bridgeFetch h).mem = true := by
  unfold State.bridgeFetch
  split
  · exact c
  · have e := wf_bridgeEvict c
    simp [e]

@[simp] theorem wf_readTouch {s : State} (l : Loc) (c : Memory.wf s.mem = true) :
    Memory.wf (s.readTouch l).mem = true := by
  unfold State.readTouch
  dsimp only
  split
  · split <;> simp [c]
  all_goals simp [c]

@[simp] theorem wf_writeTouch {s : State} (l : Loc) (c : Memory.wf s.mem = true) :
    Memory.wf (s.writeTouch l).mem = true := by
  unfold State.writeTouch
  dsimp only
  split
  · split <;> simp [c]
  all_goals simp [c]

@[simp] theorem wf_engTouch {s : State} (a n : Nat) (c : Memory.wf s.mem = true) : Memory.wf (s.engTouch a n).mem = true :=
  foldl_keeps (P := fun t : State => Memory.wf t.mem = true) (fun t i h => by
    dsimp only
    split <;> simp [h]) _ s c

@[simp] theorem wf_recall {s : State} (l : Loc) (c : Memory.wf s.mem = true) :
    Memory.wf (s.recall l).mem = true := by
  unfold State.recall
  refine foldl_keeps (P := fun t : State => Memory.wf t.mem = true) (fun t i h => ?_) _ s c
  dsimp only
  split <;> simp [h]

@[simp] theorem wf_homePut {s : State} (l : Loc) (b : Byte) (p : Bool) (c : Memory.wf s.mem = true) :
    Memory.wf (s.homePut l b p).mem = true := by
  unfold State.homePut
  dsimp only
  split <;> simp [c]

@[simp] theorem wf_homePuts {s : State} (l : Loc) (bs : List (Byte × Bool)) (c : Memory.wf s.mem = true) :
    Memory.wf (s.homePuts l bs).mem = true :=
  foldl_keeps (P := fun q : State × Nat => Memory.wf q.1.mem = true) (fun _ _ h => wf_homePut _ _ _ h) bs (s, 0) c

@[simp] theorem wf_dropSectors {s : State} (k : Nat) (p : Loc → Bool) (c : Memory.wf s.mem = true) :
    Memory.wf (s.dropSectors k p).mem = true :=
  foldl_keeps (P := fun t : State => Memory.wf t.mem = true) (fun _ _ h => wf_zero _ _ h) _ s c

@[simp] theorem wf_icRoom {s : State} (k : Nat) (l : Loc) (c : Memory.wf s.mem = true) :
    Memory.wf (s.icRoom k l).mem = true := by
  unfold State.icRoom
  dsimp only
  split <;> simp [c]

@[simp] theorem wf_fillSector {s : State} (k : Nat) (l : Loc) (c : Memory.wf s.mem = true) :
    Memory.wf (s.fillSector k l).mem = true := by
  unfold State.fillSector
  dsimp only
  split <;> simp [c]

@[simp] theorem wf_viewSector {s : State} (w k : Nat) (l : Loc) (c : Memory.wf s.mem = true) :
    Memory.wf (s.viewSector w k l).mem = true := by
  have f (n : Nat) : Memory.wf ({ s with free := n } : State).mem = true := c
  unfold State.viewSector
  by_cases h : s.views.contains (w, ⟨l.sp, l.a / 32 * 32⟩) = true
  · simpa only [h, if_true] using c
  · simp only [h, if_false, Bool.false_eq_true]
    apply wf_putRaws
    split
    · exact wf_fillSector _ _ c
    · split
      · exact f _
      · exact wf_fillSector _ _ (wf_dropSectors _ _ (f _))

@[simp] theorem wf_dropViews {s : State} (w : Nat) (c : Memory.wf s.mem = true) : Memory.wf (s.dropViews w).mem = true :=
  wf_zero _ _ c

@[simp] theorem wf_dropCopy {s : State} (h : Space) (l : Loc) (c : Memory.wf s.mem = true) :
    Memory.wf (s.dropCopy h l).mem = true := by simp [State.dropCopy, c]

@[simp] theorem wf_privClean {s : State} (w k : Nat) (c : Memory.wf s.mem = true) :
    Memory.wf (s.privClean w k).mem = true := wf_putRaws _ _ c

@[simp] theorem wf_privDrop {s : State} (w k : Nat) (c : Memory.wf s.mem = true) :
    Memory.wf (s.privDrop w k).mem = true := wf_putRaws (s := { s with privHeld := _ }) _ _ c

@[simp] theorem wf_l1Room {s : State} (k n : Nat) (c : Memory.wf s.mem = true) :
    Memory.wf (s.l1Room k n).mem = true := by
  unfold State.l1Room
  dsimp only
  split
  · exact c
  · split <;> simp [c]

@[simp] theorem wf_privFill {s : State} (w k h : Nat) (c : Memory.wf s.mem = true) :
    Memory.wf (s.privFill w k h).mem = true := by
  unfold State.privFill
  dsimp only
  split
  · split <;> exact c
  · simp [c]

@[simp] theorem wf_bankRoom {s : State} (k b : Nat) (c : Memory.wf s.mem = true) :
    Memory.wf (s.bankRoom k b).mem = true := by
  unfold State.bankRoom
  dsimp only
  split
  · exact c
  · split <;> simp [c]

@[simp] theorem wf_putCopy {s : State} (h : Space) (l : Loc) (e : BitVec 20) (k : Keep) (bs : List (Byte × Bool))
    (c : Memory.wf s.mem = true) : Memory.wf (s.putCopy h l e k bs).mem = true := by
  have d := wf_dropCopy h l c
  unfold State.putCopy
  dsimp only
  repeat' split
  all_goals simp [c, d]

@[simp] theorem State.l1Touch_mem (s : State) (k : Nat) (l : Loc) (h : Nat) : (s.l1Touch k l h).mem = s.mem := by
  unfold State.l1Touch
  split <;> rfl

@[simp] theorem State.llcKeep_mem (s : State) (l : Loc) (h : Nat) (b : Bool) : (s.llcKeep l h b).mem = s.mem := by
  unfold State.llcKeep
  split <;> rfl

@[simp] theorem wf_updateL1 {s : State} (k : Nat) (l : Loc) (bs : List Byte) (c : Memory.wf s.mem = true) :
    Memory.wf (s.updateL1 k l bs).mem = true := by
  unfold State.updateL1
  split <;> simp [c]

@[simp] theorem wf_writePlace {s : State} (p : Place) (bs : List Byte) (c : Memory.wf s.mem = true) :
    Memory.wf (s.writePlace p bs).mem = true := by
  unfold State.writePlace
  split <;> simp [c]

@[simp] theorem wf_fetchLine {s : State} (k : Nat) (l : Loc) (hs : List Nat) (hint : Nat) (c : Memory.wf s.mem = true) :
    Memory.wf (s.fetchLine k l hs hint).mem = true := by
  have w : Memory.wf (hs.foldl (fun s i => s.readTouch (l.plus (64 * i))) s).mem = true :=
    foldl_keeps (P := fun t : State => Memory.wf t.mem = true) (fun t i h => wf_readTouch _ h) hs s c
  unfold State.fetchLine
  dsimp only
  split
  · split <;> simp [c]
  · split
    · split <;> simp [w]
    · simp [w]

end Sys2Proof.Machine
end

