-- ==== Sys2Proof/Laws/Marks.lean ====
section
/-! SUPPORT. The marks of poisoned bytes: reading after writing, and that every operation on bytes keeps them rising;
what a write of one byte does to every read. -/
namespace Sys2Proof.Machine

theorem risingFrom_weaken {m : List Nat} {lo hi : Nat} (h : lo ≤ hi) (w : risingFrom hi m = true) :
    risingFrom lo m = true := by
  cases m with
  | nil => rfl
  | cons a r =>
    simp only [risingFrom, Bool.and_eq_true, decide_eq_true_eq] at w ⊢
    exact ⟨by omega, w.2⟩

theorem keyPut_risingFrom {m : List Nat} {lo k : Nat} {p : Bool} (w : risingFrom lo m = true) (h : lo ≤ k) :
    risingFrom lo (keyPut m k p) = true := by
  induction m generalizing lo with
  | nil => cases p <;> simp [keyPut, risingFrom, h]
  | cons a r ih =>
    simp only [risingFrom, Bool.and_eq_true, decide_eq_true_eq] at w
    simp only [keyPut]
    split
    · next e =>
      cases p
      · simpa using risingFrom_weaken (by omega) w.2
      · simp [risingFrom, w.1, w.2]
    · split
      · cases p
        · simp [risingFrom, w.1, w.2]
        · simp [risingFrom, h, w.2]; omega
      · simp [risingFrom, w.1, ih w.2 (by omega)]

@[simp] theorem keyPut_rising {m : List Nat} (k : Nat) (p : Bool) (w : rising m = true) : rising (keyPut m k p) = true :=
  keyPut_risingFrom w (Nat.zero_le k)

theorem filter_risingFrom {m : List Nat} {lo : Nat} (p : Nat → Bool) (w : risingFrom lo m = true) :
    risingFrom lo (m.filter p) = true := by
  induction m generalizing lo with
  | nil => rfl
  | cons a r ih =>
    simp only [risingFrom, Bool.and_eq_true, decide_eq_true_eq] at w
    simp only [List.filter_cons]
    split
    · simp [risingFrom, w.1, ih w.2]
    · exact risingFrom_weaken (by omega) (ih w.2)

@[simp] theorem filter_rising {m : List Nat} (p : Nat → Bool) (w : rising m = true) : rising (m.filter p) = true :=
  filter_risingFrom p w

theorem not_mem_below {m : List Nat} {lo k : Nat} (w : risingFrom lo m = true) (h : k < lo) : k ∉ m := by
  induction m generalizing lo with
  | nil => simp
  | cons a r ih =>
    simp only [risingFrom, Bool.and_eq_true, decide_eq_true_eq] at w
    simp only [List.mem_cons, not_or]
    exact ⟨by omega, ih w.2 (by omega)⟩

/-- A key is marked as it was last put, and no other key changes. -/
theorem mem_keyPut {m : List Nat} {lo k j : Nat} {p : Bool} (w : risingFrom lo m = true) :
    j ∈ keyPut m k p ↔ if j = k then p = true else j ∈ m := by
  induction m generalizing lo with
  | nil => cases p <;> by_cases h : j = k <;> simp [keyPut, h]
  | cons a r ih =>
    simp only [risingFrom, Bool.and_eq_true, decide_eq_true_eq] at w
    simp only [keyPut]
    split
    · next e =>
      subst e
      have := not_mem_below (k := a) w.2 (by omega)
      cases p <;> by_cases h : j = a <;> simp [h, this]
    · next ne =>
      split
      · next lt =>
        have := not_mem_below (k := k) w.2 (by omega)
        have ne' : ¬k = a := by omega
        cases p <;> by_cases h : j = k <;> simp [h, this, ne']
      · have := ih (lo := a + 1) w.2
        by_cases h : j = k
        · simp_all
          omega
        · simp_all

/-- A byte written is read back with its mark. -/
theorem raw_putRaw_same {s : State} (l : Loc) (b : Byte) (p : Bool) (c : s.canon) : (s.putRaw l b p).raw l = (b, p) := by
  have m := mem_keyPut (k := l.key) (j := l.key) (p := p) c.2
  simp only [State.raw, State.putRaw, memGet_memSet_same _ _ c.1, Prod.mk.injEq, true_and]
  cases p <;> simp_all

/-- Every other place reads as before. -/
theorem raw_putRaw_ne {s : State} {l m : Loc} (b : Byte) (p : Bool) (c : s.canon) (h : m.key ≠ l.key) :
    (s.putRaw l b p).raw m = s.raw m := by
  have e := mem_keyPut (k := l.key) (j := m.key) (p := p) c.2
  simp only [h, if_false] at e
  simp only [State.raw, State.putRaw, memGet_memSet_ne _ c.1 h, Prod.mk.injEq, true_and]
  cases p <;> simp_all

/-! ## The form is kept

Each lemma has the hypothesis that the form holds before; simp applies them one inside the other. -/

@[simp] theorem rising_putRaw {s : State} (l : Loc) (b : Byte) (p : Bool) (c : rising s.bad = true) :
    rising (s.putRaw l b p).bad = true := keyPut_rising _ _ c

@[simp] theorem rising_zero {s : State} (l : Loc) (n : Nat) (c : rising s.bad = true) :
    rising (s.zero l n).bad = true := filter_rising _ c

@[simp] theorem rising_putRaws {s : State} (l : Loc) (bs : List (Byte × Bool)) (c : rising s.bad = true) :
    rising (s.putRaws l bs).bad = true :=
  foldl_keeps (P := fun q : State × Nat => rising q.1.bad = true) (fun _ _ h => rising_putRaw _ _ _ h) bs (s, 0) c

@[simp] theorem rising_putHbm {s : State} (l : Loc) (b : Byte) (p : Bool) (c : rising s.bad = true) :
    rising (s.putHbm l b p).bad = true := by
  unfold State.putHbm
  apply rising_putRaw
  dsimp only
  split <;> simp [c]

@[simp] theorem State.llcDirty_bad (s : State) (l : Loc) (n : Nat) : (s.llcDirty l n).bad = s.bad := rfl

@[simp] theorem rising_llcClean {s : State} (l : Loc) (c : rising s.bad = true) :
    rising (s.llcClean l).bad = true := by
  unfold State.llcClean
  dsimp only
  split
  · exact c
  · refine foldl_keeps (P := fun t : State => rising t.bad = true) (fun t i h => ?_) _ s c
    split <;> simp [h]

@[simp] theorem rising_llcDrop {s : State} (l : Loc) (c : rising s.bad = true) :
    rising (s.llcDrop l).bad = true := rising_zero (s := s) _ _ c

@[simp] theorem State.victim_bad (s : State) (n : Nat) : (s.victim n).2.bad = s.bad := rfl

@[simp] theorem State.evictee_bad (s : State) (ks : List Keep) : (s.evictee ks).2.bad = s.bad := rfl

@[simp] theorem rising_llcRoom {s : State} (l : Loc) (c : rising s.bad = true) :
    rising (s.llcRoom l).bad = true := by
  unfold State.llcRoom
  dsimp only
  split
  · exact c
  · split <;> simp [c]

@[simp] theorem rising_llcFill {s : State} (l : Loc) (c : rising s.bad = true) :
    rising (s.llcFill l).bad = true := by
  unfold State.llcFill
  dsimp only
  split <;> simp [c]

@[simp] theorem State.exchange_bad (s : State) (k : BridgeAct) (h : Loc) (a b : Option HalfSt) (d : List Byte) :
    (s.exchange k h a b d).bad = s.bad := by
  unfold State.exchange
  split <;> rfl

@[simp] theorem State.credit_bad (s : State) (n : Nat) (c : BridgeBy) : (s.credit n c).bad = s.bad := rfl

@[simp] theorem rising_mergeHalf {s : State} (h : Nat) (c : rising s.bad = true) :
    rising (s.mergeHalf h).bad = true :=
  rising_zero _ _ (by simp [c])

@[simp] theorem rising_bridgeDrop {s : State} (h : Nat) (c : rising s.bad = true) :
    rising (s.bridgeDrop h).bad = true := by
  unfold State.bridgeDrop
  dsimp only
  split <;> simp [c]

@[simp] theorem rising_bridgeEvict {s : State} (c : rising s.bad = true) : rising s.bridgeEvict.bad = true := by
  unfold State.bridgeEvict
  dsimp only
  split
  · split <;> simp [c]
  · exact c

@[simp] theorem rising_bridgeFetch {s : State} (h : Nat) (c : rising s.bad = true) :
    rising (s.bridgeFetch h).bad = true := by
  unfold State.bridgeFetch
  split
  · exact c
  · have e := rising_bridgeEvict c
    simp [e]

@[simp] theorem rising_readTouch {s : State} (l : Loc) (c : rising s.bad = true) :
    rising (s.readTouch l).bad = true := by
  unfold State.readTouch
  dsimp only
  split
  · split <;> simp [c]
  all_goals simp [c]

@[simp] theorem rising_writeTouch {s : State} (l : Loc) (c : rising s.bad = true) :
    rising (s.writeTouch l).bad = true := by
  unfold State.writeTouch
  dsimp only
  split
  · split <;> simp [c]
  all_goals simp [c]

@[simp] theorem rising_engTouch {s : State} (a n : Nat) (c : rising s.bad = true) : rising (s.engTouch a n).bad = true :=
  foldl_keeps (P := fun t : State => rising t.bad = true) (fun t i h => by
    dsimp only
    split <;> simp [h]) _ s c

@[simp] theorem rising_recall {s : State} (l : Loc) (c : rising s.bad = true) :
    rising (s.recall l).bad = true := by
  unfold State.recall
  refine foldl_keeps (P := fun t : State => rising t.bad = true) (fun t i h => ?_) _ s c
  dsimp only
  split <;> simp [h]

@[simp] theorem rising_homePut {s : State} (l : Loc) (b : Byte) (p : Bool) (c : rising s.bad = true) :
    rising (s.homePut l b p).bad = true := by
  unfold State.homePut
  dsimp only
  split <;> simp [c]

@[simp] theorem rising_homePuts {s : State} (l : Loc) (bs : List (Byte × Bool)) (c : rising s.bad = true) :
    rising (s.homePuts l bs).bad = true :=
  foldl_keeps (P := fun q : State × Nat => rising q.1.bad = true) (fun _ _ h => rising_homePut _ _ _ h) bs (s, 0) c

@[simp] theorem rising_dropSectors {s : State} (k : Nat) (p : Loc → Bool) (c : rising s.bad = true) :
    rising (s.dropSectors k p).bad = true :=
  foldl_keeps (P := fun t : State => rising t.bad = true) (fun _ _ h => rising_zero _ _ h) _ s c

@[simp] theorem rising_icRoom {s : State} (k : Nat) (l : Loc) (c : rising s.bad = true) :
    rising (s.icRoom k l).bad = true := by
  unfold State.icRoom
  dsimp only
  split <;> simp [c]

@[simp] theorem rising_fillSector {s : State} (k : Nat) (l : Loc) (c : rising s.bad = true) :
    rising (s.fillSector k l).bad = true := by
  unfold State.fillSector
  dsimp only
  split <;> simp [c]

@[simp] theorem rising_viewSector {s : State} (w k : Nat) (l : Loc) (c : rising s.bad = true) :
    rising (s.viewSector w k l).bad = true := by
  have f (n : Nat) : rising ({ s with free := n } : State).bad = true := c
  unfold State.viewSector
  by_cases h : s.views.contains (w, ⟨l.sp, l.a / 32 * 32⟩) = true
  · simpa only [h, if_true] using c
  · simp only [h, if_false, Bool.false_eq_true]
    apply rising_putRaws
    split
    · exact rising_fillSector _ _ c
    · split
      · exact f _
      · exact rising_fillSector _ _ (rising_dropSectors _ _ (f _))

@[simp] theorem rising_dropViews {s : State} (w : Nat) (c : rising s.bad = true) : rising (s.dropViews w).bad = true :=
  rising_zero _ _ c

@[simp] theorem rising_dropCopy {s : State} (h : Space) (l : Loc) (c : rising s.bad = true) :
    rising (s.dropCopy h l).bad = true := by simp [State.dropCopy, c]

@[simp] theorem rising_privClean {s : State} (w k : Nat) (c : rising s.bad = true) :
    rising (s.privClean w k).bad = true := rising_putRaws _ _ c

@[simp] theorem rising_privDrop {s : State} (w k : Nat) (c : rising s.bad = true) :
    rising (s.privDrop w k).bad = true := rising_putRaws (s := { s with privHeld := _ }) _ _ c

@[simp] theorem rising_l1Room {s : State} (k n : Nat) (c : rising s.bad = true) :
    rising (s.l1Room k n).bad = true := by
  unfold State.l1Room
  dsimp only
  split
  · exact c
  · split <;> simp [c]

@[simp] theorem rising_privFill {s : State} (w k h : Nat) (c : rising s.bad = true) :
    rising (s.privFill w k h).bad = true := by
  unfold State.privFill
  dsimp only
  split
  · split <;> exact c
  · simp [c]

@[simp] theorem rising_bankRoom {s : State} (k b : Nat) (c : rising s.bad = true) :
    rising (s.bankRoom k b).bad = true := by
  unfold State.bankRoom
  dsimp only
  split
  · exact c
  · split <;> simp [c]

@[simp] theorem rising_putCopy {s : State} (h : Space) (l : Loc) (e : BitVec 20) (k : Keep) (bs : List (Byte × Bool))
    (c : rising s.bad = true) : rising (s.putCopy h l e k bs).bad = true := by
  have d := rising_dropCopy h l c
  unfold State.putCopy
  dsimp only
  repeat' split
  all_goals simp [c, d]

@[simp] theorem State.l1Touch_bad (s : State) (k : Nat) (l : Loc) (h : Nat) : (s.l1Touch k l h).bad = s.bad := by
  unfold State.l1Touch
  split <;> rfl

@[simp] theorem State.llcKeep_bad (s : State) (l : Loc) (h : Nat) (b : Bool) : (s.llcKeep l h b).bad = s.bad := by
  unfold State.llcKeep
  split <;> rfl

@[simp] theorem rising_updateL1 {s : State} (k : Nat) (l : Loc) (bs : List Byte) (c : rising s.bad = true) :
    rising (s.updateL1 k l bs).bad = true := by
  unfold State.updateL1
  split <;> simp [c]

@[simp] theorem rising_writePlace {s : State} (p : Place) (bs : List Byte) (c : rising s.bad = true) :
    rising (s.writePlace p bs).bad = true := by
  unfold State.writePlace
  split <;> simp [c]

@[simp] theorem rising_fetchLine {s : State} (k : Nat) (l : Loc) (hs : List Nat) (hint : Nat) (c : rising s.bad = true) :
    rising (s.fetchLine k l hs hint).bad = true := by
  have w : rising (hs.foldl (fun s i => s.readTouch (l.plus (64 * i))) s).bad = true :=
    foldl_keeps (P := fun t : State => rising t.bad = true) (fun t i h => rising_readTouch _ h) hs s c
  unfold State.fetchLine
  dsimp only
  split
  · split <;> simp [c]
  · split
    · split <;> simp [w]
    · simp [w]

end Sys2Proof.Machine
end

