-- ==== Sys2Proof/Laws/Ops.lean ====
section
/-! SUPPORT. One lemma for each shared operation of the registers, the operands, the traps and the ends of waves and
gangs: what it answers and when, and that it keeps memory in its canonical form. -/
namespace Sys2Proof.Machine

/-! ## How a meaning ends -/

@[simp] theorem finish_ok (s t : State) : finish s (.ok t) = .next t := rfl
@[simp] theorem finish_wait (s : State) :
    finish s (.error .wait) = .next { s with cur := { s.cur with stalled := true, opened := false } } := rfl
@[simp] theorem finish_keep (s t : State) :
    finish s (.error (.keep t)) = .next { t.unelect with cur := { t.cur with opened := false } } := rfl
@[simp] theorem finish_trap (s t : State) (x : Trap) : finish s (.error (.trap t x)) = .next (t.takeTrap x) := rfl
@[simp] theorem finishDone_ok (s t : State) : finishDone s (.ok t) = .next t.done := rfl
@[simp] theorem finishDone_error (s : State) (e : Stop) : finishDone s (.error e) = finish s (.error e) := rfl

/-- A meaning never stops the machine. -/
theorem finish_next (s : State) (r : Act State) : ∃ t, finish s r = .next t := by
  match r with
  | .ok t => exact ⟨_, rfl⟩
  | .error .wait => exact ⟨_, rfl⟩
  | .error (.keep t) => exact ⟨_, rfl⟩
  | .error (.trap t x) => exact ⟨_, rfl⟩

theorem finishDone_next (s : State) (r : Act State) : ∃ t, finishDone s r = .next t := finish_next s _

/-- The four ends of a meaning. -/
theorem finish_cases {s t : State} {r : Act State} (h : finish s r = .next t) :
    r = .ok t
    ∨ (r = .error .wait ∧ t = { s with cur := { s.cur with stalled := true, opened := false } })
    ∨ (∃ u, r = .error (.keep u) ∧ t = { u.unelect with cur := { u.cur with opened := false } })
    ∨ (∃ u x, r = .error (.trap u x) ∧ t = u.takeTrap x) := by
  match r with
  | .ok u => simp only [finish_ok, Host.Outcome.next.injEq] at h; exact .inl (h ▸ rfl)
  | .error .wait => simp only [finish_wait, Host.Outcome.next.injEq] at h; exact .inr (.inl ⟨rfl, h.symm⟩)
  | .error (.keep u) => simp only [finish_keep, Host.Outcome.next.injEq] at h; exact .inr (.inr (.inl ⟨u, rfl, h.symm⟩))
  | .error (.trap u x) =>
    simp only [finish_trap, Host.Outcome.next.injEq] at h; exact .inr (.inr (.inr ⟨u, x, rfl, h.symm⟩))

/-- An event that can happen gives its state; one that cannot changes nothing. -/
@[simp] theorem event_some (s t : State) : event s (some t) = .next t := rfl
@[simp] theorem event_none (s : State) : event s none = .next s := rfl

/-! ## Checks and waits -/

@[simp] theorem need_eq_ok {b : Bool} {s : State} {c : Byte} {a : Addr} {u : Unit} : need b s c a = .ok u ↔ b = true := by
  cases b <;> simp [need, fault]

@[simp] theorem need_false (s : State) (c : Byte) (a : Addr) : need false s c a = .error (.trap s ⟨c, a, 0, false⟩) := rfl
@[simp] theorem need_true (s : State) (c : Byte) (a : Addr) : need true s c a = .ok () := rfl

@[simp] theorem waitFor_eq_ok {b : Bool} {u : Unit} : waitFor b = .ok u ↔ b = true := by
  cases b <;> simp [waitFor]

@[simp] theorem waitFor_false : waitFor false = .error .wait := rfl
@[simp] theorem waitFor_true : waitFor true = .ok () := rfl

/-- A sequence answers when its first part does and the rest does. -/
theorem bind_eq_ok {α β : Type} {x : Act α} {f : α → Act β} {b : β} :
    (x >>= f) = .ok b ↔ ∃ a, x = .ok a ∧ f a = .ok b := by
  cases x with
  | error e => simp [bind, Except.bind]
  | ok a => simp [bind, Except.bind]

/-! ## Registers -/

/-- A scalar source answers when the unit may name it and it is FULL, with what it holds (R93). -/
theorem readS_eq_ok {s : State} {r : Nat} {x : SReg} :
    s.readS r = .ok x ↔ (!s.cw.handling || r < 16) = true ∧ (s.sreg r).st = .full ∧ x = s.sreg r := by
  simp only [State.readS, bind_eq_ok, State.checkS, need_eq_ok]
  constructor
  · rintro ⟨_, h, e⟩
    split at e <;> simp_all [fault]
  · rintro ⟨h, f, rfl⟩
    exact ⟨(), h, by simp [f]⟩

/-- An EMPTY scalar waits (R93). -/
theorem readS_empty {s : State} {r : Nat} (h : (!s.cw.handling || r < 16) = true) (e : (s.sreg r).st = .empty) :
    s.readS r = .error .wait := by
  simp only [State.readS, State.checkS, h, need_true]
  simp [bind, Except.bind, e]

/-- Register 0 reads as 0, FULL (R96). -/
@[simp] theorem sreg_zero (s : State) : s.sreg 0 = {} := rfl

/-- A write of register 0 is discarded (R96). -/
@[simp] theorem modS_zero (s : State) (f : SReg → SReg) : s.modS 0 f = s := rfl
@[simp] theorem writeS_zero (s : State) (v : DWord) (t : Byte) : s.writeS 0 v t = s := rfl

/-- An ordinary write stores value and tag; only EMPTY stays (R93). -/
@[simp] theorem write_val (x : SReg) (v : DWord) (t : Byte) : (x.write v t).val = v := rfl
@[simp] theorem write_tag (x : SReg) (v : DWord) (t : Byte) : (x.write v t).tag = t := rfl
theorem write_st (x : SReg) (v : DWord) (t : Byte) : (x.write v t).st = .empty ↔ x.st = .empty := by
  simp only [SReg.write]
  split <;> simp_all

/-- A lane written holds the value, and any other lane what it held (R93). -/
theorem write_lane (x : VReg) (act : Word) (r : Nat → Word) {l : Nat} (h : l < 32) :
    (x.write act r).lane l = if act.getLsbD l then r l else x.lane l := by
  simp [VReg.write, VReg.lane, List.getD_eq_getElem?_getD, h]

@[simp] theorem write_empty (x : VReg) (act : Word) (r : Nat → Word) : (x.write act r).empty = x.empty := rfl
@[simp] theorem write_poison (x : VReg) (act : Word) (r : Nat → Word) :
    (x.write act r).poison = x.poison &&& ~~~ act := rfl

/-- The unit's wave holds what was put there. -/
theorem cw_modCw {s : State} (f : Wave → Wave) (h : s.cur.wave < s.waves.length) : (s.modCw f).cw = f s.cw := by
  simp [State.cw, State.modCw, State.modWave, State.wave, List.getD_eq_getElem?_getD, h]

/-- Every other wave is as it was. -/
theorem wave_modWave_ne {s : State} {w v : Nat} (f : Wave → Wave) (h : v ≠ w) : (s.modWave w f).wave v = s.wave v := by
  simp [State.wave, State.modWave, List.getD_eq_getElem?_getD, Ne.symm h]

/-- A committing instruction answers outside recompute code (R43, R364). -/
theorem commit_eq_ok {s t : State} : s.commit = .ok t ↔ (s.cw.mode != .recompute) = true ∧ t = s.commitMark := by
  simp only [State.commit, bind_eq_ok, need_eq_ok]
  constructor
  · rintro ⟨_, h, e⟩; exact ⟨h, by cases e; rfl⟩
  · rintro ⟨h, rfl⟩; exact ⟨(), h, rfl⟩

/-- A predicate write answers outside a handler; k0 discards it (R97, R350). -/
theorem writeK_eq_ok {s t : State} {k : Nat} {m v : Word} :
    s.writeK k m v = .ok t ↔ s.cw.handling = false ∧ t = (if k = 0 then s else
      s.modCw fun w => { w with k := w.k.modify k fun x => (x &&& ~~~ m) ||| (v &&& m) }) := by
  unfold State.writeK
  split
  · next h => simp [fault, h]
  · next h => simp only [Except.ok.injEq, Bool.not_eq_true] at *; exact ⟨fun e => ⟨h, e.symm⟩, fun e => e.2.symm⟩

/-! ## What the register operations leave of memory -/

@[simp] theorem modBank_mem (s : State) (b : Nat) (f : Bank → Bank) : (s.modBank b f).mem = s.mem := rfl
@[simp] theorem modBank_bad (s : State) (b : Nat) (f : Bank → Bank) : (s.modBank b f).bad = s.bad := rfl

theorem push_mem (s : State) (r : Nat) (act : Word) (v : Nat → Word) :
    (s.push r act v).mem = s.mem ∧ (s.push r act v).bad = s.bad := by
  unfold State.push
  split
  · simp
  · split <;> simp

@[simp] theorem writeV_mem (s : State) (r : Nat) (act : Word) (v : Nat → Word) : (s.writeV r act v).mem = s.mem := by
  unfold State.writeV
  split
  · simp
  · exact (push_mem ..).1

@[simp] theorem writeV_bad (s : State) (r : Nat) (act : Word) (v : Nat → Word) : (s.writeV r act v).bad = s.bad := by
  unfold State.writeV
  split
  · simp
  · exact (push_mem ..).2

theorem takeSrc_mem (s : State) (r : Nat) : (s.takeSrc r).2.mem = s.mem ∧ (s.takeSrc r).2.bad = s.bad := by
  unfold State.takeSrc
  split
  · simp
  · split <;> simp

theorem takeSrcs_mem (l : List Nat) : ∀ s : State, (s.takeSrcs l).2.mem = s.mem ∧ (s.takeSrcs l).2.bad = s.bad := by
  induction l with
  | nil => exact fun _ => ⟨rfl, rfl⟩
  | cons p l ih =>
    intro s
    have a := takeSrc_mem s p
    have b := ih (s.takeSrc p).2
    exact ⟨b.1.trans a.1, b.2.trans a.2⟩

theorem writeK_mem {s t : State} {k : Nat} {m v : Word} (h : s.writeK k m v = .ok t) : t.mem = s.mem ∧ t.bad = s.bad := by
  obtain ⟨-, rfl⟩ := writeK_eq_ok.mp h
  split <;> simp

/-- Sources are taken when no pop finds its port shut and no active lane is poisoned (R100, R231). -/
theorem popSrcs_eq_ok {s t : State} {act : Word} {srcs : List Nat} {two : Bool} {vs : List VReg} :
    s.popSrcs act srcs two = .ok (vs, t) ↔
      s.firstShut srcs [] = none ∧ s.takeSrcs srcs = (vs, t) ∧ poisonedAt act vs = none := by
  unfold State.popSrcs
  split
  · next h => simp [fault, h]
  · next h =>
    dsimp only
    split
    · next q => simp only [fault, reduceCtorEq, false_iff]; rintro ⟨-, e, f⟩; simp [e, f] at q
    · next q =>
      simp only [Except.ok.injEq, h, true_and]
      constructor
      · intro e; exact ⟨e, by obtain ⟨rfl, -⟩ := Prod.ext_iff.mp e; exact q⟩
      · exact fun e => e.1

/-- The sources of a vector instruction are read when their waits are over and they can be taken. -/
theorem readSrcs_eq_ok {s t : State} {act : Word} {srcs : List (Nat × Bool)} {two : Bool} {vs : List VReg} :
    s.readSrcs act srcs two = .ok (vs, t) ↔ s.srcsReady false srcs [] = .ok () ∧ s.srcsReady true srcs [] = .ok () ∧
      s.firstShut (srcs.map (·.1)) [] = none ∧ s.takeSrcs (srcs.map (·.1)) = (vs, t) ∧ poisonedAt act vs = none := by
  simp only [State.readSrcs, bind_eq_ok, popSrcs_eq_ok]
  exact ⟨fun ⟨_, a, _, b, c⟩ => ⟨a, b, c⟩, fun ⟨a, b, c⟩ => ⟨(), a, (), b, c⟩⟩

theorem readSrcs_mem {s t : State} {act : Word} {srcs : List (Nat × Bool)} {two : Bool} {vs : List VReg}
    (h : s.readSrcs act srcs two = .ok (vs, t)) : t.mem = s.mem ∧ t.bad = s.bad := by
  have e := (readSrcs_eq_ok.mp h).2.2.2.1
  simpa [e] using takeSrcs_mem (srcs.map (·.1)) s

/-- One repetition of a vector instruction writes no byte of memory. -/
theorem vround_mem {s t : State} {p : VSpec} {act : Word} {op : Word → Word → Word → Word}
    (h : s.vround p act op = .ok t) : t.mem = s.mem ∧ t.bad = s.bad := by
  simp only [State.vround, bind_eq_ok] at h
  obtain ⟨_, -, ⟨vs, u⟩, e, f⟩ := h
  cases f
  simpa using readSrcs_mem e

theorem vreps_mem {act : Word} {op : Word → Word → Word → Word} (ps : List VSpec) :
    ∀ {s t : State}, s.vreps act op ps = .ok t → t.mem = s.mem ∧ t.bad = s.bad := by
  induction ps with
  | nil => intro s t h; cases h; exact ⟨rfl, rfl⟩
  | cons p ps ih =>
    intro s t h
    simp only [State.vreps, bind_eq_ok] at h
    obtain ⟨u, a, b⟩ := h
    exact ⟨(ih b).1.trans (vround_mem a).1, (ih b).2.trans (vround_mem a).2⟩

/-- A vector instruction writes no byte of memory (R100). -/
theorem vexec_mem {s t : State} {p : VSpec} {act : Word} {op : Word → Word → Word → Word}
    (h : s.vexec p act op = .ok t) : t.mem = s.mem ∧ t.bad = s.bad := by
  unfold State.vexec at h
  split at h
  · simp only [bind_eq_ok] at h
    obtain ⟨_, -, _, -, _, -, e⟩ := h
    exact vreps_mem _ e
  · simp only [bind_eq_ok] at h
    obtain ⟨_, -, e⟩ := h
    exact vround_mem e

theorem kexec_mem {s t : State} {kd : Nat} {srcs : List (Nat × Bool)} {act : Word} {op : Word → Word → Bool}
    (h : s.kexec kd srcs act op = .ok t) : t.mem = s.mem ∧ t.bad = s.bad := by
  simp only [State.kexec, bind_eq_ok] at h
  obtain ⟨_, -, _, -, ⟨vs, u⟩, e, f⟩ := h
  have a := readSrcs_mem e
  have b := writeK_mem f
  exact ⟨b.1.trans a.1, b.2.trans a.2⟩

theorem sbin_mem {s t : State} {sd sa sb : Nat} {op : SReg → SReg → DWord × Byte} (h : s.sbin sd sa sb op = .ok t) :
    t.mem = s.mem ∧ t.bad = s.bad := by
  simp only [State.sbin, bind_eq_ok] at h
  obtain ⟨_, -, _, -, e⟩ := h
  cases e
  simp

theorem suna_mem {s t : State} {sd sa : Nat} {op : SReg → DWord × Byte} (h : s.suna sd sa op = .ok t) :
    t.mem = s.mem ∧ t.bad = s.bad := by
  simp only [State.suna, bind_eq_ok] at h
  obtain ⟨_, -, _, -, e⟩ := h
  cases e
  simp

/-! ## Event queues, tasks, names -/

@[simp] theorem wf_eqWrite {s : State} (d : Nat) (e : List Byte) (c : Memory.wf s.mem = true) :
    Memory.wf (s.eqWrite d e).mem = true := by
  unfold State.eqWrite
  dsimp only
  split <;> simp [c]

@[simp] theorem rising_eqWrite {s : State} (d : Nat) (e : List Byte) (c : rising s.bad = true) :
    rising (s.eqWrite d e).bad = true := by
  unfold State.eqWrite
  dsimp only
  split <;> simp [c]

@[simp] theorem wf_eqAppend {s : State} (d : Nat) (e : List Byte) (c : Memory.wf s.mem = true) :
    Memory.wf (s.eqAppend d e).mem = true := by
  unfold State.eqAppend
  dsimp only
  split <;> simp [c]

@[simp] theorem rising_eqAppend {s : State} (d : Nat) (e : List Byte) (c : rising s.bad = true) :
    rising (s.eqAppend d e).bad = true := by
  unfold State.eqAppend
  dsimp only
  split <;> simp [c]

@[simp] theorem wf_pfAppend {s : State} (e : List Byte) (c : Memory.wf s.mem = true) :
    Memory.wf (s.pfAppend e).mem = true := by
  unfold State.pfAppend
  dsimp only
  split
  · exact c
  · split
    · split <;> simp [c]
    · exact c

@[simp] theorem rising_pfAppend {s : State} (e : List Byte) (c : rising s.bad = true) :
    rising (s.pfAppend e).bad = true := by
  unfold State.pfAppend
  dsimp only
  split
  · exact c
  · split
    · split <;> simp [c]
    · exact c

theorem readyTask_mem (s : State) (t : Task) : (s.readyTask t).mem = s.mem ∧ (s.readyTask t).bad = s.bad := ⟨rfl, rfl⟩

theorem decDep_mem (s : State) (die idx : Nat) : (s.decDep die idx).mem = s.mem ∧ (s.decDep die idx).bad = s.bad := by
  unfold State.decDep
  dsimp only
  split <;> exact ⟨rfl, rfl⟩

@[simp] theorem freeTask_mem (s : State) (t : Task) : (s.freeTask t).mem = s.mem := rfl
@[simp] theorem freeTask_bad (s : State) (t : Task) : (s.freeTask t).bad = s.bad := rfl

theorem finishTask_mem (s : State) (t : Task) : (s.finishTask t).mem = s.mem ∧ (s.finishTask t).bad = s.bad :=
  foldl_keeps (P := fun u : State => u.mem = s.mem ∧ u.bad = s.bad)
    (fun u i h => ⟨(decDep_mem u t.die i).1.trans h.1, (decDep_mem u t.die i).2.trans h.2⟩) t.succ s ⟨rfl, rfl⟩

@[simp] theorem release_mem (s : State) (d : Nat) (n : DWord) : (s.release d n).mem = s.mem := by
  unfold State.release
  split <;> rfl

@[simp] theorem release_bad (s : State) (d : Nat) (n : DWord) : (s.release d n).bad = s.bad := by
  unfold State.release
  split <;> rfl

/-! ## The end of waves and gangs, and traps -/

@[simp] theorem wf_dropPrivate {s : State} (w : Nat) (c : Memory.wf s.mem = true) :
    Memory.wf (s.dropPrivate w).mem = true := by simp [State.dropPrivate, c]

@[simp] theorem rising_dropPrivate {s : State} (w : Nat) (c : rising s.bad = true) :
    rising (s.dropPrivate w).bad = true := by simp [State.dropPrivate, c]

theorem closeByRole_mem (s : State) (g r : Nat) : (s.closeByRole g r).mem = s.mem ∧ (s.closeByRole g r).bad = s.bad := by
  unfold State.closeByRole
  dsimp only
  split <;> exact ⟨rfl, rfl⟩

theorem finishTasks_mem (l : List Task) (s : State) :
    (l.foldl (fun s t => s.finishTask (s.task t.die t.idx)) s).mem = s.mem
    ∧ (l.foldl (fun s t => s.finishTask (s.task t.die t.idx)) s).bad = s.bad :=
  foldl_keeps (P := fun u : State => u.mem = s.mem ∧ u.bad = s.bad)
    (fun u _ h => ⟨(finishTask_mem u _).1.trans h.1, (finishTask_mem u _).2.trans h.2⟩) l s ⟨rfl, rfl⟩

theorem endTasks_mem (s : State) (w : Nat) : (s.endTasks w).mem = s.mem ∧ (s.endTasks w).bad = s.bad := by
  unfold State.endTasks
  split
  · exact ⟨rfl, rfl⟩
  · exact finishTasks_mem _ s

@[simp] theorem wf_endWave {s : State} (w : Nat) (c : Memory.wf s.mem = true) : Memory.wf (s.endWave w).mem = true := by
  unfold State.endWave
  dsimp only
  split
  · exact c
  · rw [(closeByRole_mem ..).1]
    apply wf_dropViews
    apply wf_dropPrivate
    rw [(endTasks_mem ..).1]
    exact c

@[simp] theorem rising_endWave {s : State} (w : Nat) (c : rising s.bad = true) : rising (s.endWave w).bad = true := by
  unfold State.endWave
  dsimp only
  split
  · exact c
  · rw [(closeByRole_mem ..).2]
    apply rising_dropViews
    apply rising_dropPrivate
    rw [(endTasks_mem ..).2]
    exact c

theorem askPreempt_mem (s : State) (g : Nat) : (s.askPreempt g).mem = s.mem ∧ (s.askPreempt g).bad = s.bad :=
  foldl_keeps (P := fun u : State => u.mem = s.mem ∧ u.bad = s.bad)
    (fun u w (h : u.mem = s.mem ∧ u.bad = s.bad) => show (u.modWave w _).mem = _ ∧ (u.modWave w _).bad = _ from h) _ _ ⟨rfl, rfl⟩

theorem ovfFree_mem (s : State) (g : Nat) (drop : Bool) : (s.ovfFree g drop).mem = s.mem ∧ (s.ovfFree g drop).bad = s.bad := by
  unfold State.ovfFree
  dsimp only
  split
  · exact ⟨rfl, rfl⟩
  · refine foldl_keeps (P := fun u : State => u.mem = s.mem ∧ u.bad = s.bad)
      (fun u i h => ⟨(askPreempt_mem u i).1.trans h.1, (askPreempt_mem u i).2.trans h.2⟩) _ _ ?_
    split
    · exact foldl_keeps (P := fun u : State => u.mem = s.mem ∧ u.bad = s.bad)
        (fun u e h => ⟨(release_mem u _ _).trans h.1, (release_bad u _ _).trans h.2⟩) _ _ ⟨rfl, rfl⟩
    · exact ⟨rfl, rfl⟩

@[simp] theorem shorten_mem (s : State) (g : Nat) : (s.shorten g).mem = s.mem := by
  unfold State.shorten
  dsimp only
  split <;> rfl

@[simp] theorem shorten_bad (s : State) (g : Nat) : (s.shorten g).bad = s.bad := by
  unfold State.shorten
  dsimp only
  split <;> rfl

@[simp] theorem wf_killGang {s : State} (g : Nat) (x : Byte) (a : Addr) (e : DWord) (c : Memory.wf s.mem = true) :
    Memory.wf (s.killGang g x a e).mem = true := by
  unfold State.killGang
  dsimp only
  split
  · exact c
  · apply wf_eqAppend
    split
    · simp only [State.modGang_mem, shorten_mem, (ovfFree_mem ..).1, State.modLaunch_mem]
      exact foldl_keeps (P := fun u : State => Memory.wf u.mem = true) (fun u w h => wf_endWave w h) _ _ c
    · simp only [State.modGang_mem, shorten_mem, State.modLaunch_mem]
      exact foldl_keeps (P := fun u : State => Memory.wf u.mem = true) (fun u w h => wf_endWave w h) _ _ c

@[simp] theorem rising_killGang {s : State} (g : Nat) (x : Byte) (a : Addr) (e : DWord) (c : rising s.bad = true) :
    rising (s.killGang g x a e).bad = true := by
  unfold State.killGang
  dsimp only
  split
  · exact c
  · apply rising_eqAppend
    split
    · simp only [State.modGang_bad, shorten_bad, (ovfFree_mem ..).2, State.modLaunch_bad]
      exact foldl_keeps (P := fun u : State => rising u.bad = true) (fun u w h => rising_endWave w h) _ _ c
    · simp only [State.modGang_bad, shorten_bad, State.modLaunch_bad]
      exact foldl_keeps (P := fun u : State => rising u.bad = true) (fun u w h => rising_endWave w h) _ _ c

@[simp] theorem unelect_mem (s : State) : s.unelect.mem = s.mem := by
  unfold State.unelect
  split <;> simp

@[simp] theorem unelect_bad (s : State) : s.unelect.bad = s.bad := by
  unfold State.unelect
  split <;> simp

@[simp] theorem drops_mem (s : State) (a b : Nat) : (s.drops a b).mem = s.mem := by
  unfold State.drops
  split <;> rfl

@[simp] theorem drops_bad (s : State) (a b : Nat) : (s.drops a b).bad = s.bad := by
  unfold State.drops
  split <;> rfl

@[simp] theorem refused_mem (s : State) (t : Trap) : (s.refused t).mem = s.mem := by
  unfold State.refused
  dsimp only
  split
  · rfl
  · split <;> simp

@[simp] theorem refused_bad (s : State) (t : Trap) : (s.refused t).bad = s.bad := by
  unfold State.refused
  dsimp only
  split
  · rfl
  · split <;> simp

@[simp] theorem wf_takeTrap {s : State} (t : Trap) (c : Memory.wf s.mem = true) : Memory.wf (s.takeTrap t).mem = true := by
  unfold State.takeTrap
  dsimp only
  split
  · simp [c]
  · split <;> simp [State.report, c]

@[simp] theorem rising_takeTrap {s : State} (t : Trap) (c : rising s.bad = true) : rising (s.takeTrap t).bad = true := by
  unfold State.takeTrap
  dsimp only
  split
  · simp [c]
  · split <;> simp [State.report, c]

/-! ## Readers in flight -/

theorem setOp_mem (s : State) (o : Op) : (s.setOp o).mem = s.mem ∧ (s.setOp o).bad = s.bad := ⟨rfl, rfl⟩

theorem lookAgain_mem (s : State) (o : Op) : (s.lookAgain o).mem = s.mem ∧ (s.lookAgain o).bad = s.bad := by
  unfold State.lookAgain
  dsimp only
  split
  · split
    · exact ⟨rfl, rfl⟩
    · split <;> exact ⟨rfl, rfl⟩
  · split
    · exact ⟨rfl, rfl⟩
    · split
      · exact ⟨rfl, rfl⟩
      · split <;> exact ⟨rfl, rfl⟩
  · exact ⟨rfl, rfl⟩

/-- Looking again changes no byte of memory. -/
theorem lookAll_mem (s : State) : s.lookAll.mem = s.mem ∧ s.lookAll.bad = s.bad :=
  foldl_keeps (P := fun u : State => u.mem = s.mem ∧ u.bad = s.bad)
    (fun u o h => ⟨(lookAgain_mem u o).1.trans h.1, (lookAgain_mem u o).2.trans h.2⟩) s.flight s ⟨rfl, rfl⟩

/-- What `finish` answers keeps memory in its form when what the meaning answered did, and the states it faulted or
waited in. -/
theorem wf_finish {s t : State} {r : Act State} (c : Memory.wf s.mem = true) (ok : ∀ u, r = .ok u → Memory.wf u.mem = true)
    (keep : ∀ u, r = .error (.keep u) → Memory.wf u.mem = true)
    (trap : ∀ u x, r = .error (.trap u x) → Memory.wf u.mem = true) (h : finish s r = .next t) : Memory.wf t.mem = true := by
  obtain e | ⟨-, rfl⟩ | ⟨u, e, rfl⟩ | ⟨u, x, e, rfl⟩ := finish_cases h
  · exact ok _ e
  · exact c
  · simpa using keep u e
  · exact wf_takeTrap x (trap u x e)

theorem rising_finish {s t : State} {r : Act State} (c : rising s.bad = true) (ok : ∀ u, r = .ok u → rising u.bad = true)
    (keep : ∀ u, r = .error (.keep u) → rising u.bad = true)
    (trap : ∀ u x, r = .error (.trap u x) → rising u.bad = true) (h : finish s r = .next t) : rising t.bad = true := by
  obtain e | ⟨-, rfl⟩ | ⟨u, e, rfl⟩ | ⟨u, x, e, rfl⟩ := finish_cases h
  · exact ok _ e
  · exact c
  · simpa using keep u e
  · exact rising_takeTrap x (trap u x e)

end Sys2Proof.Machine
end

