-- ==== Sys2Proof/Tests/Slice0.lean ====
section
/-! SUPPORT. Tests. A test `test_meets_…` takes a statement and applies it to a concrete state and operands: it shows that
these meet all the hypotheses of one clause of the statement together, each proved of the numbers alone. -/
namespace Sys2Proof.Tests
open Sys2Proof.Machine Sys2Proof.Claims

-- One theorem at a time: many at once would each take a thread.
set_option Elab.async false

/-! ## Small states -/

/-- Vector register with lane l holding f l. -/
def vr (f : Nat → Nat) : VReg := { lanes := (List.range 32).map fun l => BitVec.ofNat 32 (f l) }

/-- A live fragment of all lanes at 0x100 whose scalars 1, 2, 3 hold 5, 0x208 and 0x40. -/
def fr : Frag := { live := true, pc := 0x100, lanes := 0xFFFFFFFF, exm := 0xFFFFFFFF
                   s := [{}, { val := 5 }, { val := 0x208 }, { val := 0x40 }] ++ List.replicate 60 {} }

/-- A wave of one fragment whose registers v1, v2 hold the lane number and seven times it. -/
def wv : Wave := { frags := fr :: List.replicate 7 {}
                   v := [{}, vr id, vr (7 * ·)] ++ List.replicate 53 {}
                   k := [0xFFFFFFFF, 0xFF, 0] ++ List.replicate 5 0 }

def ga : Gang := { wgs := [{ waves := [0], tiles := 16 }], banks := [{}, {}] }
def la : Launch := { block := { ngangs := 1, roles := [{}] }, placed := 1 }

/-- A package with one device, one launch, one gang and one wave, whose unit at 0x100 is in hand. -/
def st (w : Wave := wv) (g : Gang := ga) (d : Vd := { live := true }) (l : Launch := la) : State :=
  { waves := [w], gangs := [g], launches := [l], vds := [d]
    cur := { start := 0x100, pc := 0x100, nxt := 0x104 } }

/-- The unit carries a prefix. -/
def pfxd (s : State) (p : Pfx) : State := { s with cur := { s.cur with pfx := some p } }
def mode (w : Wave) (m : WMode) : Wave := { w with mode := m }
def setF (w : Wave) (f : Nat) (g : Frag → Frag) : Wave := w.modFrag f g
def setV (w : Wave) (r : Nat) (x : VReg) : Wave := { w with v := w.v.set r x }
/-- A second fragment of lanes 16-31. -/
def two : Wave := { wv with frags := { fr with lanes := 0xFFFF, exm := 0xFFFF, depth := 1, joins := [⟨1, 1, true⟩] } ::
                                     { fr with lanes := 0xFFFF0000, exm := 0xFFFF0000, depth := 1, joins := [⟨1, 1, false⟩] } ::
                                     List.replicate 6 {} }

/-- Fragment f is at its default beyond the eight. -/
theorem frag_beyond {s : State} {f : Nat} (n : s.cw.frags.length ≤ f) : frag s f = {} := by
  unfold frag; rw [List.getD_eq_getElem?_getD, List.getElem?_eq_none n]; rfl


theorem cur (w : Wave) (n : w.frags.length = 8) (v : (w.frags.getD 0 {}).live = true) : Cur (st w) :=
  ⟨Nat.zero_lt_one, Nat.zero_lt_succ 7, n, v⟩
/-! ## Vector and scalar instructions -/

def fV : VF := { h := 0, tb := 0, ta := 0, kp := 0, vb := 2, va := 1, vd := 3 }
theorem test_meets_VectorLanes (h : VectorLanes) : ∃ t, exec (.vadd fV) st = .next t :=
  ⟨_, h st (.vadd fV) _ rfl rfl (by decide +kernel)⟩
theorem test_meets_VectorCompares (h : VectorCompares) : ∃ t, exec (.vcmplts fV) st = .next t :=
  ⟨_, h st (.vcmplts fV) _ rfl (by decide +kernel)⟩
theorem test_meets_VectorMoves_vsel (h : VectorMoves) : ∃ t, exec (.vsel fV) st = .next t :=
  ⟨_, h.1 st fV rfl (by decide +kernel) rfl (by decide +kernel) (by decide +kernel)⟩
theorem test_meets_VectorMoves_vbcst (h : VectorMoves) : ∃ t, exec (.vbcst 1 2 3) st = .next t :=
  ⟨_, h.2.1 st 1 2 3 (by decide +kernel) rfl (by decide +kernel)⟩
theorem test_meets_VectorMoves_vlane (h : VectorMoves) : ∃ t, exec (.vlane 1 3) st = .next t :=
  ⟨_, h.2.2 st 1 3 (by decide +kernel) rfl⟩
theorem test_meets_PredicateOps (h : PredicateOps) : ∃ t, exec (.kand ⟨2, 1, 1⟩) st = .next t :=
  ⟨_, h st (.kand ⟨2, 1, 1⟩) _ _ rfl (by decide +kernel)⟩
theorem test_meets_ScalarValues (h : ScalarValues) : ∃ t, exec (.slts ⟨2, 1, 4⟩) st = .next t :=
  ⟨_, h.1 st (.slts ⟨2, 1, 4⟩) _ rfl (by decide +kernel)⟩
theorem test_meets_ScalarValues_time (h : ScalarValues) : ∃ t, exec (.time 2) st = .next t :=
  ⟨_, h.2 st 2 (by decide +kernel)⟩
theorem test_meets_ScalarWriteBack (h : ScalarWriteBack) : (st.writeS 1 9 3).done.sreg 1 = { val := 9, tag := 3, st := .full } :=
  (h st 1 9 3 (by decide) (by decide) (by decide)).trans (by decide +kernel)

/-- REP with one more repetition and no step. -/
def rp : State := pfxd st (.rep 0 0 0 1)
theorem test_meets_VectorRep (h : VectorRep) : ∃ t, exec (.vadd fV) rp = .next t :=
  ⟨_, h rp (.vadd fV) _ 0 0 0 1 rfl (by decide +kernel) rfl (by decide +kernel) (by decide +kernel)⟩
theorem test_meets_VectorRepChecks_port (h : VectorRepChecks) :
    exec (.vadd { fV with vd := 55 }) rp = .next (rp.takeTrap ⟨0x01, 0, 0, false⟩) :=
  (h rp (.vadd { fV with vd := 55 }) _ 0 0 0 1 rfl (by decide +kernel) rfl rfl).1 (by decide +kernel)
theorem test_meets_VectorRepChecks_block (h : VectorRepChecks) :
    exec (.vadd { fV with vd := 54 }) rp = .next (rp.takeTrap ⟨0x09, 0, 0, false⟩) :=
  (h rp (.vadd { fV with vd := 54 }) _ 0 0 0 1 rfl (by decide +kernel) rfl rfl).2 (by decide +kernel) (by decide +kernel) rfl
/-- v1 is EMPTY; v1 is poisoned in lane 0. -/
def mt : State := st (setV wv 1 { empty := true })
def po : State := st (setV wv 1 { poison := 1 })
theorem test_meets_VectorHolds_waits (h : VectorHolds) :
    exec (.vadd fV) mt = .next { mt with cur := { mt.cur with stalled := true, opened := false } } :=
  ((h mt (.vadd fV) _ rfl rfl (by decide +kernel)).1 (by decide +kernel)).1 (by decide +kernel)
theorem test_meets_VectorHolds_fempty (h : VectorHolds) :
    exec (.vadd { fV with ta := 1 }) mt = .next (mt.takeTrap ⟨0x07, 1, 0, false⟩) :=
  ((h mt (.vadd { fV with ta := 1 }) _ rfl rfl (by decide +kernel)).1 (by decide +kernel)).2.1 (by decide +kernel) 1 (by decide +kernel)
theorem test_meets_VectorHolds_poison (h : VectorHolds) : exec (.vadd fV) po = .next (po.takeTrap ⟨0x06, 1, 0, false⟩) :=
  ((h po (.vadd fV) _ rfl rfl (by decide +kernel)).1 (by decide +kernel)).2.2 (by decide +kernel) 1 (by decide +kernel)
theorem test_meets_VectorHolds_block (h : VectorHolds) :
    exec (.vadd { fV with vd := 40 }) st = .next (st.takeTrap ⟨0x09, 0, 0, false⟩) :=
  (h st (.vadd { fV with vd := 40 }) _ rfl rfl (by decide +kernel)).2.1 rfl rfl (by decide +kernel)
/-- The unit is a handler's. -/
def hd : State := st (mode wv (.handler 0))
theorem test_meets_VectorHolds_handler (h : VectorHolds) :
    exec (.vadd { fV with vd := 8 }) hd = .next (hd.takeTrap ⟨0x01, 0, 0, false⟩) :=
  (h hd (.vadd { fV with vd := 8 }) _ rfl rfl (by decide +kernel)).2.2 rfl (by decide +kernel)
theorem test_meets_Shuffles (h : Shuffles) : ∃ t, exec (.vshfl fV) st = .next t :=
  ⟨_, h st (.vshfl fV) _ rfl (by decide +kernel)⟩
theorem test_meets_PisteResults (h : PisteResults) : ∃ t, exec (.vredadd ⟨0, 0, 1, 1, 3⟩) st = .next t :=
  ⟨_, h st (.vredadd ⟨0, 0, 1, 1, 3⟩) ⟨0, 0, 1, 1, 3⟩ 5 (by decide) rfl ⟨_, rfl⟩ (by decide +kernel) rfl (by decide +kernel) (by decide +kernel)⟩
/-- DRAW at its last value. -/
def ld : State := st { wv with rngc := 0xFFFFFF }
theorem test_meets_RandomDraws_last (h : RandomDraws) : exec (.vrand 0 3) ld = .next (ld.takeTrap ⟨0x0E, 0, 0, false⟩) :=
  (h ld (.vrand 0 3) _ _ _ _ rfl).1 rfl
theorem test_meets_RandomDraws (h : RandomDraws) : ∃ t, exec (.vgumb ⟨0, 0, 0, 1, 3⟩) st = .next t :=
  ⟨_, (h st (.vgumb ⟨0, 0, 0, 1, 3⟩) _ _ _ _ rfl).2 (by decide +kernel) (by decide +kernel) rfl (by decide +kernel) (by decide +kernel)⟩

theorem test_meets_ScalarFrame (h : ScalarFrame) : ∃ t, exec (.slts ⟨2, 1, 4⟩) st = .next t ∧ RegsOnly st t :=
  ⟨_, rfl, (h.1 st _ (.slts ⟨2, 1, 4⟩) _ rfl (by decide +kernel) rfl).1⟩
theorem test_meets_ScalarFrame_time (h : ScalarFrame) : ∃ t, exec (.time 2) st = .next t ∧ t.cw.k = st.cw.k :=
  ⟨_, rfl, (h.2 st _ 2 (by decide +kernel) rfl).2.2.2⟩
theorem test_meets_PredicateFrame (h : PredicateFrame) : ∃ t, exec (.vcmplts fV) st = .next t ∧ RegsOnly st t :=
  ⟨_, rfl, (h st _ (.vcmplts fV) _ (.inl ⟨_, rfl, by decide +kernel, rfl, by decide +kernel⟩) rfl).1⟩
theorem test_meets_PredicateFrame_kand (h : PredicateFrame) : ∃ t, exec (.kand ⟨2, 1, 1⟩) st = .next t ∧ RegsOnly st t :=
  ⟨_, rfl, (h st _ (.kand ⟨2, 1, 1⟩) _ (.inr ⟨_, rfl, rfl⟩) rfl).1⟩
theorem test_meets_VectorFrame (h : VectorFrame) : ∃ t, exec (.vadd fV) st = .next t ∧ RegsOnly st t :=
  ⟨_, rfl, (h st _ (.vadd fV) _ rfl rfl (by decide +kernel) (by decide +kernel) rfl).1⟩

/-! ## Control -/

theorem test_meets_Prefixes (h : Prefixes) : ∃ t, exec (.hint 1) st = .next t :=
  ⟨_, (h st (.hint 1) _ rfl).1 rfl⟩
theorem test_meets_Prefixes_second (h : Prefixes) : exec (.hint 1) rp = .next (rp.takeTrap ⟨0x01, 0, 0, false⟩) :=
  (h rp (.hint 1) _ rfl).2 (by decide +kernel)
theorem test_meets_Branches (h : Branches) : ∃ t, exec (.bnz ⟨0xFFFF, 1⟩) st = .next t :=
  ⟨_, h st (.bnz ⟨0xFFFF, 1⟩) _ _ _ rfl (by decide +kernel)⟩
theorem test_meets_Jumps_call (h : Jumps) : ∃ t, exec (.call 4) st = .next t :=
  ⟨_, h.2.1 st 4 rfl⟩
theorem test_meets_Jumps_callr (h : Jumps) : ∃ t, exec (.callr 2) st = .next t :=
  ⟨_, h.2.2 st (.callr 2) _ _ rfl (by decide +kernel) fun _ => rfl⟩
def br1 : BR := { disp := 8, sa := 1 }
/-- All eight fragments live; the wave's first fragment at depth 16. -/
def full8 : State := st { wv with frags := List.replicate 8 fr }
def deep : State := st (setF wv 0 fun f => { f with depth := 16 })
theorem test_meets_BrvWhole_none (h : BrvWhole) : exec (.brv { br1 with sa := 2 }) st = .next (goesTo st 0x104) :=
  (h st { br1 with sa := 2 } rfl).1 (by decide +kernel)
theorem test_meets_BrvWhole_all (h : BrvWhole) : exec (.brv { br1 with sa := 0 }) st = .next (goesTo st 0x110) :=
  (h st { br1 with sa := 0 } rfl).2.1 (by decide +kernel) (by decide +kernel)
theorem test_meets_BrvWhole_full (h : BrvWhole) : exec (.brv br1) full8 = .next (full8.takeTrap ⟨0x08, 0, 0, false⟩) :=
  (h full8 br1 rfl).2.2.1 (by decide +kernel) (by decide +kernel) (by decide +kernel)
theorem test_meets_BrvWhole_deep (h : BrvWhole) : exec (.brv br1) deep = .next (deep.takeTrap ⟨0x16, 0, 0, false⟩) :=
  (h deep br1 rfl).2.2.2 (by decide +kernel) (by decide +kernel) ⟨1, by decide +kernel⟩ (by decide +kernel)
theorem few_joins (w : Wave) (n : w.frags.length = 8) (q : ∀ g < 8, (w.frags.getD g {}).joins.length ≤ 16) :
    ∀ g, (frag (st w) g).joins.length ≤ 16 := fun g =>
  if h : g < 8 then q g h else by rw [frag_beyond (by show w.frags.length ≤ g; omega)]; decide
theorem test_meets_BrvCarves (h : BrvCarves) : ∃ t e, exec (.brv br1) st = .next t ∧ e ≠ 0 :=
  (h st br1 (cur _ rfl rfl) rfl (by decide +kernel) (by decide +kernel) (by decide +kernel)
    (few_joins wv rfl (by decide +kernel)) 1 (by decide) rfl (by decide +kernel)).imp fun _ x => x.imp fun _ y => ⟨y.1, y.2.1⟩
theorem test_meets_JoinMerges_top (h : JoinMerges) : ∃ t, exec .join st = .next t :=
  ⟨_, h.1 st rfl rfl⟩
theorem test_meets_JoinMerges_parks (h : JoinMerges) : ∃ t, exec .join (st two) = .next t :=
  (h.2.1 (st two) (cur _ rfl rfl) rfl (by decide +kernel) (by decide +kernel) ⟨1, by decide +kernel⟩).imp fun _ x => x.1
/-- The other side waits at its JOIN. -/
def joins : State := st (setF two 1 fun f => { f with park := .join, pc := 0x80 })
theorem test_meets_JoinMerges_merges (h : JoinMerges) : ∃ t, exec .join joins = .next t :=
  by refine (h.2.2 joins 0 (cur _ rfl rfl) rfl ?_ ?_ (by decide) ?_
    ?_ ?_).imp fun _ x => x.1 <;> decide +kernel
theorem test_meets_ExitEnds_some (h : ExitEnds) : ∃ t, exec .exit (st (setF wv 0 fun f => { f with exm := 0xF })) = .next t :=
  ⟨_, h.1 (st (setF wv 0 fun f => { f with exm := 0xF })) rfl (by decide +kernel)⟩
theorem test_meets_ExitEnds_all (h : ExitEnds) : ∃ t, exec .exit st = .next t :=
  (h.2 st (cur _ rfl rfl) rfl rfl rfl).imp fun _ x => x.1
theorem test_meets_ElectsLowest (h : ElectsLowest) : ∃ t, exec (.elect 4) st = .next t :=
  (h st 4 (by decide +kernel) rfl rfl).imp fun _ ⟨_, x⟩ => x.1
theorem test_meets_WaveSettings_vpart (h : WaveSettings) : ∃ t, exec (.vpart 32) st = .next t :=
  ⟨_, h.1 st 32 (by decide)⟩
theorem test_meets_WaveSettings_exmask (h : WaveSettings) : ∃ t, exec (.exmask 2 1) st = .next t :=
  ⟨_, h.2.1 st 2 1 rfl (by decide)⟩
/-- A role with extended blocks; the wave holds block 0; block 0 is taken by another wave. -/
def xl : Launch := { la with block := { ngangs := 1, roles := [{ xb := true }] } }
def xst (w : Wave := wv) : State := st w ga { live := true } xl
def hw : Wave := { wv with xbh := 1 }
theorem test_meets_ExtendedBlock_xblk (h : ExtendedBlock) : exec .vxacq st = .next (st.takeTrap ⟨0x09, 0, 0, false⟩) :=
  h.1 st (by decide +kernel)
theorem test_meets_ExtendedBlock_held (h : ExtendedBlock) : ∃ t, exec .vxacq (xst hw) = .next t :=
  ⟨_, h.2.1 (xst hw) (by decide +kernel) rfl rfl rfl⟩
theorem test_meets_ExtendedBlock_granted (h : ExtendedBlock) : ∃ t, exec .vxacq xst = .next t :=
  (h.2.2.1 xst 0 (by decide +kernel) (by decide +kernel) rfl rfl rfl (by intro n e; cases (show xst.cf.park = .none from rfl).symm.trans e)
    (by decide +kernel) (by decide) (by decide +kernel) (by decide +kernel) rfl).imp fun _ x => x.1
theorem test_meets_ExtendedBlock_relxblk (h : ExtendedBlock) : exec .vxrel deep = .next (deep.takeTrap ⟨0x09, 0, 0, false⟩) :=
  h.2.2.2.1 deep (by decide +kernel)
theorem test_meets_ExtendedBlock_relnone (h : ExtendedBlock) : ∃ t, exec .vxrel xst = .next t :=
  ⟨_, h.2.2.2.2.1 xst (by decide +kernel) rfl rfl⟩
theorem full_regs (w : Wave) (n : w.v.length = 56) (q : ∀ r < 56, (w.v.getD r {}).empty = false) :
    ∀ r, (w.v.getD r {}).empty = false := fun r =>
  if h : r < 56 then q r h else by rw [List.getD_eq_getElem?_getD, List.getElem?_eq_none (by omega)]; rfl
theorem no_ask (w : Wave) (b : w.blk = none) (q : (w.frags.all fun f => match f.park with | .vx _ => false | _ => true) = true) :
    asksNoBlock w := ⟨b, fun f m _ n e => by have := List.all_eq_true.mp q f m; rw [e] at this; cases this⟩
theorem test_meets_ExtendedBlock_rel (h : ExtendedBlock) : ∃ t, exec .vxrel (xst hw) = .next t :=
  (h.2.2.2.2.2 (xst hw) (by decide +kernel) (by decide +kernel) rfl rfl (no_ask hw rfl (by decide +kernel))
    (fun r _ => full_regs hw rfl (by decide +kernel) r)).imp fun _ x => x.1

/-- The fragment waits for a block since TIME 0, behind another wave's request, and it is TIME 2^20. -/
def late : State := { st with waves := [setF wv 0 fun f => { f with park := .vx 0, parkSeq := 5 }, { wv with blk := some 3 }], time := 2 ^ 20 }
theorem test_meets_BlockWaitEnds (h : BlockWaitEnds) : ∃ t, exec (.xwait 0) late = .next t :=
  ⟨_, h late 0 0 0 (by decide +kernel) rfl rfl (.inr (by decide +kernel)) (by decide +kernel)⟩

/-! ## Traps, system registers, barriers -/

/-- A device whose vector of cause 0x11 has this route. -/
def routed (r : Nat) : Vd := { live := true, vectors := (List.replicate 32 0).set 0x11 (BitVec.ofNat 128 (0x400 + r * 2 ^ 64)) }
def tr : Trap := ⟨0x11, 5, 0, true⟩
def rst (r : Nat) : State := st wv ga (routed r)
theorem test_meets_TrapToHandler (h : TrapToHandler) : ((rst 1).takeTrap tr).cw.mode = .handler 0 :=
  (h (rst 1) tr (by decide +kernel) (by decide +kernel) rfl rfl rfl (by unfold fixedRoute; decide +kernel) (by decide +kernel)).2.1
theorem test_meets_TrapToSupervisor (h : TrapToSupervisor) : ((rst 2).takeTrap tr).cw.mode = .suspended 0 0 :=
  (h (rst 2) tr (by decide +kernel) (by decide +kernel) rfl rfl rfl (.inr (by decide +kernel)) rfl (by unfold State.canon; decide +kernel) rfl (by decide +kernel)).2.1
theorem test_meets_TrapToSupervisor_fixed (h : TrapToSupervisor) : ((rst 1).takeTrap ⟨0x0D, 0, 0, false⟩).cw.mode = .suspended 0 0 :=
  (h (rst 1) ⟨0x0D, 0, 0, false⟩ (by decide +kernel) (by decide +kernel) rfl rfl rfl (.inl (.inl rfl)) rfl (by unfold State.canon; decide +kernel) rfl (by decide +kernel)).2.1
theorem test_meets_TrapKills (h : TrapKills) : ((rst 0).takeTrap tr).launch 0 |>.killed :=
  (h (rst 0) tr (by decide +kernel) (by decide +kernel) (by decide +kernel) rfl (by decide +kernel) (.inr (.inr ⟨rfl, by unfold fixedRoute; decide +kernel, .inl (by decide +kernel)⟩))).2
theorem test_meets_TrapKills_handler (h : TrapKills) : (hd.takeTrap tr).launch 0 |>.killed :=
  (h hd tr (by decide +kernel) (by decide +kernel) (by decide +kernel) rfl (by decide +kernel) (.inl rfl)).2
theorem test_meets_TrapAndReturn_rett (h : TrapAndReturn) : ∃ t, exec .rett hd = .next t :=
  (h.2.1 hd 0 (by decide +kernel) (by decide +kernel) rfl).imp fun _ x => x.1
def rc : State := st (mode wv .recompute)
theorem test_meets_TrapAndReturn_recompute (h : TrapAndReturn) : ∃ t, exec .rett rc = .next t :=
  (h.2.2.1 rc (by decide +kernel) (by decide +kernel) rfl).imp fun _ x => x.1
theorem test_meets_TrapAndReturn_priv (h : TrapAndReturn) : exec .rett st = .next (st.takeTrap ⟨0x1A, 0, 0, false⟩) :=
  h.2.2.2 st rfl (by decide)
theorem test_meets_SystemRegisters_srd (h : SystemRegisters) : ∃ t, exec (.srd 13 4) st = .next t :=
  ⟨_, h.1 st 13 4 (by decide) (by decide +kernel)⟩
theorem test_meets_SystemRegisters_time (h : SystemRegisters) : exec (.srd 14 4) st = exec (.time 4) st := h.2.1 st 4
theorem test_meets_SystemRegisters_swr (h : SystemRegisters) : ∃ t, exec (.swr 2 2) st = .next t :=
  ⟨_, h.2.2.1 st 2 2 (by decide +kernel) (by decide)⟩
theorem test_meets_SystemRegisters_epc (h : SystemRegisters) : exec (.swr 9 2) st = .next (st.takeTrap ⟨0x1A, 0, 0, false⟩) :=
  h.2.2.2 st 2 (by decide +kernel) rfl (by decide)
def yf : YF := { imm := 1, a := 3, d := 4 }
/-- Local memory holds a word at 0x40. -/
def word64 (v : DWord) (w : Wave := wv) : State := putWord (st w) ⟨.sram, 0x40⟩ v
/-- A free bank takes no local address; 0x41 is no address of a word. -/
def off (v : DWord) : Wave := setF wv 0 fun f => { f with s := f.s.set 3 { val := v } }
theorem test_meets_BarrierWords_over (h : BarrierWords) :
    exec (.barwarr yf) (word64 0x01000000) = .next ((word64 0x01000000).takeTrap ⟨0x0F, 0x40, 0, false⟩) :=
  (Eq.mp (if_pos (by decide +kernel)) ((h.1 (word64 0x01000000) yf ⟨.sram, 0x40⟩ (by decide +kernel) (by decide +kernel) rfl).2 rfl))
theorem test_meets_BarrierWords_last (h : BarrierWords) : ∃ t, exec (.barwarr yf) st = .next t :=
  ⟨_, (Eq.mp (if_neg (by decide +kernel)) ((h.1 st yf ⟨.sram, 0x40⟩ (by decide +kernel) (by decide +kernel) rfl).2 rfl)) (by decide)⟩
/-- The fragment has a local store in flight. -/
def busyLocal : State := { st with flight := [{ id := 0, owners := [0], kind := .store [{ lane := 0, place := .direct ⟨.sram, 0x40⟩, size := 4, data := [1, 0, 0, 0] }] }], seq := 1 }
theorem test_meets_BarrierWords_waits (h : BarrierWords) : exec (.barwarr yf) busyLocal = .next (stalls busyLocal) :=
  (h.1 busyLocal yf ⟨.sram, 0x40⟩ (by decide +kernel) (by decide +kernel) rfl).1 (by decide +kernel)
theorem test_meets_BarrierWords_wait (h : BarrierWords) : ∃ t, exec (.barwwait 3 1) st = .next t :=
  ⟨_, h.2.1 st 3 1 ⟨.sram, 0x40⟩ (by decide +kernel) rfl (by unfold localQuiet; decide +kernel)⟩
theorem test_meets_BarrierWords_align (h : BarrierWords) : ∃ t, exec (.barwarr yf) (st (off 0x41)) = .next t :=
  ⟨_, h.2.2 (st (off 0x41)) (.barwarr yf) 3 0x02 (.inl ⟨yf, rfl, rfl, by decide +kernel, by decide +kernel⟩) rfl⟩
theorem test_meets_BarrierWords_local (h : BarrierWords) : ∃ t, exec (.syncinit 3 1) (st (off 0x40000)) = .next t :=
  ⟨_, h.2.2 (st (off 0x40000)) (.syncinit 3 1) 3 0x1B (.inr (.inr (.inr ⟨1, .inl rfl, by decide +kernel, by decide +kernel⟩))) rfl⟩
theorem test_meets_SyncWords_init (h : SyncWords) : ∃ t, exec (.syncinit 3 1) st = .next t :=
  ⟨_, h.1 st 3 1 ⟨.sram, 0x40⟩ (by decide +kernel) (by decide +kernel) rfl (by unfold localQuiet; decide +kernel)⟩
theorem test_meets_SyncWords_add (h : SyncWords) : ∃ t, exec (.syncadd 3 1) st = .next t :=
  ⟨_, h.2.1 st 3 1 ⟨.sram, 0x40⟩ (by decide +kernel) (by decide +kernel) rfl (by decide +kernel) (by decide)⟩
theorem test_meets_SyncWords_large (h : SyncWords) : ∃ t, exec (.syncadd 3 3) (st (off (2 ^ 28))) = .next t :=
  ⟨_, h.2.2.1 (st (off (2 ^ 28))) (.syncadd 3 3) 3 3 (.inr rfl) (by decide +kernel) (by decide +kernel)⟩
theorem test_meets_SyncWords_wait (h : SyncWords) : ∃ t, exec (.syncwait 3 4) (word64 0x100000000) = .next t :=
  ⟨_, h.2.2.2 (word64 0x100000000) 3 4 ⟨.sram, 0x40⟩ (by decide +kernel) (by decide +kernel) rfl (by unfold localQuiet; decide +kernel)⟩

/-- Barrier 0 is bound to number 5 with EXPECT 2 and this COUNT; all three are bound to others. -/
def gb (n : Nat) : Gang := { ga with wgs := [{ waves := [0], tiles := 16, bars := [{ count := n, expect := 2, num := 5, bound := true }, {}, {}] }] }
def g3 : Gang := { ga with wgs := [{ waves := [0], bars := (List.range 3).map fun i => { num := i, bound := true } }] }
def w17 : Wave := setF wv 0 fun f => { f with s := f.s.set 3 { val := 17 } }
theorem test_meets_NbarInit_ill (h : NbarInit) : exec (.nbarinit 5 3) (st w17) = .next ((st w17).takeTrap ⟨0x01, 0, 0, false⟩) :=
  (h (st w17) 5 3 (cur _ rfl rfl) (by decide +kernel) (by decide +kernel) rfl (by decide +kernel)).1 (by decide +kernel)
theorem test_meets_NbarInit_over (h : NbarInit) : exec (.nbarinit 5 1) (st wv (gb 1)) = .next ((st wv (gb 1)).takeTrap ⟨0x0F, 5, 0, false⟩) :=
  ((h (st wv (gb 1)) 5 1 ⟨by decide +kernel, by decide +kernel, rfl, rfl⟩ (by decide +kernel) (by decide +kernel) rfl (by decide +kernel)).2.1
    (by decide +kernel) 0 (by decide) rfl rfl (by decide)).1 (by decide)
theorem test_meets_NbarInit_again (h : NbarInit) : ∃ t, exec (.nbarinit 5 1) (st wv (gb 0)) = .next t :=
  (((h (st wv (gb 0)) 5 1 ⟨by decide +kernel, by decide +kernel, rfl, rfl⟩ (by decide +kernel) (by decide +kernel) rfl (by decide +kernel)).2.1
    (by decide +kernel) 0 (by decide) rfl rfl (by decide)).2 rfl (by decide)).imp fun _ x => x.1
theorem test_meets_NbarInit_none (h : NbarInit) : exec (.nbarinit 5 1) (st wv g3) = .next ((st wv g3).takeTrap ⟨0x0F, 5, 0, false⟩) :=
  ((h (st wv g3) 5 1 ⟨by decide +kernel, by decide +kernel, rfl, rfl⟩ (by decide +kernel) (by decide +kernel) rfl (by decide +kernel)).2.2
    (by decide +kernel) (by decide +kernel) (by decide +kernel)).1 (by decide +kernel)
theorem test_meets_NbarInit_binds (h : NbarInit) : ∃ t, exec (.nbarinit 6 1) (st wv (gb 1)) = .next t :=
  (((h (st wv (gb 1)) 6 1 ⟨by decide +kernel, by decide +kernel, rfl, rfl⟩ (by decide +kernel) (by decide +kernel) rfl (by decide +kernel)).2.2
    (by decide +kernel) (by decide +kernel) (by decide +kernel)).2 1 (by decide) rfl (by decide +kernel) (by decide)).imp fun _ x => x.1
/-- The wave has arrived in generation 0; it waits there. -/
def wa : Wave := { wv with arrs := [⟨5, 0, true⟩] }
theorem test_meets_NbarArrive_twice (h : NbarArrive) : exec (.nbararr 5) (st wa (gb 1)) = .next ((st wa (gb 1)).takeTrap ⟨0x0F, 5, 0, false⟩) :=
  (h (st wa (gb 1)) 5 0 (.nbararr 5) (.inl rfl) ⟨by decide +kernel, by decide +kernel, rfl, rfl⟩ (by decide +kernel) (by decide +kernel) rfl (by decide +kernel)).1
    (.inr ⟨⟨5, 0, true⟩, by decide +kernel, rfl⟩)
theorem test_meets_NbarArrive (h : NbarArrive) : ∃ t, exec (.nbarsync 5) (st wv (gb 1)) = .next t :=
  ((h (st wv (gb 1)) 5 0 (.nbarsync 5) (.inr ⟨rfl, rfl⟩) ⟨by decide +kernel, by decide +kernel, rfl, rfl⟩ (by decide +kernel) (by decide +kernel) rfl (by decide +kernel)).2
    (by decide +kernel) rfl (by intro a x; cases (show (st wv (gb 1)).cw.arrOf 5 = none from rfl).symm.trans x) (by decide +kernel) (by decide)).imp fun _ x => x.1
theorem test_meets_NbarWait_unbound (h : NbarWait) : ∃ t, exec (.nbarwait 5) st = .next t :=
  ⟨_, (h st 5 (.nbarwait 5) (.inl rfl) rfl (by decide +kernel) (by decide +kernel)).1 (.inl (by decide +kernel)) (by decide +kernel)⟩
theorem test_meets_NbarWait_parks (h : NbarWait) : ∃ t, exec (.nbarwait 5) (st wa (gb 1)) = .next t :=
  (((h (st wa (gb 1)) 5 (.nbarwait 5) (.inl rfl) rfl (by decide +kernel) (by decide +kernel)).2 0 ⟨5, 0, true⟩ (by decide +kernel) (by decide +kernel)
    (by decide +kernel) rfl).2 rfl).imp fun _ x => x.1
def ws : Wave := setF { wv with arrs := [⟨5, 7, true⟩] } 0 fun f => { f with park := .nbar 5 }
theorem test_meets_NbarWait_goes (h : NbarWait) : ∃ t, exec (.nbarsync 5) (st ws (gb 1)) = .next t :=
  ⟨_, ((h (st ws (gb 1)) 5 (.nbarsync 5) (.inr ⟨rfl, rfl⟩) rfl (by decide +kernel) (by decide +kernel)).2 0 ⟨5, 7, true⟩ (by decide +kernel) (by decide +kernel)
    (by decide +kernel) rfl).1 (by decide)⟩
theorem test_meets_Waits_waitr (h : Waits) : ∃ t, exec (.waitr 1 4) st = .next t := ⟨_, h.2.1 st 4 (by decide +kernel)⟩
theorem test_meets_Waits_waita (h : Waits) : ∃ t, exec (.waita yf) st = .next t := ⟨_, h.2.2.2 st yf (by decide +kernel)⟩

/-! ## Pins, events, rewind points -/

theorem test_meets_Pins_pin (h : Pins) : ∃ t, exec (.pin 1 7) st = .next t := ⟨_, h.1 st 1 7 (by decide +kernel) (by decide)⟩
theorem test_meets_Pins_unpin (h : Pins) : ∃ t, exec (.unpin 7) st = .next t := ⟨_, h.2 st 7 (by decide +kernel) (by decide)⟩
/-- The name in s1, its reclaim argument in s2; the workgroup pins name 5; sixteen entries of its bucket. -/
def gp : Gang := { ga with wgs := [{ waves := [0], pins := 5 :: List.replicate 7 0 }] }
def d16 : Vd := { live := true, deferred := List.replicate 16 ⟨5, .pages []⟩ }
def rn (v : DWord) : State := st (setF wv 0 fun f => { f with s := f.s.set 1 { val := v } })
def yr : YF := { imm := 0, a := 1, d := 4 }
theorem test_meets_Reclaims_zero (h : Reclaims) : exec (.recl yr) (rn 0) = .next ((rn 0).takeTrap ⟨0x01, 0, 0, false⟩) :=
  (h (rn 0) yr (by decide +kernel) (by decide +kernel)).1 rfl
theorem test_meets_Reclaims_prot (h : Reclaims) : ∃ t, exec (.recl yr) (rn 0x0200000000000000) = .next t :=
  ⟨_, (h (rn 0x0200000000000000) yr (by decide +kernel) (by decide +kernel)).2.1 (by decide +kernel) (.inr (by decide +kernel))⟩
theorem test_meets_Reclaims_freed (h : Reclaims) : ∃ t, exec (.recl yr) st = .next t :=
  by refine ⟨_, ((h st yr ?_ ?_).2.2 ?_ ?_ ?_ ?_ (by decide) ?_).1 ?_⟩ <;> decide +kernel
theorem test_meets_Reclaims_deferred (h : Reclaims) : ∃ t, exec (.recl yr) (st wv gp) = .next t :=
  by refine ⟨_, ((h (st wv gp) yr ?_ ?_).2.2 ?_ ?_ ?_ ?_ (by decide) ?_).2.1 ?_ ?_⟩ <;> decide +kernel
theorem test_meets_Reclaims_full (h : Reclaims) : ∃ t, exec (.recl yr) (st wv gp d16) = .next t :=
  by refine ⟨_, ((h (st wv gp d16) yr ?_ ?_).2.2 ?_ ?_ ?_ ?_ (by decide) ?_).2.2 ?_ ?_⟩ <;> decide +kernel
theorem test_meets_GroomerSweeps_lodged (h : GroomerSweeps) : exec (.groomerSweep 0) (st wv gp { d16 with lodge := 2 }) = .next (st wv gp { d16 with lodge := 2 }) :=
  h.1 (st wv gp { d16 with lodge := 2 }) 0 (by decide +kernel)
theorem test_meets_GroomerSweeps_pinned (h : GroomerSweeps) : exec (.groomerSweep 0) (st wv gp d16) = .next (st wv gp d16) :=
  h.2.1 (st wv gp d16) 0 rfl (by decide +kernel) (by decide +kernel)
theorem test_meets_GroomerSweeps_frees (h : GroomerSweeps) : ∃ t, exec (.groomerSweep 0) (st wv ga { live := true, deferred := [⟨5, .pages [9]⟩] }) = .next t :=
  (h.2.2.1 (st wv ga { live := true, deferred := [⟨5, .pages [9]⟩] }) 0 (by decide +kernel) rfl (by decide +kernel) (by simp [st, State.vd])).imp fun _ x => x.1
def tact : Vd := { live := true, deferred := [⟨5, .table 3 1 0 0⟩] }
theorem test_meets_GroomerSweeps_table (h : GroomerSweeps) : ∃ t, exec (.groomerSweep 0) (st wv ga tact) = .next t :=
  ⟨_, h.2.2.2 (st wv ga tact) 0 3 0 0 5 1 (by decide +kernel) rfl (by decide +kernel) rfl (by decide +kernel)⟩
theorem test_meets_WaitForEvent_set (h : WaitForEvent) : ∃ t, exec (.wfe { yf with imm := 15 }) (st wv ga { live := true, flags := 0x8000 }) = .next t :=
  ⟨_, ((h.1 (st wv ga { live := true, flags := 0x8000 }) { yf with imm := 15 } ⟨by decide +kernel, by decide +kernel, rfl, rfl⟩ (by decide +kernel)).1
    (by intro m x y e; cases (show fr.park = .none from rfl).symm.trans e) (by decide +kernel) (by decide)).1 (by decide +kernel) (by decide +kernel)⟩
theorem test_meets_WaitForEvent_parks (h : WaitForEvent) : ∃ t, exec (.wfe yf) st = .next t :=
  (((h.1 st yf (cur _ rfl rfl) (by decide +kernel)).1 (by intro m x y e; cases (show st.cf.park = .none from rfl).symm.trans e) (by decide +kernel) (by decide)).2 (by decide +kernel) rfl).imp fun _ x => x.1
def we (y : Bool) : Wave := setF wv 0 fun f => { f with park := .wfe 1 (some 9) y, parkSeq := 3 }
theorem test_meets_WaitForEvent_takes (h : WaitForEvent) : ∃ t, exec (.wfe yf) (st (we false) ga { live := true, flags := 2 }) = .next t :=
  ⟨_, ((h.1 (st (we false) ga { live := true, flags := 2 }) yf ⟨by decide +kernel, by decide +kernel, rfl, rfl⟩ (by decide +kernel)).2 (some 9) false rfl).1
    (by decide +kernel) (by decide +kernel)⟩
theorem test_meets_WaitForEvent_gone (h : WaitForEvent) : ∃ t, exec (.wfe yf) (st (we true)) = .next t :=
  ⟨_, ((h.1 (st (we true)) yf (cur _ rfl rfl) (by decide +kernel)).2 (some 9) true rfl).2 (by decide +kernel)⟩
theorem test_meets_WaitForEvent_limit (h : WaitForEvent) : ∃ t, exec (.wfeTimeout 0 0) { st (we false) with time := 9 } = .next t :=
  ⟨_, h.2 { st (we false) with time := 9 } 0 0 1 9 rfl rfl (by decide)⟩
theorem test_meets_EventSignals (h : EventSignals) : ∃ t, exec (.evsig 3 1) st = .next t :=
  ⟨_, (h st 3 1 (by decide +kernel) (by decide)).1 (by decide +kernel) (by decide +kernel) rfl⟩
def full : Vd := { live := true, eqwr := 1024 }
theorem test_meets_EventSignals_full (h : EventSignals) : ∃ t, exec (.evsig 3 1) (st wv ga full) = .next t :=
  ⟨_, (h (st wv ga full) 3 1 (by decide +kernel) (by decide)).2 (.inr (by decide +kernel))⟩
theorem test_meets_Halts (h : Halts) : ∃ t, exec (.halt 3) st = .next t :=
  (h st 3 (by decide +kernel) (by decide +kernel) rfl).imp fun _ x => x.1
theorem test_meets_RewindPoints_ignored (h : RewindPoints) : ∃ t, exec (.rwp 0) hd = .next t := ⟨_, h.1 hd 0 (.inl rfl)⟩
theorem test_meets_RewindPoints (h : RewindPoints) : ∃ t, exec (.rwp 0) st = .next t :=
  (h.2 st (by decide +kernel) rfl (by decide +kernel) rfl).imp fun _ x => x.1

/-! ## Memory -/

/-- The cluster holds translations of page 0 (readable, writable, executable), page 1 (memory-side), page 2 (read only)
and of lane-private page 0; local memory is banks 0 and 1. -/
def ent (tag : Byte) (page : Nat) (pte : DWord) : TlbEnt := ⟨.cluster 0, 0, tag, page, false, 0, pte⟩
def md : Vd := { live := true, roots := [⟨0, 0, 0⟩, ⟨2, 0, 0⟩, ⟨0xF0, 0, 0⟩] }
/-- Offset registers v1 (lane numbers) and v5 (zeros); bases s1 = 0x1000, s2 = 0x20000, s3 = 0x400 of tag 2,
s4 = 0x40, s5 = 0x10000. -/
def mw : Wave := { setF wv 0 (fun f => { f with s := [{}, { val := 0x1000 }, { val := 0x20000 }, { val := 0x400, tag := 2 },
  { val := 0x40 }, { val := 0x10000 }] ++ List.replicate 58 {} }) with piste := 32 }
def ms (w : Wave := mw) : State := { st w ga md with
  partitions := [[0, 1, 2, 3, 4, 5, 6, 7]]
  tlb := [ent 0 0 0x5001F, ent 0 1 0x6003F, ent 0 2 0x70007, ent 2 0 0x9000F] }
def ld4 : ML := { split := 0, ord := 0, kp := 0, va := 1, sa := 1, vd := 3 }
def st4 : MS := { ord := 0, kp := 0, va := 1, sa := 1, vd := 2 }
theorem test_meets_VectorLoads (h : VectorLoads) : ∃ t, exec (.vldB32 ld4) ms = .next t :=
  ⟨_, h ms (.vldB32 ld4) _ rfl (by decide +kernel) (by decide +kernel) (by decide +kernel)⟩
/-- The core's L1 holds one line of two. -/
def hit : State := { ms with copies := [⟨.l1 0, ⟨.phys, 0x51000⟩, 0x7FFFF, 0, .normal⟩] }
def off64 : Wave := setV mw 1 (vr (16 * ·))
def hit2 : State := { ms off64 with copies := [⟨.l1 0, ⟨.phys, 0x51000⟩, 0x3FFFF, 0, .normal⟩] }
theorem test_meets_SplitLoads (h : SplitLoads) : ∃ t, exec (.vldB32 { ld4 with split := 1 }) hit2 = .next t :=
  (h hit2 (.vldB32 { ld4 with split := 1 }) _ rfl (by decide +kernel) (by decide +kernel) ⟨by decide +kernel, by decide +kernel, rfl, rfl⟩
    (by decide +kernel) 1 (by decide) rfl (by decide +kernel) (by decide +kernel) (by decide +kernel)).imp fun _ ⟨_, _, x⟩ => x.1
theorem test_meets_VectorAccessFaults_load (h : VectorAccessFaults) : ∃ t, exec (.vldB32 { ld4 with sa := 0 }) st = .next t :=
  ⟨_, h st (.vldB32 { ld4 with sa := 0 }) _ ⟨0x03, 0, 0xFFFFFFFF, false⟩ (.inl ⟨rfl, by decide +kernel, by decide +kernel⟩)⟩
theorem test_meets_VectorAccessFaults_store (h : VectorAccessFaults) : ∃ t, exec (.vstB32 { st4 with sa := 2 }) ms = .next t :=
  ⟨_, h ms (.vstB32 { st4 with sa := 2 }) _ ⟨0x04, 0x20000, 0xFFFFFFFF, false⟩ (.inr (.inl ⟨rfl, by decide +kernel, by decide +kernel⟩))⟩
def af : AF := { ord := 0, ret := 1, aop := 0, va := 1, sa := 1, vd := 2 }
theorem test_meets_VectorAccessFaults_atomic (h : VectorAccessFaults) : ∃ t, exec (.atom { af with sa := 2 }) ms = .next t :=
  ⟨_, h ms (.atom { af with sa := 2 }) _ ⟨0x04, 0x20000, 0xFFFFFFFF, false⟩ (.inr (.inr ⟨{ af with sa := 2 }, 4, 1, 0, rfl, rfl, by decide +kernel, by decide +kernel⟩))⟩
theorem test_meets_VectorStores (h : VectorStores) : ∃ t, exec (.vstB32 st4) ms = .next t := by
  obtain ⟨_, e, x⟩ := h.1 ms st4 (.vstB32 st4) (by simp)
  cases e
  exact ⟨_, x (by decide +kernel) (by decide +kernel) fun _ => by decide +kernel⟩
theorem test_meets_VectorStores_local (h : VectorStores) : ∃ t, exec (.vstlB32 ⟨0, 1, 4, 2⟩) ms = .next t := by
  obtain ⟨_, e, x⟩ := h.2 ms ⟨0, 1, 4, 2⟩ (.vstlB32 ⟨0, 1, 4, 2⟩) (by simp)
  cases e
  exact ⟨_, x (by decide +kernel) (by decide +kernel) fun _ => by decide +kernel⟩
def si (b : BitVec 6) : SI := { imm := 0, sa := b, sd := 4 }
theorem test_meets_ScalarLoads (h : ScalarLoads) : ∃ t, exec (.sldB64 (si 1)) ms = .next t :=
  ⟨_, (h ms (.sldB64 (si 1)) _ rfl (by decide +kernel) (by decide +kernel)).2 (by decide +kernel)⟩
theorem test_meets_ScalarLoads_traps (h : ScalarLoads) : ∃ t, exec (.sldl (si 5)) (ms { mw with frags := [{ fr with s := mw.frags.head!.s.set 5 { val := 0x40000 } }] }) = .next t :=
  ⟨_, (h (ms { mw with frags := [{ fr with s := mw.frags.head!.s.set 5 { val := 0x40000 } }] }) (.sldl (si 5)) _ rfl (by decide +kernel) (by decide +kernel)).1 ⟨0x1B, 0x40000, 0, false⟩ (by decide +kernel)⟩
theorem test_meets_ScalarStores (h : ScalarStores) : ∃ t, exec (.sstB64 (si 1)) ms = .next t := by
  obtain ⟨_, e, x⟩ := h ms (si 1) (.sstB64 (si 1)) (by simp)
  cases e
  exact ⟨_, (x (by decide +kernel)).1 (by decide +kernel) fun _ => by decide +kernel⟩
theorem test_meets_ScalarStores_traps (h : ScalarStores) : ∃ t, exec (.sstB64 (si 2)) ms = .next t := by
  obtain ⟨_, e, x⟩ := h ms (si 2) (.sstB64 (si 2)) (by simp)
  cases e
  exact ⟨_, (x (by decide +kernel)).2 ⟨0x04, 0x20000, 0, false⟩ (by decide +kernel)⟩
theorem test_meets_AccessIssueFrame_load (h : AccessIssueFrame) : ∃ t, exec (.vldB32 ld4) ms = .next t ∧ scalarsBut ms t none :=
  ⟨_, rfl, (h.1 ms _ (.vldB32 ld4) _ rfl rfl (by decide +kernel) (by decide +kernel) (by decide +kernel)).1⟩
theorem test_meets_AccessIssueFrame_sload (h : AccessIssueFrame) : ∃ t, exec (.sldB64 (si 1)) ms = .next t ∧ vectorsBut ms t none :=
  ⟨_, rfl, (h.2.1 ms _ (.sldB64 (si 1)) _ rfl rfl (by decide +kernel) (by decide +kernel) (by decide +kernel)).1⟩
theorem test_meets_AccessIssueFrame_vector (h : AccessIssueFrame) : ∃ t, exec (.vldB32 ld4) ms = .next t ∧ t.vds = ms.vds :=
  ⟨_, rfl, (h.2.2.1 ms _ (.vldB32 ld4) _ rfl (.inl ⟨_, rfl, by decide +kernel, by decide +kernel, rfl, by decide +kernel⟩)).2.2.2.2.2.2.1⟩
theorem test_meets_AccessIssueFrame_scalar (h : AccessIssueFrame) : ∃ t, exec (.sldB64 (si 1)) ms = .next t ∧ t.vds = ms.vds :=
  ⟨_, rfl, (h.2.2.1 ms _ (.sldB64 (si 1)) _ rfl (.inr ⟨_, rfl, by decide +kernel, by decide +kernel, by decide +kernel, rfl⟩)).2.2.2.2.2.2.1⟩
theorem msLined : ms.canon ∧ (∀ c ∈ ms.copies, c.line.tagged + 128 ≤ 2 ^ 128) ∧ ∀ p ∈ ms.privHeld, p.off + 128 ≤ 2 ^ 128 :=
  ⟨by unfold State.canon; decide +kernel, by decide +kernel, by decide +kernel⟩
theorem test_meets_AccessIssueFrame_private (h : AccessIssueFrame) : ∃ t, exec (.sldB64 (si 3)) ms = .next t ∧ t.raw ⟨.phys, 5⟩ = ms.raw ⟨.phys, 5⟩ :=
  ⟨_, rfl, (h.2.2.1 ms _ (.sldB64 (si 3)) _ rfl (.inr ⟨_, rfl, by decide +kernel, by decide +kernel, by decide +kernel, rfl⟩)).2.2.2.2.2.2.2.2.2
    (by decide +kernel) msLined ⟨.phys, 5⟩ (by decide) (by decide) (fun w => by simp)⟩
theorem test_meets_AccessIssueFrame_store (h : AccessIssueFrame) : ∃ t, exec (.sstB64 (si 1)) ms = .next t ∧ t.raw ⟨.phys, 5⟩ = ms.raw ⟨.phys, 5⟩ :=
  ⟨_, rfl, (h.2.2.2 ms _ (.sstB64 (si 1)) _ rfl (.inr ⟨_, rfl, by decide +kernel, by decide +kernel, fun _ => by decide +kernel, rfl⟩)).2.2.2.2.2.2.2.2.2.2
    msLined ⟨.phys, 5⟩ (by decide) (by decide) (fun w => by simp) (fun _ => by simp)⟩
theorem test_meets_VectorAtomics (h : VectorAtomics) : ∃ t, exec (.atom af) ms = .next t :=
  ⟨_, (h ms (.atom af) af 4 1 0 rfl (by decide +kernel) (by decide +kernel) (by decide +kernel) (by decide)).1 (by decide +kernel) (.inr rfl)⟩
/-- No lane is active. -/
def idle : Wave := setF mw 0 fun f => { f with exm := 0 }
theorem test_meets_VectorAtomics_none (h : VectorAtomics) : ∃ t, exec (.atom { af with ret := 0 }) (ms idle) = .next t :=
  ⟨_, (h (ms idle) (.atom { af with ret := 0 }) { af with ret := 0 } 4 1 0 rfl (by decide +kernel) (by decide +kernel) (by decide +kernel) (by decide)).2.1 (by decide +kernel) rfl⟩
theorem test_meets_VectorAtomics_private (h : VectorAtomics) : ∃ t, exec (.atom { af with sa := 3, ret := 0 }) ms = .next t :=
  ⟨_, (h ms (.atom { af with sa := 3, ret := 0 }) { af with sa := 3, ret := 0 } 4 1 0 rfl (by decide +kernel) (by decide +kernel) (by decide +kernel) (by decide)).2.2.1 (by decide +kernel) rfl⟩
theorem test_meets_VectorAtomics_privret (h : VectorAtomics) : ∃ t, exec (.atom { af with sa := 3 }) ms = .next t :=
  ⟨_, (h ms (.atom { af with sa := 3 }) { af with sa := 3 } 4 1 0 rfl (by decide +kernel) (by decide +kernel) (by decide +kernel) (by decide)).2.2.2 (by decide +kernel) rfl⟩
def sa (b : BitVec 6) : SA := { aop := 0, sb := 1, sa := b, sd := 6, w := 1 }
theorem test_meets_ScalarAtomics (h : ScalarAtomics) : ∃ t, exec (.satom (sa 1)) ms = .next t :=
  ⟨_, (h ms (sa 1) (by decide +kernel) (by decide +kernel)).2.1 (by decide +kernel) (by decide +kernel) (by decide) (by decide +kernel)⟩
theorem test_meets_ScalarAtomics_traps (h : ScalarAtomics) : ∃ t, exec (.satom (sa 2)) ms = .next t :=
  ⟨_, (h ms (sa 2) (by decide +kernel) (by decide +kernel)).1 0x04 (by decide +kernel)⟩
theorem test_meets_ScalarAtomics_private (h : ScalarAtomics) : ∃ t, exec (.satom (sa 3)) ms = .next t :=
  ⟨_, (h ms (sa 3) (by decide +kernel) (by decide +kernel)).2.2 (by decide +kernel) (by decide +kernel) (by decide) (by decide +kernel)⟩
theorem test_meets_AtomicValues (h : AtomicValues) : atomNew 4 17 7 0xFFFFFFFF 0 = 7 :=
  (h 4 17 7 0xFFFFFFFF 0 (.inl rfl) (by decide) (by decide) (by decide)).trans (by decide +kernel)
theorem test_meets_HomeReadsBack (h : HomeReadsBack) : (ms.homePut ⟨.phys, 5⟩ 9 false).homeByte ⟨.phys, 5⟩ = (9, false) :=
  (h.1 ms ⟨.phys, 5⟩ ⟨.phys, 6⟩ 9 false (by unfold State.canon; decide +kernel) rfl rfl (by decide +kernel) (by decide +kernel) (.inr (by decide +kernel))).1
/-- The LLC holds a line, one byte of it dirty. -/
def llc1 : State := { ms with llc := [⟨⟨.phys, 0⟩, 2, .normal, false⟩], mem := memSet [] (Loc.key ⟨.llc, 1⟩) 7 }
theorem llc1_sound : LlcSound llc1 := by
  have e : ∀ x ∈ llc1.llc, x = ⟨⟨.phys, 0⟩, 2, .normal, false⟩ := by simp [llc1]
  exact ⟨fun x m => by rw [e x m]; exact ⟨rfl, by decide, .inl rfl, fun _ => by decide +kernel⟩, by decide +kernel,
    fun x m y n d => absurd (by rw [e x m, e y n]) d⟩
theorem test_meets_HomeReadsBack_evicts (h : HomeReadsBack) : (llc1.llcRoom ⟨.phys, 64⟩).homeByte ⟨.phys, 1⟩ = (7, false) :=
  (h.2 llc1 ⟨.phys, 64⟩ ⟨.phys, 1⟩ (by unfold State.canon; decide +kernel) llc1_sound rfl (by decide +kernel)).trans (by decide +kernel)
def sop : Op := { id := 4, owners := [0], kind := .store [{ lane := 0, place := .direct ⟨.sram, 8⟩, size := 2, data := [1, 2], va := 8 }] }
def sfl : State := { st with flight := [sop] }
theorem test_meets_LocalStorePerformed (h : LocalStorePerformed) : ∃ t, exec (.storePerform 4 0) sfl = .next t :=
  (h sfl sop ⟨.sram, 8⟩ 2 [1, 2] 0 8 (by unfold State.canon; decide +kernel) rfl rfl rfl rfl rfl (by decide +kernel)).imp fun _ x => x.1

/-! ## Results and maintenance -/

/-- One operation of the wave in flight. -/
def fly (k : OpKind) (s : State := ms) : State := { s with flight := [{ id := 4, owners := [0], sfr := [0], kind := k }] }
def op4 (k : OpKind) : Op := { id := 4, owners := [0], sfr := [0], kind := k }
def lacc : List Acc := [{ lane := 31, place := .direct ⟨.sram, 8⟩, size := 4 }]
theorem test_meets_Deliveries_load (h : Deliveries) : ∃ t, exec (.resultDelivery 4) (fly (.load lacc (.vec .wave 55 1) .word 0)) = .next t :=
  (h.1 (fly (.load lacc (.vec .wave 55 1) .word 0)) (op4 (.load lacc (.vec .wave 55 1) .word 0)) lacc 55 0 (by unfold inFlight; decide +kernel) rfl (by decide +kernel) (by decide +kernel)
    (by decide +kernel) (by decide +kernel) rfl (by simp only [lacc, List.mem_singleton, forall_eq]; exact ⟨by decide, trivial, by decide +kernel, _, rfl, rfl⟩)).imp fun _ x => x.1
theorem test_meets_Deliveries_scalar (h : Deliveries) : ∃ t, exec (.resultDelivery 4) (fly (.svalue (.scl .wave 63 1) [{ val := 9, tag := 2 }])) = .next t :=
  by refine (h.2.1 (fly (.svalue (.scl .wave 63 1) [{ val := 9, tag := 2 }])) (op4 (.svalue (.scl .wave 63 1) [{ val := 9, tag := 2 }])) 63 0 { val := 9, tag := 2 } (by unfold inFlight; decide +kernel) rfl rfl (by decide)
    (by decide) ?_ ?_ ?_ rfl ?_).imp fun _ x => x.1 <;> decide +kernel
theorem test_meets_Deliveries_value (h : Deliveries) : ∃ t, exec (.resultDelivery 4) (fly (.value (.vec .wave 3 1) 0xFF [[7, 8]] 2)) = .next t :=
  (h.2.2.1 (fly (.value (.vec .wave 3 1) 0xFF [[7, 8]] 2)) (op4 (.value (.vec .wave 3 1) 0xFF [[7, 8]] 2)) 3 0xFF 2 [7, 8] (by unfold inFlight; decide +kernel) rfl
    (by decide +kernel) (by decide +kernel) (by decide +kernel) rfl).imp fun _ x => x.1
/-- An earlier result to the same port stands before it. -/
def pair2 : State := { ms with flight := [{ id := 3, owners := [0], kind := .value (.port 56) 0 [] 0 }, { id := 4, owners := [0], kind := .value (.port 56) 0 [] 0 }] }
theorem test_meets_Deliveries_waits (h : Deliveries) : exec (.resultDelivery 4) pair2 = .next pair2 :=
  h.2.2.2 pair2 { id := 4, owners := [0], kind := .value (.port 56) 0 [] 0 } (by unfold inFlight; decide +kernel) (by simp) (by decide +kernel)
def vs : VS := { ta := 0, h := 0, kp := 0, fn := 1, va := 1, vd := 3, fast := 0 }
def sq (n : Nat) : State := { st with flight := List.replicate n { kind := .sfu 1 false (.vec .wave 3 1) 0 [] } }
theorem test_meets_SfuIssue_full (h : SfuIssue) : ∃ t, exec (.vsfu vs) (sq 64) = .next t :=
  ⟨_, (h (sq 64) vs (by decide +kernel)).1 (by decide +kernel)⟩
theorem test_meets_SfuIssue (h : SfuIssue) : ∃ t, exec (.vsfu vs) (sq 63) = .next t :=
  ⟨_, (h (sq 63) vs (by decide +kernel)).2 (by decide +kernel) (by decide +kernel) (by decide +kernel) (by decide +kernel)⟩
theorem test_meets_SfuResults_special (h : SfuResults) : Num.sfuLane 7 true 0x80000000 5 = 0x80000000 :=
  h.1 7 true 0x80000000 5 0x80000000 (by decide) (by decide +kernel)
theorem test_meets_SfuResults (h : SfuResults) : ∃ t, exec (.sfuResult 4) (fly (.sfu 1 false (.vec .wave 3 1) 0xF [4])) = .next t :=
  (h.2.1 (fly (.sfu 1 false (.vec .wave 3 1) 0xF [4])) (op4 (.sfu 1 false (.vec .wave 3 1) 0xF [4])) 1 3 false 0xF [4] (by unfold inFlight; decide +kernel) rfl
    (by decide +kernel) (by decide +kernel) (by decide +kernel) (by decide +kernel)).imp fun _ x => x.1
def sfu2 : State := { ms with flight := [{ id := 3, kind := .sfu 1 false .none 0 [] }, { id := 4, kind := .sfu 1 false .none 0 [] }] }
theorem test_meets_SfuResults_waits (h : SfuResults) : exec (.sfuResult 4) sfu2 = .next sfu2 :=
  h.2.2 sfu2 { id := 4, kind := .sfu 1 false .none 0 [] } (by unfold inFlight; decide +kernel) (by decide +kernel)
def aacc : Acc := { lane := 0, place := .homed ⟨.phys, 0x50000⟩ false, size := 4, data := bytesOf 4 5 ++ bytesOf 4 0, va := 0 }
def aop (d : Dst) : Op := { id := 4, owners := [0], kind := .atomic 0 4 [aacc] d [] true }
theorem test_meets_AtomicPerformed (h : AtomicPerformed) : ∃ t, exec (.atomicPerform 4 0) { ms with flight := [aop .none] } = .next t :=
  (h { ms with flight := [aop .none] } (aop .none) 0 0 ⟨.phys, 0x50000⟩ 5 0 .none 0 (by unfold inFlight; decide +kernel) (by unfold State.canon; decide +kernel)
    rfl rfl rfl (by decide) rfl (by decide) (by decide +kernel) (by decide +kernel) (by decide +kernel)).imp fun _ x => x.1
theorem test_meets_AtomicPerformed_ret (h : AtomicPerformed) : ∃ t, exec (.atomicPerform 4 0) { ms with flight := [aop (.vec .wave 2 1)] } = .next t :=
  (h { ms with flight := [aop (.vec .wave 2 1)] } (aop (.vec .wave 2 1)) 0 0 ⟨.phys, 0x50000⟩ 5 0 (.vec .wave 2 1) 0 (by unfold inFlight; decide +kernel) (by unfold State.canon; decide +kernel)
    rfl rfl rfl (by decide) rfl (by decide) (by decide +kernel) (by decide +kernel) (by decide +kernel)).imp fun _ x => x.1
def own : State := { ms with time := 9, homes := [{ line := ⟨.phys, 0x50000⟩, own := some (0, 9) }] }
theorem test_meets_LeaseEvents_returned (h : LeaseEvents) : ∃ t, exec (.ownLeaseReturn 0) own = .next t :=
  ⟨_, h.1 own 0 { line := ⟨.phys, 0x50000⟩, own := some (0, 9) } 0 9 rfl rfl (by decide)⟩
def rivals : State := { own with flight := [aop .none, { aop .none with id := 5, core := 1 }] }
theorem test_meets_LeaseEvents_retry (h : LeaseEvents) : ∃ t, exec (.leaseRequestRetry 0 0) rivals = .next t :=
  ⟨_, h.2.1 rivals 0 0 1 { line := ⟨.phys, 0x50000⟩, own := some (0, 9) } rfl (by decide) (by
    rintro c (rfl | rfl)
    · exact ⟨aop .none, by decide +kernel, rfl, rfl, aacc, by decide +kernel, rfl⟩
    · exact ⟨{ aop .none with id := 5, core := 1 }, by decide +kernel, rfl, rfl, aacc, by decide +kernel, rfl⟩)⟩
/-- A maintenance instruction of the range at s[a] with the count in s5. -/
def x3 (a : BitVec 6) : X3 := { sb := 4, sa := a, d := 6 }
theorem test_meets_MaintenanceIssue_none (h : MaintenanceIssue) : ∃ t, exec (.clean { x3 1 with sb := 0 }) ms = .next t :=
  ⟨_, (h ms (.clean { x3 1 with sb := 0 }) { x3 1 with sb := 0 } 0 rfl (by decide +kernel) (by decide +kernel)).1 (.inr (.inr rfl))⟩
theorem test_meets_MaintenanceIssue (h : MaintenanceIssue) : ∃ t, exec (.inval (x3 1)) ms = .next t :=
  ⟨_, (h ms (.inval (x3 1)) (x3 1) 1 rfl (by decide +kernel) (by decide +kernel)).2 rfl (by decide +kernel) (by decide +kernel)
    [.homed ⟨.phys, 0x51000⟩ false] (by decide +kernel)⟩
theorem test_meets_MaintenanceDone (h : MaintenanceDone) : ∃ t, exec (.maintenanceDone 4) (fly (.maint 2 [.homed ⟨.phys, 0x51000⟩ false])) = .next t :=
  (h (fly (.maint 2 [.homed ⟨.phys, 0x51000⟩ false])) (op4 (.maint 2 [.homed ⟨.phys, 0x51000⟩ false])) 2 ⟨.phys, 0x51000⟩ false (by unfold inFlight; decide +kernel) rfl (by decide) rfl rfl
    (by decide +kernel)).imp fun _ x => x.1
theorem test_meets_CacheInstructions_pref (h : CacheInstructions) : ∃ t, exec (.pref 4 1) ms = .next t :=
  (h.1 ms 4 1 (by decide +kernel)).imp fun _ x => x.1
theorem test_meets_CacheInstructions_fencei (h : CacheInstructions) : ∃ t, exec .fencei ms = .next t :=
  (h.2.2.1 ms (by decide +kernel)).imp fun _ x => x.1
theorem test_meets_CacheInstructions_waits (h : CacheInstructions) : ∃ t, exec .fencei sfl = .next t :=
  ⟨_, h.2.2.2 sfl ⟨sop, by decide +kernel, rfl, rfl⟩⟩
theorem test_meets_BankModes_local (h : BankModes) : ∃ t, exec (.bankmode 1 1 6) (st (setF wv 0 fun f => { f with s := f.s.set 1 { val := 0x40000 } })) = .next t :=
  ⟨_, (h (st (setF wv 0 fun f => { f with s := f.s.set 1 { val := 0x40000 } })) 1 1 6 (by decide +kernel) (by decide +kernel) (by decide)).1 (.inr (.inl (by decide +kernel)))⟩
theorem test_meets_BankModes (h : BankModes) : ∃ t, exec (.bankmode 2 1 6) st = .next t :=
  by refine ((h st 2 1 6 ?_ ?_ (by decide)).2 ?_ ?_ ?_ ?_ (by decide) ?_).imp fun _ x => x.1 <;> decide +kernel
/-- s5 names a memory-side line, s1 the pattern, s2 a count of 32 words. -/
def mv (c n : DWord) : State := ms (setF wv 0 fun f => { f with s := ((f.s.set 5 { val := c }).set 1 { val := 0x10080 }).set 2 { val := n } })
def x5 : X3 := { sb := 1, sa := 5, d := 6 }
theorem test_meets_MemorySideIssue_align (h : MemorySideIssue) : ∃ t, exec (.msvfill x5) (mv 0x10004 32) = .next t :=
  ⟨_, (h (mv 0x10004 32) (.msvfill x5) x5 3 4 0 1 rfl (by decide +kernel) (by decide +kernel)).1 (by decide +kernel)⟩
theorem test_meets_MemorySideIssue (h : MemorySideIssue) : ∃ t, exec (.msvcopy x5) (mv 0x10000 128) = .next t :=
  ⟨_, (h (mv 0x10000 128) (.msvcopy x5) x5 4 1 1 1 rfl (by decide +kernel) (by decide +kernel)).2.1 (by decide +kernel) (fun _ => by decide +kernel) (by decide)
    (by decide +kernel) (by decide +kernel) [0x60000] [0x60080] [] (by decide +kernel) (by decide +kernel) (by decide +kernel)⟩
/-- c lies on a page without a translation. -/
theorem test_meets_MemorySideIssue_xlate (h : MemorySideIssue) : ∃ t, exec (.msvfill x5) (mv 0x50000 32) = .next t :=
  ⟨_, (h (mv 0x50000 32) (.msvfill x5) x5 3 4 0 1 rfl (by decide +kernel) (by decide +kernel)).2.2 (by decide +kernel) (by decide) (by decide)
    (by decide +kernel) (0x03, 0x50000) (by decide +kernel)⟩
def msv1 : Msv := ⟨1, [0x60000], [0x60080], [0x60100], 0⟩
theorem test_meets_MemorySideDone (h : MemorySideDone) : ∃ t, exec (.msvComplete 4) (fly (.msv msv1)) = .next t :=
  by refine (h.2 (fly (.msv msv1)) (op4 (.msv msv1)) 1 0x60000 [0x60080] [0x60100] 0 (by unfold inFlight; decide +kernel) rfl ?_ ?_ (by unfold State.canon; decide +kernel)
    rfl rfl rfl rfl rfl (by decide) (by decide) (by decide) ?_ ?_).imp fun _ x => x.1 <;> decide +kernel
/-- An earlier release that names E is still in flight. -/
def msvrel : State := { ms with flight := [{ id := 3, ord := .rel, mask := 2, kind := .store [] }, { id := 4, after := [3], kind := .msv msv1 }] }
theorem test_meets_MemorySideDone_waits (h : MemorySideDone) : exec (.msvComplete 4) msvrel = .next msvrel :=
  h.1 msvrel { id := 4, after := [3], kind := .msv msv1 } msv1 (by unfold inFlight; decide +kernel) rfl (.inr (by decide +kernel))
theorem test_meets_Fences (h : Fences) : ∃ t, exec (.fence 0 7) st = .next t := 
  ⟨_, (h st 0 7).1 (fun _ => by decide +kernel) (fun _ => by unfold reads; decide +kernel) (fun _ => by unfold cleans; decide +kernel)⟩
theorem test_meets_Fences_waits (h : Fences) : ∃ t, exec (.fence 2 7) sfl = .next t := ⟨_, (h sfl 2 7).2 (.inl (by decide +kernel))⟩
theorem test_meets_Fences_acquire (h : Fences) : ∃ t, exec (.fence 1 1) (fly (.load lacc (.vec .wave 55 1) .word 0)) = .next t :=
  ⟨_, (h (fly (.load lacc (.vec .wave 55 1) .word 0)) 1 1).2 (.inr (.inl ⟨by decide, by unfold reads; decide +kernel⟩))⟩
theorem test_meets_Fences_engines (h : Fences) : ∃ t, exec (.fence 1 2) (fly (.maint 2 [])) = .next t :=
  ⟨_, (h (fly (.maint 2 [])) 1 2).2 (.inr (.inr ⟨by decide, by unfold cleans; decide +kernel⟩))⟩

/-! ## Queues and copies -/

/-- Bank 1 is a FIFO with these entries, bound to port 56; s1 names it. -/
def fifo (es : List VReg) : Gang := { ga with banks := [{}, { mode := .fifo, entries := es, boundBy := [0] }] }
def qw : Wave := { setF wv 0 (fun f => { f with s := f.s.set 1 { val := 0x20000 } }) with ports := some ⟨1, none⟩ :: List.replicate 7 none }
def qs (es : List VReg := []) : State := st qw (fifo es)
theorem test_meets_QueueConfig_unbinds (h : QueueConfig) : ∃ t, exec (.qcfg 0 63) qs = .next t :=
  ⟨_, h.1 qs 0 63 rfl (by decide) rfl (by decide)⟩
theorem test_meets_QueueConfig_local (h : QueueConfig) : ∃ t, exec (.qcfg 2 63) qs = .next t :=
  ⟨_, (h.2 qs 2 63 rfl (by decide) (by decide) (by decide +kernel)).1 (by decide +kernel)⟩
/-- The launch defines one role. -/
def qr : State := pfxd qs (.role 1)
theorem test_meets_QueueConfig_role (h : QueueConfig) : ∃ t, exec (.qcfg 1 63) qr = .next t :=
  ⟨_, ((h.2 qr 1 63 rfl (by decide) (by decide) (by decide +kernel)).2.2 1 1 (by decide +kernel) rfl).1 (.inl (by decide +kernel))⟩
def qr0 : State := pfxd (st qw (fifo []) { live := true } { la with block := { ngangs := 1, roles := [{ wgs := 1 }] } }) (.role 0)
theorem test_meets_QueueConfig_roleBinds (h : QueueConfig) : ∃ t, exec (.qcfg 1 63) qr0 = .next t :=
  (((h.2 qr0 1 63 rfl (by decide) (by decide) (by decide +kernel)).2.2 1 0 (by decide +kernel) rfl).2 (by decide +kernel)
    (by decide +kernel) (by decide) (by decide +kernel) (by decide +kernel) rfl).imp fun _ x => x.1
theorem test_meets_QueueConfig_binds (h : QueueConfig) : ∃ t, exec (.qcfg 1 63) qs = .next t :=
  ((h.2 qs 1 63 rfl (by decide) (by decide) (by decide +kernel)).2.1 1 (by decide +kernel) rfl (by decide) (by decide +kernel) (by decide +kernel) rfl).imp fun _ x => x.1
theorem test_meets_QueueAccess_unbound (h : QueueAccess) : exec (.qclose 57) qs = .next (qs.takeTrap ⟨0x10, 0, 0, false⟩) :=
  ((h qs 4 57 3 rfl (by decide +kernel) (by decide)).1 (by decide +kernel)).2.2
def bk1 (es : List VReg) : Bank := { mode := .fifo, entries := es, boundBy := [0] }
theorem test_meets_QueueAccess_empty (h : QueueAccess) : ∃ t, exec (.qtry 4 56 3) qs = .next t :=
  ⟨_, ((h qs 4 56 3 rfl (by decide +kernel) (by decide)).2 1 (bk1 []) (by decide +kernel) (by decide)).1 rfl⟩
theorem test_meets_QueueAccess_pops (h : QueueAccess) : ∃ t, exec (.qtry 4 56 3) (qs [vr id]) = .next t :=
  ⟨_, ((h (qs [vr id]) 4 56 3 rfl (by decide +kernel) (by decide)).2 1 (bk1 [vr id]) (by decide +kernel) (by decide)).2.1 (vr id) [] rfl⟩
theorem test_meets_QueueAccess_closes (h : QueueAccess) : ∃ t, exec (.qclose 56) qs = .next t :=
  ⟨_, ((h qs 4 56 3 rfl (by decide +kernel) (by decide)).2 1 (bk1 []) (by decide +kernel) (by decide)).2.2.2.1 (by simp [qs, st])⟩
/-- A result of the wave is on its way to the port. -/
def qf : State := fly (.value (.port 56) 1 [[7]] 0) qs
theorem test_meets_QueueAccess_waits (h : QueueAccess) : exec (.qclose 56) qf = .next (stalls qf) :=
  ((h qf 4 56 3 rfl (by decide +kernel) (by decide)).2 1 (bk1 []) (by decide +kernel) (by decide)).2.2.2.2
    (op4 (.value (.port 56) 1 [[7]] 0)) (by decide +kernel) rfl rfl

/-- Scalars 1 to 8. -/
def sc (l : List SReg) : State := { ms (setF wv 0 fun f => { f with s := {} :: l ++ List.replicate (63 - l.length) {} }) with vds := [{ md with groups := (63 * 2 ^ 8 + 2 * 2 ^ 0 : Nat) :: List.replicate 63 0 }] }
def xf (q : BitVec 3 := 0) : XF := { f3 := q, sb := 3, sa := 2, d := 1 }
theorem enters_ok {s t : State} {i : Instr} {q : Nat} {o : Option Addr} (h : enters s i q o t) (e : o = none) (r : queueRoom s q = true) :
    exec i s = .next t := by subst e; exact h.1 r
theorem enters_full {s t : State} {i : Instr} {q : Nat} {o : Option Addr} (h : enters s i q o t) (e : o = none)
    (r : 32 ≤ (s.inQueue s.cw.coreNo q).length) : exec i s = .next (stalls s) := by subst e; exact h.2 r
theorem enters_seen {s t : State} {i : Instr} {q : Nat} {o : Option Addr} (h : enters s i q o t) {a : Addr} (e : o = some a) :
    exec i s = .next (s.takeTrap ⟨0x13, a, 0, false⟩) := by subst e; exact h
theorem test_meets_LinearCopies_ill (h : LinearCopies) : ∃ t, exec (.cpyg2l (xf)) (sc [{ val := 0x40 }, { val := 0x1000 }, { val := 0x1000001 }]) = .next t :=
  ⟨_, (h (sc [{ val := 0x40 }, { val := 0x1000 }, { val := 0x1000001 }]) (.cpyg2l (xf)) (xf) true false rfl (by decide +kernel)).1 (by decide +kernel)⟩
theorem test_meets_LinearCopies_align (h : LinearCopies) : ∃ t, exec (.cpyg2l (xf)) (sc [{ val := 0x42 }, { val := 0x1000 }, { val := 8 }]) = .next t :=
  ⟨_, (h (sc [{ val := 0x42 }, { val := 0x1000 }, { val := 8 }]) (.cpyg2l (xf)) (xf) true false rfl (by decide +kernel)).2.1 0x42 (by decide +kernel) (by decide +kernel)⟩
theorem test_meets_LinearCopies (h : LinearCopies) : ∃ t, exec (.cpyg2l (xf)) (sc [{ val := 0x40 }, { val := 0x1000 }, { val := 4 }, { val := 0x80 }]) = .next t :=
  by refine ⟨_, enters_ok (((h (sc [{ val := 0x40 }, { val := 0x1000 }, { val := 4 }, { val := 0x80 }]) (.cpyg2l (xf)) (xf) true false rfl ?_).2.2
    [.direct ⟨.sram, 0x40⟩] [.homed ⟨.phys, 0x51000⟩ false] (some (.direct ⟨.sram, 0x80⟩)) ?_ ?_ ?_ ?_ ?_
    ?_ ?_ ?_ (by decide)).2 ?_) ?_ ?_⟩ <;> decide +kernel
/-- The source's word meets a watchpoint. -/
def watchd : State := { sc [{ val := 0x40 }, { val := 0x1000 }, { val := 4 }] with vds := [{ md with dmt := true, watches := [(0x1002, 1)] }] }
theorem test_meets_LinearCopies_watch (h : LinearCopies) : ∃ t, exec (.cpyg2l (xf)) watchd = .next t :=
  by refine ⟨_, enters_seen (((h watchd (.cpyg2l (xf)) (xf) true false rfl ?_).2.2
    [.direct ⟨.sram, 0x40⟩] [.homed ⟨.phys, 0x51000⟩ false] none ?_ ?_ ?_ ?_ ?_ ?_ ?_ ?_ (by decide)).2 ?_) (a := 0x1000) ?_⟩ <;> decide +kernel
theorem test_meets_LinearCopies_none (h : LinearCopies) : ∃ t, exec (.cpyl2l (xf)) (sc [{ val := 0x40 }, { val := 0x1000 }]) = .next t :=
  by refine ⟨_, ((h (sc [{ val := 0x40 }, { val := 0x1000 }]) (.cpyl2l (xf)) (xf) true true rfl ?_).2.2
    [] [] none ?_ ?_ ?_ ?_ ?_
    ?_ ?_ ?_ (by decide)).1 ?_⟩ <;> decide +kernel
/-- The core's copy queue 0 holds n commands. -/
def cq (n : Nat) (s : State) : State := { s with flight := (List.range n).map fun i => { id := i, wave := 1, kind := .copy 0 (.marker false) none false [] 0 } }
def c4 : State := sc [{ val := 0x40 }, { val := 0x1000 }, { val := 4 }]
theorem test_meets_LinearCopies_waits (h : LinearCopies) : ∃ t, exec (.cpyl2l (xf)) (cq 32 c4) = .next t :=
  by refine ⟨_, enters_full (((h (cq 32 c4) (.cpyl2l (xf)) (xf) true true rfl ?_).2.2
    [.direct ⟨.sram, 0x40⟩] [.direct ⟨.sram, 0x1000⟩] none ?_ ?_ ?_ ?_ ?_
    ?_ ?_ ?_ (by decide)).2 ?_) ?_ ?_⟩ <;> decide +kernel
def cg (row cnt : DWord) : State := sc [{ val := 0x40 }, { val := 0x1000 }, { val := row }, {}, { val := 0x100 }, { val := cnt }]
theorem test_meets_OtherCopies_gathill (h : OtherCopies) : ∃ t, exec (.cpygath (xf)) (cg 3 1) = .next t :=
  ⟨_, (h.1 (cg 3 1) (xf) (by decide +kernel)).1 (by decide +kernel)⟩
theorem test_meets_OtherCopies_gather (h : OtherCopies) : ∃ t, exec (.cpygath (xf)) (cg 4 1) = .next t :=
  by refine ⟨_, ((h.1 (cg 4 1) (xf) ?_).2.2 [.direct ⟨.sram, 0x40⟩] [.direct ⟨.sram, 0x100⟩] none ?_ ?_ ?_ ?_
    ?_ ?_ ?_ ?_ ?_ ?_ ?_ ?_ ?_ (by decide)).1 ?_⟩ <;> decide +kernel
theorem test_meets_OtherCopies_gatheralign (h : OtherCopies) : ∃ t, exec (.cpygath (xf)) (cg 6 1) = .next t :=
  ⟨_, (h.1 (cg 6 1) (xf) (by decide +kernel)).2.1 6 (by decide +kernel) (by decide +kernel) (by decide +kernel) (by decide +kernel) (by decide +kernel)⟩
/-- Group 0 of two members. -/
def gd : Vd := { md with groups := 0x03 :: List.replicate 63 0, peers := List.replicate 16 1 }
def cc (n p : DWord) : State := { sc [{ val := 0x1000 }, {}, { val := n }, {}, { val := p }, { val := 0x1800 }] with vds := [gd] }
theorem test_meets_OtherCopies_collill (h : OtherCopies) : ∃ t, exec (.collbc (xf)) (cc 0x1000001 0) = .next t :=
  ⟨_, (h.2.1 (cc 0x1000001 0) (.collbc (xf)) (xf) false (.inr ⟨rfl, rfl⟩) (by decide +kernel)).1 (by decide +kernel)⟩
theorem test_meets_OtherCopies_coll (h : OtherCopies) : ∃ t, exec (.collared (xf)) (cc 128 4) = .next t :=
  by refine ⟨_, enters_ok ((h.2.1 (cc 128 4) (.collared (xf)) (xf) true (.inl ⟨rfl, rfl⟩) ?_).2.2 2 0
    ((List.range 32).map fun i => .homed ⟨.phys, 0x51000 + 4 * i⟩ false) [.homed ⟨.phys, 0x51800⟩ false, .homed ⟨.phys, 0x51804⟩ false] none ?_ ?_
    ?_ ?_ ?_ ?_ ?_ ?_ ?_ ?_ ?_ ?_ (by decide)) ?_ ?_⟩ <;> decide +kernel
theorem test_meets_OtherCopies_collalign (h : OtherCopies) : ∃ t, exec (.collbc (xf)) (cc 100 1) = .next t :=
  ⟨_, (h.2.1 (cc 100 1) (.collbc (xf)) (xf) false (.inr ⟨rfl, rfl⟩) (by decide +kernel)).2.1 2 0 100 (by decide +kernel) (by decide +kernel)
    (by decide +kernel) (by decide +kernel)⟩
/-- Rink 5: two layers, two heads of 64 values of 16 bits, one position a page; positions 0 to 3 allocated, 1 and 2 of
them speculative, 0 published at layer 0; page (0, 1) taken; two pages in the pool. -/
def rk5 : Rink := { fmt := 0, nlayers := 2, nheads := 2, hdim := 64, ppplog := 0, maxpos := 8, next := 4, spec := 6, pub := [1, 0], pages := [(0, 1, 0x80000)] }
def rd (p : List Nat) : Vd := { md with rinks := [(5, rk5)], pool := p }
/-- s1 names layer 0 and head 0 of the rink; s2, s3 and the offset register v5 as given. -/
def rs (a b : DWord) (v : Nat := 0) (p : List Nat := [0xA0000, 0xB0000]) (g : Gang := ga) : State :=
  { st (setV (setF wv 0 fun f => { f with s := ((f.s.set 1 { val := 5 }).set 2 { val := a }).set 3 { val := b } }) 5 (vr fun _ => v)) g (rd p) with partitions := [[0, 1, 2, 3, 4, 5, 6, 7]] }
def ck (n : DWord) : State := sc [{ val := 0x40 }, { val := 5 }, { val := 0 }, { val := n }, {}, {}]
theorem test_meets_OtherCopies_rkill (h : OtherCopies) : ∃ t, exec (.cpyrk (xf)) (ck 4097) = .next t :=
  ⟨_, (h.2.2.2 (ck 4097) (xf) (by decide) (by decide +kernel)).1 (by decide +kernel)⟩
theorem test_meets_OtherCopies_rkhigh (h : OtherCopies) : ∃ t, exec (.cpyrk { xf with sb := 61 }) (ck 1) = .next t :=
  ⟨_, h.2.2.1 (ck 1) { xf with sb := 61 } (by decide) (by decide +kernel)⟩
def ck1 : State := { ck 1 with vds := [rd []] }
theorem test_meets_OtherCopies_rink (h : OtherCopies) : ∃ t, exec (.cpyrk (xf)) ck1 = .next t :=
  by refine ⟨_, ((h.2.2.2 ck1 (xf) (by decide) ?_).2.1 5 rk5 ((List.range 32).map fun i => .direct ⟨.sram, 0x40 + 4 * i⟩) none ?_ ?_ rfl ?_
    ?_ ?_ ?_ ?_ ?_ (by decide)).1 ?_⟩ <;> decide +kernel
def ck2 : State := { sc [{ val := 0x42 }, { val := 5 }, {}, { val := 1 }, {}, {}] with vds := [rd []] }
theorem test_meets_OtherCopies_rkalign (h : OtherCopies) : ∃ t, exec (.cpyrk (xf)) ck2 = .next t :=
  ⟨_, (h.2.2.2 ck2 (xf) (by decide) (by decide +kernel)).2.2 5 rk5 0x42 (by decide +kernel) (by decide +kernel) rfl (by decide +kernel)⟩
theorem test_meets_QueueFences (h : QueueFences) : ∃ t, exec (.cqfence 1 0) st = .next t := ⟨_, h.1 st 1 0 (by decide) rfl⟩
def one1 : Op := { id := 0, wave := 1, kind := .copy 3 (.linear [] [] 0) none false [] 0 }
theorem test_meets_QueueFences_waits (h : QueueFences) : ∃ t, exec (.cqfence 1 0) { st with flight := [one1] } = .next t :=
  (h.2.1 { st with flight := [one1] } 1 0 one1 3 [] [] 0 none (by decide) rfl rfl (by decide) rfl (.inl rfl)).imp fun _ ⟨_, x⟩ => x.1
def lin (y : Option Place) (started : Bool) (data : List (Byte × Bool)) : OpKind :=
  .copy 0 (.linear [.direct ⟨.sram, 0x40⟩] [.direct ⟨.sram, 0x80⟩] 4) y started data 0
/-- An earlier command, a fence of all queues, and a later command. -/
def fen (all : Bool) : Op := { id := 1, wave := 1, kind := .copy 3 (.marker all) none false [] 0 }
def two3 : Op := { id := 2, wave := 1, kind := .copy 5 (.linear [] [] 0) none false [] 0 }
def fenced : State := { st with flight := [one1, fen true, two3] }
theorem test_meets_QueueFences_holds (h : QueueFences) : exec (.copyCommandStart 2) fenced = .next fenced :=
  h.2.2.1 fenced two3 (fen true) one1 5 3 3 true _ none (by unfold inFlight; decide +kernel) rfl (by decide +kernel) rfl (by decide) rfl (.inl rfl)
    (by decide +kernel) ⟨rfl, _, _, _, _, _, rfl, by simp⟩ (by decide) (.inl rfl)
/-- The last command before the fence has one sector left. -/
def last1 : Op := { id := 0, kind := .copy 3 (.linear [.direct ⟨.sram, 4 * 16⟩] [] 4) none true [(1, false), (2, false), (3, false), (4, false)] 0 }
def lasted : State := { st with flight := [last1, fen false] }
theorem test_meets_QueueFences_ends (h : QueueFences) : ∃ t, exec (.copyPartLand 0) lasted = .next t :=
  (h.2.2.2 lasted last1 (fen false) 3 3 16 4 false [] [(1, false), (2, false), (3, false), (4, false)] ⟨by decide +kernel, by decide +kernel⟩
    (by decide +kernel) rfl rfl (by decide +kernel) rfl (by decide) rfl).imp fun _ x => x.1
theorem test_meets_CopyEvents_start (h : CopyEvents) : ∃ t, exec (.copyCommandStart 4) (fly (lin none false [])) = .next t :=
  (h.1 (fly (lin none false [])) (op4 (lin none false [])) 0 4 [.direct ⟨.sram, 0x40⟩] [⟨.sram, 0x80⟩] none (by unfold inFlight; decide +kernel) rfl (by decide +kernel) (by decide)
    (by simp)).imp fun _ x => x.1
def four : List (Byte × Bool) := [(1, false), (2, false), (3, true), (4, false)]
theorem none_before (k : OpKind) (s : State) : ∀ p ∈ (fly k s).flight, p.core = (op4 k).core → p.id < (op4 k).id →
    ∀ x c y b d l, p.kind ≠ .copy x c y b d l := by
  intro p m _ l
  have : p = op4 k := by simpa [fly, op4] using m
  subst this; exact absurd l (Nat.lt_irrefl _)
theorem test_meets_CopyEvents_land (h : CopyEvents) : ∃ t, exec (.copyPartLand 4) (fly (lin (some (.direct ⟨.sram, 0x100⟩)) true four)) = .next t :=
  (h.2 (fly (lin (some (.direct ⟨.sram, 0x100⟩)) true four)) (op4 (lin (some (.direct ⟨.sram, 0x100⟩)) true four)) 0 4 1 1 0x40 0x100 [.direct ⟨.sram, 0x80⟩] four
    (by unfold inFlight; decide +kernel) (by unfold State.canon; decide +kernel) rfl (by decide) (by decide) (by decide) (by decide) rfl (by decide) (by decide) (by decide)
    (none_before _ _)).imp fun _ x => x.1
/-- Two sectors of a part are left. -/
def wide : OpKind := .copy 0 (.linear ((List.range 16).map fun i => .direct ⟨.sram, 0x40 + 4 * i⟩) [] 64) (some (.direct ⟨.sram, 0x100⟩)) true (List.replicate 64 (7, false)) 0
theorem test_meets_CopyEvents_sector (h : CopyEvents) : ∃ t, exec (.copyPartLand 4) (fly wide) = .next t :=
  (h.2 (fly wide) (op4 wide) 0 64 16 16 0x40 0x100 [] (List.replicate 64 (7, false))
    (by unfold inFlight; decide +kernel) (by unfold State.canon; decide +kernel) rfl (by decide) (by decide) (by decide) (by decide) rfl (by decide) (by decide) (by decide)
    (none_before _ _)).imp fun _ x => x.1
def col (started : Bool) : OpKind := .copy 0 (.coll true 0 128 4 [.homed ⟨.phys, 0x51000⟩ false] [.homed ⟨.phys, 0x51800⟩ false, .homed ⟨.phys, 0x51804⟩ false]) none started [] 0
theorem test_meets_Collectives_start (h : Collectives) : ∃ t, exec (.copyCommandStart 4) (fly (col false)) = .next t :=
  (h.1 (fly (col false)) (op4 (col false)) 0 0 128 true 4 _ _ none (by unfold inFlight; decide +kernel) rfl (by decide +kernel) (by decide +kernel)
    (by intro x m l; cases List.mem_singleton.mp m; exact absurd l (by decide))).imp fun _ x => x.1
/-- One of the same group stands before it in another queue. -/
def cop3 : Op := { id := 3, kind := .copy 1 (.coll true 0 128 4 [] []) none false [] 0 }
def col2 : State := { fly (col false) with flight := [cop3, op4 (col false)] }
theorem test_meets_Collectives_waits (h : Collectives) : exec (.copyCommandStart 4) col2 = .next col2 :=
  h.2.1 col2 (op4 (col false)) cop3 0 1 0 128 128 0 true true 4 4 _ _ [] [] none none [] (by unfold inFlight; decide +kernel) rfl
    (by decide +kernel) (by decide) rfl rfl
theorem test_meets_Collectives_broadcast (h : Collectives) : collResult false 1 2 2 [(0, [1, 2]), (1, [3, 4])] [1, 2] = [3, 4] :=
  h.2.2.1 1 2 2 [(0, [1, 2]), (1, [3, 4])] [1, 2] [3, 4] (by decide) (by decide)
theorem test_meets_Collectives_step (h : Collectives) : natOf (collOp 6 (bytesOf (collWidth 6) 5) (bytesOf (collWidth 6) 0xFFFFFFFF)) = 5 :=
  (h.2.2.2.1 6 5 0xFFFFFFFF (by decide) (by decide) (by decide) (by decide)).trans (by decide +kernel)
theorem test_meets_Collectives_order (h : Collectives) :
    natOf (((collResult true 2 2 128 [(0, bytesOf 128 5), (1, bytesOf 128 7)] []).drop (0 * collWidth 2)).take (collWidth 2)) = 12 :=
  (h.2.2.2.2.1 2 2 128 0 [(0, bytesOf 128 5), (1, bytesOf 128 7)] [] (by decide) (by decide) (by decide) (by decide) (by decide +kernel)
    (by decide +kernel) (by decide +kernel) (by decide +kernel)).trans (by decide +kernel)
/-- The collective of member 0 of two, whose group's entry is no longer there. -/
def cop (b : List Place) : Op := { op4 (.copy 0 (.coll true 0 128 4 b [.homed ⟨.phys, 0x51800⟩ false, .homed ⟨.phys, 0x51804⟩ false]) none true [] 0) with entry := 3 }
def cs (b : List Place) : State := { ms with flight := [cop b], vds := [md], colls := [⟨4, 0, 0, false⟩] }
def mem2 (n : Nat) : CollMember := { (default : CollMember) with isRed := true, bytes := n, param := 4, gone := false, data := bytesOf 128 9 }
def buf32 : List Place := (List.range 32).map fun i => .homed (Loc.plus ⟨.phys, 0x51000⟩ (4 * i)) false
theorem test_meets_Collectives_buffer (h : Collectives) : ∃ t, exec (.collectiveComplete 4 [mem2 128]) (cs buf32) = .next t :=
  (h.2.2.2.2.2.1 (cs buf32) (cop buf32) 0 0 2 0 true 4 ⟨.phys, 0x51000⟩ ⟨.phys, 0x51800⟩ [mem2 128] (by unfold inFlight; decide +kernel)
    (by unfold State.canon; decide +kernel) rfl rfl rfl (by decide) rfl rfl (by decide) (by decide) rfl (by decide) (by decide) (by decide) rfl rfl
    (by decide) (by decide +kernel) (by decide +kernel) (by decide +kernel)).imp fun _ x => x.1
theorem test_meets_Collectives_done (h : Collectives) : ∃ t, exec (.collectiveComplete 4 [mem2 256]) (cs [.homed ⟨.phys, 0x51000⟩ false]) = .next t :=
  (h.2.2.2.2.2.2 (cs [.homed ⟨.phys, 0x51000⟩ false]) (cop [.homed ⟨.phys, 0x51000⟩ false]) 0 0 128 2 true 4 [.homed ⟨.phys, 0x51000⟩ false] ⟨.phys, 0x51800⟩ [mem2 256] (by unfold inFlight; decide +kernel) (by unfold State.canon; decide +kernel) rfl
    rfl rfl (by decide) (by decide) rfl rfl rfl (by decide +kernel) (by decide +kernel) (by decide +kernel)).imp fun _ x => x.1
/-- s1 names register 3 of wave 0. -/
def dp (v : DWord) : State := st (setF wv 0 fun f => { f with s := f.s.set 1 { val := v } })
theorem test_meets_Deposits_ill (h : Deposits) : ∃ t, exec (.rdep 0 1 2) (dp 0x103) = .next t :=
  ⟨_, (h.1 (dp 0x103) 0 1 2 (by decide +kernel) (by decide +kernel) (by decide) (by decide +kernel)).1 (by decide +kernel)⟩
theorem test_meets_Deposits (h : Deposits) : ∃ t, exec (.rdep 0 1 2) (dp 3) = .next t :=
  ⟨_, (h.1 (dp 3) 0 1 2 (by decide +kernel) (by decide +kernel) (by decide) (by decide +kernel)).2 (by decide +kernel) (by decide +kernel) (by decide) (by decide +kernel)⟩
def dep : OpKind := .deposit 0 3 1 0xF [7]
theorem test_meets_Deposits_arrives (h : Deposits) : ∃ t, exec (.depositDelivery 4) (fly dep) = .next t :=
  by refine ((h.2 (fly dep) (op4 dep) 0 3 1 0xF [7] (by unfold inFlight; decide +kernel) rfl ?_ ?_ ?_ (by decide) ?_ ?_).1 (by decide) (.inl (by decide))).imp fun _ x => x.1 <;> decide +kernel
def gone1 : State := { fly dep with waves := [mode wv .ended] }
theorem test_meets_Deposits_lost (h : Deposits) : ∃ t, exec (.depositDelivery 4) gone1 = .next t :=
  by refine ((h.2 gone1 (op4 dep) 0 3 1 0xF [7] (by unfold inFlight; decide +kernel) rfl ?_ ?_ ?_ (by decide) ?_ ?_).2 rfl ?_).imp fun _ x => x.1 <;> decide +kernel

/-! ## The rink -/

theorem test_meets_RinkChecks (h : RinkChecks) : ∃ t, exec (.rkvoid ⟨2, 2, 6⟩) (rs 9 0) = .next t :=
  ⟨_, h (rs 9 0) (.rkvoid ⟨2, 2, 6⟩) 6 2 [2, 3] false 0x18 rfl trivial (by decide +kernel) (by decide +kernel) rfl⟩
def rl : ME := { kp := 0, va := 5, sa := 1, vd := 6 }
theorem test_meets_RinkLoads_bad (h : RinkLoads) : ∃ t, exec (.rkldK rl) (rs 0 0 4) = .next t :=
  by refine ⟨_, ((h (rs 0 0 4) (.rkldK rl) rl false (.inl ⟨rfl, rfl⟩) ?_ ?_ ?_ ?_ ?_).2 5 0 0 rk5 rfl).1 ?_⟩ <;> decide +kernel
theorem test_meets_RinkLoads (h : RinkLoads) : ∃ t, exec (.rkldV rl) (rs 0 0 3) = .next t :=
  by refine ⟨_, ((h (rs 0 0 3) (.rkldV rl) rl true (.inr ⟨rfl, rfl⟩) ?_ ?_ ?_ ?_ ?_).2 5 0 0 rk5 rfl).2 ?_ ?_⟩ <;> decide +kernel
/-- s1 names a rink that does not exist. -/
def rs0 (w : Wave → Wave := id) : State := { rs 0 0 with waves := [w (setF (setV wv 5 (vr fun _ => 0)) 0 fun f => { f with s := f.s.set 1 { val := 6 } })] }
theorem test_meets_RinkLoads_none (h : RinkLoads) : ∃ t, exec (.rkldK rl) rs0 = .next t :=
  by refine ⟨_, ((h rs0 (.rkldK rl) rl false (.inl ⟨rfl, rfl⟩) ?_ ?_ ?_ ?_ ?_).1 0x18 rfl).1 _ _ rfl⟩ <;> decide +kernel
theorem test_meets_RinkLoads_idle (h : RinkLoads) : ∃ t, exec (.rkldK rl) (rs0 fun w => setF w 0 fun f => { f with exm := 0 }) = .next t :=
  by refine ⟨_, ((h (rs0 fun w => setF w 0 fun f => { f with exm := 0 }) (.rkldK rl) rl false (.inl ⟨rfl, rfl⟩) ?_ ?_ ?_ ?_ ?_).1 0x18 rfl).2 ?_ ?_⟩ <;> decide +kernel
theorem test_meets_RinkStores_idle (h : RinkStores) : ∃ t, exec (.rkstK rl) (rs0 fun w => setF w 0 fun f => { f with exm := 0 }) = .next t :=
  ⟨_, (h (rs0 fun w => setF w 0 fun f => { f with exm := 0 }) (.rkstK rl) rl false (.inl ⟨rfl, rfl⟩) (by decide +kernel) (by decide +kernel) (by decide +kernel) (by decide +kernel)).1 (by decide +kernel) (by decide +kernel)⟩
theorem test_meets_RinkStores_bad (h : RinkStores) : ∃ t, exec (.rkstK rl) (rs 0 0 0) = .next t :=
  ⟨_, ((h (rs 0 0 0) (.rkstK rl) rl false (.inl ⟨rfl, rfl⟩) (by decide +kernel) (by decide +kernel) (by decide +kernel) (by decide +kernel)).2 5 0 0 rk5 rfl).1 (by decide +kernel)⟩
theorem test_meets_RinkStores_dry (h : RinkStores) : ∃ t, exec (.rkstK rl) (rs 0 0 3 []) = .next t :=
  ⟨_, ((h (rs 0 0 3 []) (.rkstK rl) rl false (.inl ⟨rfl, rfl⟩) (by decide +kernel) (by decide +kernel) (by decide +kernel) (by decide +kernel)).2 5 0 0 rk5 rfl).2.1 (by decide +kernel) (by decide +kernel) (by decide +kernel)⟩
theorem test_meets_RinkStores (h : RinkStores) : ∃ t, exec (.rkstV rl) (rs 0 0 3) = .next t :=
  by refine (((h (rs 0 0 3) (.rkstV rl) rl true (.inr ⟨rfl, rfl⟩) ?_ ?_ ?_ ?_).2 5 0 0 rk5 rfl).2.2 ?_ ?_
    ?_ (by decide) ?_ ?_ ?_).imp fun _ ⟨_, x⟩ => x.1 <;> decide +kernel
def xg : XG := { g := 1, sb := 2, sa := 1, d := 6 }
theorem test_meets_RinkAllocates_ill (h : RinkAllocates) : ∃ t, exec (.rkalloc xg) (rs 65537 0) = .next t :=
  ⟨_, h.1 (rs 65537 0) xg (by decide +kernel) (by decide +kernel) (by decide +kernel)⟩
theorem test_meets_RinkAllocates_past (h : RinkAllocates) : ∃ t, exec (.rkalloc xg) (rs 5 0) = .next t :=
  ⟨_, (h.2.1 (rs 5 0) xg 5 0 0 rk5 (by decide +kernel) (by decide +kernel) (by decide +kernel) rfl (by decide +kernel) (by decide)).1 (by decide +kernel)⟩
theorem test_meets_RinkAllocates (h : RinkAllocates) : ∃ t, exec (.rkalloc xg) (rs 4 0) = .next t :=
  let ⟨_, x⟩ := (h.2.1 (rs 4 0) xg 5 0 0 rk5 (by decide +kernel) (by decide +kernel) (by decide +kernel) rfl (by decide +kernel) (by decide)).2 (by decide +kernel)
  ⟨_, x.2⟩
def x2 : X3 := { sb := 2, sa := 1, d := 6 }
theorem test_meets_RinkAllocates_acqill (h : RinkAllocates) : ∃ t, exec (.rkacq x2) (rs 0x1000001 0) = .next t :=
  ⟨_, (h.2.2 (rs 0x1000001 0) x2 (by decide +kernel) (by decide +kernel)).1 (by decide +kernel)⟩
theorem front0 : isFrontier (rk5.pub.getD 0 0) 1 := ⟨by unfold has; decide, fun p q => by
  have : p = 0 := by omega
  subst this; unfold has; decide⟩
theorem test_meets_RinkAllocates_acq (h : RinkAllocates) : ∃ t, exec (.rkacq x2) (rs 0x1000000 0) = .next t :=
  ((h.2.2 (rs 0x1000000 0) x2 (by decide +kernel) (by decide +kernel)).2 5 0 0 rk5 1 (by decide +kernel) rfl (by decide +kernel) rfl front0).imp fun _ ⟨_, x⟩ => x.1
theorem test_meets_RinkPublishes_range (h : RinkPublishes) : ∃ t, exec (.rkpub x2) (rs 2 5) = .next t :=
  ⟨_, (h (rs 2 5) x2 5 0 0 rk5 (by decide +kernel) (by decide +kernel) rfl).1 (by decide +kernel)⟩
theorem test_meets_RinkPublishes_waits (h : RinkPublishes) : ∃ t, exec (.rkpub x2) { rs 1 4 with flight := [sop] } = .next t :=
  ⟨_, (h { rs 1 4 with flight := [sop] } x2 5 0 0 rk5 (by decide +kernel) (by decide +kernel) rfl).2.1 (by decide +kernel) (by decide +kernel) (by decide +kernel)⟩
theorem test_meets_RinkPublishes (h : RinkPublishes) : ∃ t, exec (.rkpub x2) (rs 1 4) = .next t :=
  let ⟨_, _, x⟩ := (h (rs 1 4) x2 5 0 0 rk5 (by decide +kernel) (by decide +kernel) rfl).2.2 (by decide +kernel) (by decide +kernel) (by decide +kernel) (by decide) (by decide)
  ⟨_, x.2.2.1⟩
theorem test_meets_RinkReads_ill (h : RinkReads) : ∃ t, exec (.rksnap xg) (rs 0x1000000 0) = .next t :=
  ⟨_, (h.1 (rs 0x1000000 0) xg (by decide +kernel) (by decide +kernel)).1 (by decide +kernel)⟩
theorem test_meets_RinkReads_align (h : RinkReads) : ∃ t, exec (.rksnap xg) (rs 63 0) = .next t :=
  ⟨_, (h.1 (rs 63 0) xg (by decide +kernel) (by decide +kernel)).2.1 (by decide +kernel) (by decide +kernel)⟩
theorem test_meets_RinkReads_snap (h : RinkReads) : ∃ t, exec (.rksnap { xg with g := 0 }) (rs 0xFFFFC0 0) = .next t :=
  let ⟨_, x⟩ := (h.1 (rs 0xFFFFC0 0) { xg with g := 0 } (by decide +kernel) (by decide +kernel)).2.2 5 0 0 rk5 (by decide +kernel) (by decide +kernel) rfl (by decide +kernel) (by decide +kernel)
  ⟨_, x.2⟩
theorem test_meets_RinkReads_infoill (h : RinkReads) : ∃ t, exec (.rkinfo x2) (rs 7 0) = .next t :=
  ⟨_, (h.2 (rs 7 0) x2 (by decide +kernel) (by decide +kernel)).1 (by decide +kernel)⟩
theorem test_meets_RinkReads_info (h : RinkReads) : ∃ t, exec (.rkinfo x2) (rs 6 0) = .next t :=
  ⟨_, (h.2 (rs 6 0) x2 (by decide +kernel) (by decide +kernel)).2 5 0 0 rk5 1 (by decide +kernel) (by decide +kernel) front0 rfl⟩
theorem test_meets_RinkVoids_range (h : RinkVoids) : ∃ t, exec (.rkvoid x2) (rs 2 5) = .next t :=
  ⟨_, (h (rs 2 5) x2 5 0 0 rk5 (by decide +kernel) (by decide +kernel) rfl).1 (.inr (.inl (by decide +kernel)))⟩
theorem spec12 : ∀ p, ((rs 1 3).sreg 2).val.toNat ≤ p → p < ((rs 1 3).sreg 3).val.toNat → has rk5.spec p := by
  intro p a b
  have a : 1 ≤ p := a
  have b : p < 3 := b
  have : p = 1 ∨ p = 2 := by omega
  rcases this with rfl | rfl <;> (unfold has; decide)
theorem test_meets_RinkVoids (h : RinkVoids) : ∃ t, exec (.rkvoid x2) (rs 1 3) = .next t :=
  by refine ((h (rs 1 3) x2 5 0 0 rk5 ?_ ?_ rfl).2 ?_ ?_ spec12 ?_ (by decide) ?_ (by decide)
    ?_ ?_ rfl ?_ ?_ rfl).imp fun _ ⟨_, _, x⟩ => x.1 <;> decide +kernel
theorem test_meets_RinkPages_range (h : RinkPages) : ∃ t, exec (.rkpage xg) (rs 3 2) = .next t :=
  ⟨_, (h (rs 3 2) xg 5 0 0 rk5 (by decide +kernel) (by decide +kernel) rfl).1 (by decide +kernel)⟩
theorem test_meets_RinkPages (h : RinkPages) : ∃ m : List (Nat × Nat), m.Nodup :=
  let ⟨m, x⟩ := (h (rs 1 2) xg 5 0 0 rk5 (by decide +kernel) (by decide +kernel) rfl).2 (by decide +kernel) (by decide +kernel) (by decide)
  ⟨m, x.1⟩

/-! ## Slalom -/

/-- Tree 3 of 8 nodes: root 0 with children 1 and 2, of which 2 has had more visits. -/
def tr3 : Tree := { cap := 8, rootv := true, nodes := [(0, { n := 3, first := 1, nch := 2, root := true }), (1, { n := 1 }), (2, { n := 2 })] }
def noRoot : Tree := { cap := 8 }
def td (t : Tree := tr3) (ds : List Deferred := []) : Vd := { md with trees := [(3, t)], deferred := ds }
/-- s1 names tree 3; s2, s3, s4 as given. -/
def ts (a : DWord := 0) (b : DWord := 0) (c : DWord := 0) (t : Tree := tr3) (dry : Bool := false) : State :=
  st { setF wv 0 (fun f => { f with s := (((f.s.set 1 { val := 3 }).set 2 { val := a }).set 3 { val := b }).set 4 { val := c } }) with dry := dry } ga (td t)
theorem tree3 {a b c t d} : slTree (ts a b c t d) 1 3 t := ⟨rfl, rfl, by decide, rfl⟩
theorem sound3 {a b c} : soundTree (ts a b c) tr3 := ⟨by decide, by decide, by decide, by
  intro i h; have : i < 8 := h; rcases i with _ | _ | _ | _ | _ | _ | _ | _ | i <;> rfl⟩
theorem test_meets_SlalomChecks_ill (h : SlalomChecks) : ∃ t, exec (.slpick x2) (ts 0x4000000) = .next t :=
  ⟨_, (h.1 (ts 0x4000000) (.slpick x2) _ _ _ _ rfl (by decide +kernel) (by decide +kernel) trivial).1 (.inr (.inr (by decide +kernel)))⟩
theorem test_meets_SlalomChecks_path (h : SlalomChecks) : ∃ t, exec (.slpick x2) (ts 8) = .next t :=
  ⟨_, (h.1 (ts 8) (.slpick x2) _ _ _ _ rfl (by decide +kernel) (by decide +kernel) trivial).2 rfl (by decide +kernel) (by decide +kernel) (.inr ⟨tr3, rfl, by simp, .inl (by decide +kernel)⟩)⟩
/-- A byte of node 1 holds an uncorrectable error. -/
def tbad : State := { ts 1 with bad := [Loc.key ⟨.phys, 64⟩] }
theorem test_meets_SlalomChecks_poison (h : SlalomChecks) : ∃ t, exec (.slread x2) tbad = .next t :=
  ⟨_, h.2 tbad (.slread x2) x2 3 1 tr3 { n := 1 } (.inl rfl) (by unfold slScalar; decide) (by decide +kernel) (by decide +kernel) ⟨rfl, rfl, by decide, rfl⟩ ⟨rfl, by decide, by decide, rfl⟩
    (by decide +kernel) (by decide +kernel)⟩
/-- Tree 3 under way of operation 4's walk. -/
def tw (w : Walk) : State := { ts with flight := [{ id := 4, owners := [0], cls := some 7, kind := .slalom 3 w (.scl .wave 6 1) }] }
theorem test_meets_SlalomDescends_step (h : SlalomDescends) : ∃ t, exec (.resultDelivery 4) (tw (.desc 0 0 none [])) = .next t :=
  (h.1 (tw (.desc 0 0 none [])) { id := 4, owners := [0], cls := some 7, kind := .slalom 3 (.desc 0 0 none []) (.scl .wave 6 1) } 3 0 0 _ tr3 []
    (by unfold inFlight; decide +kernel) rfl (by decide +kernel) rfl).imp fun _ x => x.1
theorem below {a b c t d} : idsBelow (ts a b c t d) := fun _ x => nomatch x
theorem test_meets_SlalomDescends (h : SlalomDescends) : ∃ t, exec (.sldesc 1 6) ts = .next t :=
  (h.2 ts 1 6 3 tr3 (by decide +kernel) (by decide +kernel) tree3 sound3 (by decide +kernel) (by decide) (by decide +kernel) below).imp fun _ x => x.1
theorem test_meets_SlalomBacks_step (h : SlalomBacks) : ∃ t, exec (.resultDelivery 4) (tw (.back 1 0 1 0 false)) = .next t :=
  (h.1 (tw (.back 1 0 1 0 false)) { id := 4, owners := [0], cls := some 7, kind := .slalom 3 (.back 1 0 1 0 false) (.scl .wave 6 1) } 3 1 1 0 0 false _ tr3 { n := 1 }
    (by unfold inFlight; decide +kernel) rfl (by decide +kernel) rfl rfl rfl (by decide)).imp fun _ x => x.1
/-- A backup that has come to its end and has nodes 1 and 0 to update. -/
def lated : Op := { id := 4, owners := [0], cls := some 7, late := [1, 0], kind := .slalom 3 (.rest 1 2 none) (.scl .wave 6 1) }
theorem test_meets_SlalomBacks_late (h : SlalomBacks) : ∃ t, exec (.resultDelivery 4) { ts with flight := [lated] } = .next t :=
  (h.2.1 { ts with flight := [lated] } lated 3 1 2 [0] 1 none _ tr3 (by unfold inFlight; decide +kernel) rfl (by decide +kernel) rfl rfl).imp fun _ x => x.1
theorem test_meets_SlalomBacks (h : SlalomBacks) : ∃ t, exec (.slback x2) ts = .next t :=
  (h.2.2 ts x2 3 0 1 tr3 _ _ false (by decide +kernel) (by decide +kernel) tree3 ⟨rfl, by decide, by decide, rfl⟩ sound3 (by decide +kernel) (by decide) (by unfold slScalar; decide +kernel)
    (by decide +kernel) (Backs.stop tr3 0 _ rfl (.inl rfl)) (by decide) below).imp fun _ x => x.1
theorem test_meets_SlalomExpands_ill (h : SlalomExpands) : ∃ t, exec (.slexp x2) (ts 1 2049) = .next t :=
  ⟨_, (h (ts 1 2049) x2 3 1 tr3 { n := 1 } (by decide +kernel) (by decide +kernel) tree3 ⟨rfl, by decide, by decide, rfl⟩).1 (.inr (by decide +kernel))⟩
theorem test_meets_SlalomExpands_align (h : SlalomExpands) : ∃ t, exec (.slexp x2) (ts 1 2048 4) = .next t :=
  ⟨_, (h (ts 1 2048 4) x2 3 1 tr3 { n := 1 } (by decide +kernel) (by decide +kernel) tree3 ⟨rfl, by decide, by decide, rfl⟩).2.1 (by decide +kernel) (by decide +kernel) (by decide +kernel)⟩
theorem run2 : lowestRun tr3 2 3 := ⟨by decide, by decide, by decide⟩
theorem run6 : noRun tr3 6 := by
  intro i h; have : i + 6 ≤ 8 := h
  exact ⟨0, by decide, by rcases i with _ | _ | _ | i <;> first | decide | omega⟩
def zs (n : Nat) : List (Byte × Bool) := List.replicate n (0, false)
theorem test_meets_SlalomExpands (h : SlalomExpands) : ∃ t, exec (.slexp x2) (ts 1 2 0x40) = .next t :=
  by refine (((h (ts 1 2 0x40) x2 3 1 tr3 { n := 1 } ?_ ?_ tree3 ⟨rfl, by decide, by decide, rfl⟩).2.2 (zs 32) ?_ ?_ ?_ ?_
    ?_ ?_ ?_ ?_).2 (by decide) ?_).2.2.2 3 rfl rfl rfl run2 |>.imp fun _ ⟨_, x⟩ => x.1 <;> decide +kernel
theorem test_meets_SlalomExpands_none (h : SlalomExpands) : ∃ t, exec (.slexp x2) (ts 1 6 0x40) = .next t :=
  by refine ⟨_, ((h (ts 1 6 0x40) x2 3 1 tr3 { n := 1 } ?_ ?_ tree3 ⟨rfl, by decide, by decide, rfl⟩).2.2 (zs 96) ?_ ?_ ?_ ?_
    ?_ ?_ ?_ ?_).1 rfl rfl rfl run6 rfl⟩ <;> decide +kernel
theorem test_meets_SlalomExpands_dry (h : SlalomExpands) : ∃ t, exec (.slexp x2) (ts 1 6 0x40 tr3 true) = .next t :=
  by refine (((h (ts 1 6 0x40 tr3 true) x2 3 1 tr3 { n := 1 } ?_ ?_ tree3 ⟨rfl, by decide, by decide, rfl⟩).2.2 (zs 96) ?_ ?_ ?_ ?_
    ?_ ?_ ?_ ?_).2 (by decide) ?_).2.2.1 rfl rfl rfl run6 rfl |>.imp fun _ x => x.1 <;> decide +kernel
theorem test_meets_SlalomExpands_has (h : SlalomExpands) : ∃ t, exec (.slexp x2) (ts 0 2 0x40) = .next t :=
  by refine (((h (ts 0 2 0x40) x2 3 0 tr3 _ ?_ ?_ tree3 ⟨rfl, by decide, by decide, rfl⟩).2.2 (zs 32) ?_ ?_ ?_ ?_
    ?_ ?_ ?_ ?_).2 (by decide) ?_).2.1 rfl rfl (by decide) |>.imp fun _ x => x.1 <;> decide +kernel
theorem test_meets_SlalomReads_pick (h : SlalomReads) : ∃ t, exec (.slpick x2) ts = .next t :=
  (h.1 ts x2 3 0 tr3 _ (by decide +kernel) (by decide +kernel) tree3 ⟨rfl, by decide, by decide, rfl⟩ sound3 (by decide +kernel) below).imp fun _ ⟨_, x⟩ => x.1
theorem test_meets_SlalomReads_read (h : SlalomReads) : ∃ t, exec (.slread { x2 with d := 59 }) ts = .next t :=
  by refine (h.2.1 ts { x2 with d := 59 } 3 0 tr3 _ ?_ ?_ tree3 ⟨rfl, by decide, by decide, rfl⟩ ?_ ?_ (by decide) (by decide) (by decide) (by decide) (by decide)).imp fun _ x => x.1 <;> decide +kernel
theorem test_meets_SlalomReads_ill (h : SlalomReads) : ∃ t, exec (.slread { x2 with d := 60 }) ts = .next t := ⟨_, h.2.2 ts { x2 with d := 60 } (.inr (by decide))⟩
/-- SLROOT and SLPRUNE on node x of tree 3. -/
theorem test_meets_SlalomCuts_poison (h : SlalomCuts) : ∃ t, exec (.slroot x2) tbad = .next t :=
  ⟨_, (h tbad (.slroot x2) x2 3 1 tr3 _ true (.inl ⟨rfl, rfl⟩) (by decide +kernel) (by decide +kernel) ⟨rfl, rfl, by decide, rfl⟩ ⟨rfl, by decide, by decide, rfl⟩ (by decide +kernel) (by decide +kernel) (by decide +kernel) (by decide)).1 (by decide +kernel)⟩
def tbad0 : State := { ts with bad := [Loc.key ⟨.phys, 64⟩] }
theorem test_meets_SlalomCuts_below (h : SlalomCuts) : ∃ t, exec (.slprune x2) tbad0 = .next t :=
  ⟨_, (h tbad0 (.slprune x2) x2 3 0 tr3 _ false (.inr ⟨rfl, rfl⟩) (by decide +kernel) (by decide +kernel) ⟨rfl, rfl, by decide, rfl⟩ ⟨rfl, by decide, by decide, rfl⟩ (by decide +kernel) (by decide +kernel) (by decide +kernel) (by decide)).2.1
    rfl (by simp) (by decide) 1 (.child 0 1 { n := 3, first := 1, nch := 2, root := true } .self rfl (by decide) (by decide)) (by decide +kernel)⟩
theorem clean3 {a b c x} : ∀ j, j = x ∨ InSubtree tr3 tr3.root j ∨ InSubtree tr3 x j → (ts a b c).nodeBad tr3 j = false := by
  intro j _; simp [State.nodeBad, ts, st]
theorem test_meets_SlalomCuts_bad (h : SlalomCuts) : ∃ t, exec (.slroot x2) ts = .next t :=
  (((h ts (.slroot x2) x2 3 0 tr3 _ true (.inl ⟨rfl, rfl⟩) (by decide +kernel) (by decide +kernel) tree3 ⟨rfl, by decide, by decide, rfl⟩ (by decide +kernel) (by decide +kernel) (by decide +kernel) (by decide)).2.2 clean3).1
    (.inr (by rintro ny ⟨x, _⟩; exact absurd x (by decide)))).imp fun _ x => x.1
theorem test_meets_SlalomCuts_bare (h : SlalomCuts) : ∃ t, exec (.slprune x2) (ts 1) = .next t :=
  (((h (ts 1) (.slprune x2) x2 3 1 tr3 _ false (.inr ⟨rfl, rfl⟩) (by decide +kernel) (by decide +kernel) tree3 ⟨rfl, by decide, by decide, rfl⟩ (by decide +kernel) (by decide +kernel) (by decide +kernel) (by decide)).2.2 clean3).2.1
    (by simp) (by decide)).imp fun _ ⟨_, x⟩ => x.1
theorem test_meets_SlalomCuts (h : SlalomCuts) : ∃ t, exec (.slprune x2) ts = .next t :=
  let ⟨_, _, _, _, _, x, _⟩ := ((h ts (.slprune x2) x2 3 0 tr3 _ false (.inr ⟨rfl, rfl⟩) (by decide +kernel) (by decide +kernel) tree3 ⟨rfl, by decide, by decide, rfl⟩ (by decide +kernel) (by decide +kernel) (by decide +kernel) (by decide)).2.2 clean3).2.2
    (by simp) (by decide)
  (x (by decide +kernel)).imp fun _ ⟨_, y⟩ => y.1
theorem test_meets_SlalomSets_full (h : SlalomSets) : ∃ t, exec (.slnew x2) ts = .next t :=
  ((h.1 ts x2 3 tr3 (by decide +kernel) (by decide +kernel) tree3 (by decide +kernel) (by decide +kernel) (by decide +kernel) (by decide)).1 (.inl rfl)).imp fun _ x => x.1
theorem test_meets_SlalomSets_new (h : SlalomSets) : ∃ t, exec (.slnew x2) (ts 0 0 0 noRoot) = .next t :=
  ((h.1 (ts 0 0 0 noRoot) x2 3 noRoot (by decide +kernel) (by decide +kernel) tree3 (by decide +kernel) (by decide +kernel) (by decide +kernel) (by decide)).2 0 rfl ⟨by decide, by decide, by decide⟩).imp fun _ ⟨_, x⟩ => x.1
theorem test_meets_SlalomSets_sel (h : SlalomSets) : ∃ t, exec (.slcfg x2) (ts 6) = .next t :=
  ⟨_, (h.2 (ts 6) x2 3 tr3 (by decide +kernel) (by decide +kernel) tree3 (by decide +kernel) (by decide) (by decide +kernel)).1 (by decide +kernel)⟩
theorem test_meets_SlalomSets_word (h : SlalomSets) : ∃ t, exec (.slcfg x2) (ts 2 0x100000000) = .next t :=
  ⟨_, (h.2 (ts 2 0x100000000) x2 3 tr3 (by decide +kernel) (by decide +kernel) tree3 (by decide +kernel) (by decide) (by decide +kernel)).2.1 (by decide +kernel) (by decide +kernel)⟩
theorem test_meets_SlalomSets_dry (h : SlalomSets) : ∃ t, exec (.slcfg x2) (ts 5 2) = .next t :=
  ⟨_, (h.2 (ts 5 2) x2 3 tr3 (by decide +kernel) (by decide +kernel) tree3 (by decide +kernel) (by decide) (by decide +kernel)).2.2.1 (by decide +kernel) (by decide +kernel)⟩
theorem test_meets_SlalomSets_cfg (h : SlalomSets) : ∃ t, exec (.slcfg x2) (ts 5 1) = .next t :=
  ((h.2 (ts 5 1) x2 3 tr3 (by decide +kernel) (by decide +kernel) tree3 (by decide +kernel) (by decide) (by decide +kernel)).2.2.2 (by decide +kernel) (by decide +kernel) (by decide +kernel)).imp fun _ x => x.1

/-! ## The matrix engine -/

def mm : Instr := .mma { ty := 0, t := 0, sa := 1, sb := 2, z := 1, bs := 0, pair := 0 }
def r64 (n m : Nat) : Region := ⟨List.replicate n (List.replicate m (.direct ⟨.sram, 0⟩)), []⟩
/-- n operations stand in the queue of the wave's array. -/
def aq (n : Nat) : State := { ms with flight := List.replicate n { kind := .mx (.mzero 0) 0 false [] } }
def m15 : State := st wv { ga with wgs := [{ waves := [0], tiles := 15 }] }
theorem test_meets_MatrixIssue_ill (h : MatrixIssue) : exec (.mzero 15) m15 = .next (m15.takeTrap ⟨0x01, 0, 0, false⟩) :=
  (h m15 (.mzero 15) _ rfl).1 (by decide +kernel)
theorem test_meets_MatrixIssue_align (h : MatrixIssue) : ∃ t, exec (.msave 4 0) ms = .next t :=
  ⟨_, ((h ms (.msave 4 0) _ rfl).2 (by decide +kernel) (by decide +kernel)).1 0x02 0x40 rfl⟩
theorem test_meets_MatrixIssue (h : MatrixIssue) : ∃ t, exec (.mzero 15) (aq 7) = .next t :=
  ⟨_, ((h (aq 7) (.mzero 15) _ rfl).2 (by decide +kernel) (by decide +kernel)).2 (.mzero 15) none rfl |>.1 (by unfold arrayRoom; decide +kernel) (by intro f e; cases e) (by decide +kernel)⟩
theorem test_meets_MatrixIssue_waits (h : MatrixIssue) : ∃ t, exec (.mzero 15) (aq 8) = .next t :=
  ⟨_, ((h (aq 8) (.mzero 15) _ rfl).2 (by decide +kernel) (by decide +kernel)).2 (.mzero 15) none rfl |>.2.1 (by unfold arrayRoom; decide +kernel)⟩
def mxo (k : MxKind) (st : Bool) (b : List (List (Byte × Bool)) := []) : Op := { id := 4, owners := [0], sfr := [0], kind := .mx k 0 st b }
def mxs (k : MxKind) (st : Bool) (b : List (List (Byte × Bool)) := []) : State := { ms with flight := [mxo k st b] }
theorem test_meets_MatrixStarts (h : MatrixStarts) : ∃ t, exec (.matrixOpStart 4) (mxs (.mzero 0) false) = .next t :=
  ⟨_, (h.1 (mxs (.mzero 0) false) (mxo (.mzero 0) false) _ _ _ (by unfold inFlight; decide +kernel) rfl).1 (by
    intro p m
    cases List.mem_singleton.mp m
    exact ⟨fun x => absurd x.1 (Nat.lt_irrefl _), fun x => absurd x.1 (by decide +kernel)⟩)⟩
def mx2 : State := { ms with flight := [{ mxo (.mzero 0) false with id := 3 }, mxo (.mzero 0) false] }
theorem test_meets_MatrixStarts_waits (h : MatrixStarts) : exec (.matrixOpStart 4) mx2 = .next mx2 :=
  (h.1 mx2 (mxo (.mzero 0) false) _ _ _ (by unfold inFlight; decide +kernel) rfl).2 ⟨{ mxo (.mzero 0) false with id := 3 }, by decide +kernel,
    .inl ⟨by decide, _, _, _, _, rfl, 0, by decide +kernel, by decide +kernel, .inl rfl⟩⟩
def mx4 : State := { ms with flight := [{ mxo (.mzero 0) true with id := 3 }, mxo (.mzero 0) true] }
theorem test_meets_MatrixStarts_tile (h : MatrixStarts) : exec (.matrixOpRetire 4) mx4 = .next mx4 :=
  h.2 mx4 (mxo (.mzero 0) true) { mxo (.mzero 0) true with id := 3 } _ _ 0 _ (by unfold inFlight; decide +kernel) rfl (by decide +kernel) (by decide)
    (by decide +kernel) (by decide +kernel)
/-- An earlier release of the fragment names M. -/
def mx3 : State := { ms with flight := [{ id := 3, owners := [0], ord := .rel, mask := 4, kind := .store [] }, { mxo (.mzero 0) false with after := [3] }] }
theorem test_meets_MatrixStarts_release (h : MatrixStarts) : exec (.matrixOpStart 4) mx3 = .next mx3 :=
  (h.1 mx3 { mxo (.mzero 0) false with after := [3] } _ _ _ (by unfold inFlight; decide +kernel) rfl).2
    ⟨{ id := 3, owners := [0], ord := .rel, mask := 4, kind := .store [] }, by decide +kernel, .inr (by decide +kernel)⟩
/-- The operation has started on bytes of 0. -/
def run (k : MxKind) : State := mxs k true (k.operands.map fun l => l.map fun _ => (0, false))
def runo (k : MxKind) : Op := mxo k true (k.operands.map fun l => l.map fun _ => (0, false))
def plainZero (s : State) (p : Place) : Bool :=
  heldNow s (s.gang 0).vd p == (0, false) && s.served p false && match p with | .peer .. => false | _ => true
theorem steady_of {s : State} {k : MxKind} {tile : Nat} (f : s.op? 4 = some (runo k)) (b : s.bad = []) (c : s.canon) (e : s.flight = [runo k])
    (z : ∀ l ∈ k.operands, l.all (plainZero s) = true) : steady s (runo k) k 0 tile := by
  have q : ∀ l ∈ k.operands, ∀ p ∈ l, heldNow s (s.gang 0).vd p = (0, false) ∧ s.served p false = true ∧ ∀ sl off, p ≠ .peer sl off := by
    intro l hl p hp
    have := List.all_eq_true.mp (z l hl) p hp
    simp only [plainZero, Bool.and_eq_true, beq_iff_eq] at this
    exact ⟨this.1.1, this.1.2, fun sl off e => by rw [e] at this; cases this.2⟩
  refine ⟨f, ?_, fun l hl p hp => ⟨congrArg Prod.snd (q l hl p hp).1, (q l hl p hp).2⟩, fun i _ => ?_, c, fun p m l => by
    rw [e] at m; cases List.mem_singleton.mp m; exact absurd l (Nat.lt_irrefl _)⟩
  rotate_left
  · show s.bad.contains _ = false; rw [b]; rfl
  show OpKind.mx k 0 true _ = _
  exact congrArg _ (List.map_congr_left fun l hl => List.map_congr_left fun p hp => (q l hl p hp).1.symm)
theorem steady_run {k : MxKind} {tile : Nat} (z : ∀ l ∈ k.operands, l.all (plainZero (run k)) = true) :
    steady (run k) (runo k) k 0 tile := steady_of rfl rfl ⟨rfl, rfl⟩ rfl z
def mma1 : MxKind := .mma 8 true false (r64 64 64) (r64 64 64) 0 none
theorem test_meets_MatrixProducts (h : MatrixProducts) : ∃ t, exec (.matrixOpRetire 4) (run mma1) = .next t :=
  (h.1 (run mma1) (runo mma1) 8 0 0 true false _ _ (by decide) (by decide) rfl rfl (by decide +kernel) (by decide) (steady_run (by decide +kernel))).imp fun _ x => x.1
def mma2 : MxKind := .mma 7 true false (r64 64 48) (r64 128 48) 0 (some 512)
theorem test_meets_MatrixProducts_pair (h : MatrixProducts) : ∃ t, exec (.matrixOpRetire 4) (run mma2) = .next t :=
  (h.2.1 (run mma2) (runo mma2) 7 0 0 512 true _ _ (by decide) (by decide) rfl rfl (by decide +kernel) (steady_run (by decide +kernel)) (steady_run (by decide +kernel))).imp fun _ x => x.1
def one8 : MxKind := .mscale 0 false ⟨[List.replicate 256 (.direct ⟨.sram, 0⟩)], []⟩
/-- The byte at local address 0 is poisoned. -/
def sc1 : MxKind := .mscale 0 false ⟨[[.direct ⟨.sram, 0⟩]], []⟩
def pois : State := { mxs sc1 true [[(0, true)]] with bad := [Loc.key ⟨.sram, 0⟩] }
theorem test_meets_MatrixProducts_poison (h : MatrixProducts) : ∃ t, exec (.matrixOpRetire 4) pois = .next t :=
  ⟨_, h.2.2 pois (mxo sc1 true [[(0, true)]]) sc1 0 (by unfold inFlight; decide +kernel) (by decide +kernel) (by intro a b e; cases e)
    (by intro l hl p hp; have e : p = .direct ⟨.sram, 0⟩ := by { cases List.mem_singleton.mp hl; exact List.mem_singleton.mp hp }
        subst e; exact ⟨by decide +kernel, by intro _ _ x; cases x⟩)
    (by intro p m l; cases List.mem_singleton.mp m; exact absurd l (Nat.lt_irrefl _))
    ⟨[.direct ⟨.sram, 0⟩], by decide, .direct ⟨.sram, 0⟩, by decide, by decide +kernel⟩⟩
theorem test_meets_TileResults_zero (h : TileResults) : ∃ t, exec (.matrixOpRetire 4) (run (.mzero 3)) = .next t :=
  (h.1 (run (.mzero 3)) (runo (.mzero 3)) 0 3 (steady_run (by decide))).imp fun _ x => x.1
def ldt (f n : Nat) : MxKind := .mldt 0 f (r64 64 n)
theorem test_meets_TileResults_load (h : TileResults) : ∃ t, exec (.matrixOpRetire 4) (run (ldt 2 128)) = .next t :=
  (h.2.1 (run (ldt 2 128)) (runo (ldt 2 128)) 0 0 2 _ (by decide) rfl (by decide +kernel) (steady_run (by decide +kernel))).imp fun _ x => x.1
def rest1 : MxKind := .mrest 0 (List.replicate 4096 (.homed ⟨.phys, 0x50000⟩ false))
/-- The line it reads stands in the LLC. -/
def runL : State := { run rest1 with llc := [⟨⟨.phys, 0x50000⟩, 0, .normal, false⟩] }
theorem touched : runL.touchPlaces (List.replicate 4096 (.homed ⟨.phys, 0x50000⟩ false)) = runL := by
  unfold State.touchPlaces
  generalize 4096 = n
  induction n with
  | zero => rfl
  | succ n ih => exact ih
theorem test_meets_TileResults_restore (h : TileResults) : ∃ t, exec (.matrixOpRetire 4) runL = .next t :=
  (h.2.2.1 runL (runo rest1) 0 0 (List.replicate 4096 (.homed ⟨.phys, 0x50000⟩ false)) List.length_replicate (by intro p hp; rw [List.eq_of_mem_replicate hp]; decide +kernel) (by
    rw [touched]; refine steady_of (k := rest1) rfl rfl ⟨rfl, rfl⟩ rfl ?_
    intro l hl
    have e : l ∈ List.replicate 4096 (placeBytes (.homed ⟨.phys, 0x50000⟩ false) 4) := by
      rw [← List.map_replicate (f := fun p => placeBytes p 4)]; exact hl
    rw [List.eq_of_mem_replicate e]; decide +kernel)).imp fun _ x => x.1
theorem test_meets_TileResults_scale (h : TileResults) : ∃ t, exec (.matrixOpRetire 4) (run one8) = .next t :=
  (h.2.2.2 (run one8) (runo one8) 0 0 false _ _ List.length_replicate (steady_run (by decide +kernel))).imp fun _ x => x.1
/-- 64 rows of 32 bytes of local memory, each place once. -/
def rows32 : List (List Loc) := (List.range 64).map fun i => (List.range 32).map fun j => ⟨.sram, 32 * i + j⟩
def stt : MxKind := .mstt 0 7 ⟨rows32.map fun x => x.map Place.direct, []⟩
theorem rows32_once : rows32.flatten.Nodup := by
  rw [show rows32.flatten = (List.range 2048).map (fun k => (⟨.sram, k⟩ : Loc)) by decide +kernel]
  exact List.Pairwise.map _ (fun a b h e => h (Loc.mk.inj e).2) List.nodup_range
theorem test_meets_TileStores_row (h : TileStores) : ∃ t, exec (.matrixOpRetire 4) (run stt) = .next t :=
  (h.1 (run stt) (runo stt) 0 0 7 _ rows32 (by decide) rfl rfl (by decide +kernel) (by decide +kernel) rows32_once (steady_run (by decide +kernel))).imp fun _ x => x.1
def sav : MxKind := .msave 0 ((List.range 4096).map fun i => .homed ⟨.phys, 0x50000 + 4 * i⟩ false)
theorem test_meets_TileStores_save (h : TileStores) : ∃ t, exec (.matrixOpRetire 4) (run sav) = .next t :=
  (h.2 (run sav) (runo sav) 0 0 0x50000 (by decide) (by decide) rfl ⟨(fun _ m => nomatch m), .nil, (fun _ m => nomatch m)⟩ (steady_run (by decide +kernel))
    (fun i _ => rfl)).imp fun _ x => x.1
theorem test_meets_OperandReady (h : OperandReady) : ∃ t, exec .oprdy st = .next t := ⟨_, (h st).1 (by decide +kernel)⟩
theorem test_meets_OperandReady_waits (h : OperandReady) : ∃ t, exec .oprdy sfl = .next t := ⟨_, (h sfl).2 (by decide +kernel)⟩

/-! ## Tasks -/

/-- s1, s2, s3 as given; these tasks in the table; two task types. -/
def tk (a b c : DWord) (ts : List Task := []) (pfx : Option Pfx := none) : State :=
  { st (setF wv 0 fun f => { f with s := ((f.s.set 1 { val := a }).set 2 { val := b }).set 3 { val := c } }) ga { live := true }
      { la with block := { la.block with ttcount := 2, roles := [{ regs := 40, tiles := 16 }] } } with
    tasks := ts, cur := { start := 0x100, pc := 0x100, nxt := 0x104, pfx := pfx } }
theorem test_meets_TaskCreation_ill (h : TaskCreation) : ∃ t, exec (.tasknew x2) (tk 256 0 0) = .next t :=
  ⟨_, (h (tk 256 0 0) x2 (by decide +kernel) (by decide +kernel)).1 (.inr (.inl (by decide +kernel)))⟩
theorem test_meets_TaskCreation_role (h : TaskCreation) : ∃ t, exec (.tasknew x2) (tk 1 0 0 [] (some (.role 1))) = .next t :=
  ⟨_, ((h (tk 1 0 0 [] (some (.role 1))) x2 (by decide +kernel) (by decide +kernel)).2 rfl (by decide +kernel) (by decide +kernel) (by decide +kernel)).1 (by decide +kernel)⟩
theorem test_meets_TaskCreation_type (h : TaskCreation) : ∃ t, exec (.tasknew x2) (tk 2 0 0) = .next t :=
  ⟨_, ((h (tk 2 0 0) x2 (by decide +kernel) (by decide +kernel)).2 rfl (by decide +kernel) (by decide +kernel) (by decide +kernel)).2.1 (by decide +kernel) (by decide +kernel)⟩
def wt (i d : Nat) (st : TaskSt) : Task := { idx := i, st := st, dep := d }
theorem test_meets_TaskCreation (h : TaskCreation) : ∃ t, exec (.tasknew x2) (tk 1 65535 0xFFFFFFFFFFFF [wt 0 1 .waiting]) = .next t :=
  let ⟨_, x, _⟩ := ((h (tk 1 65535 0xFFFFFFFFFFFF [wt 0 1 .waiting]) x2 (by decide +kernel) (by decide +kernel)).2 rfl (by decide +kernel) (by decide +kernel) (by decide +kernel)).2.2 (by decide +kernel) (by decide +kernel)
    (by decide +kernel) (by decide) (by unfold oneRecord; decide +kernel) |>.2 1 ⟨by decide, by decide +kernel, by decide +kernel⟩ rfl (by decide +kernel)
  ⟨_, x⟩
/-- Handles of records 0 and 1 of die 0. -/
def h0 : DWord := 0x80000000
def h1 : DWord := 0x80000001
/-- The successor's record is on die 1, behind a closed bridge. -/
theorem test_meets_TaskDependences_closed (h : TaskDependences) : ∃ t, exec (.taskdep x2) (tk h0 0x90000000 0) = .next t :=
  ⟨_, (h (tk h0 0x90000000 0) x2 (by decide +kernel) (by decide +kernel) (by decide +kernel) (by decide)).1 (by unfold bridged; decide +kernel)⟩
theorem test_meets_TaskDependences_dead (h : TaskDependences) : ∃ t, exec (.taskdep x2) (tk h0 5 0) = .next t :=
  ⟨_, ((h (tk h0 5 0) x2 (by decide +kernel) (by decide +kernel) (by decide +kernel) (by decide)).2 (by unfold bridged; decide +kernel)).1 (by decide +kernel)⟩
theorem test_meets_TaskDependences_ready (h : TaskDependences) : ∃ t, exec (.taskdep x2) (tk h0 h1 0 [wt 1 0 .ready]) = .next t :=
  ⟨_, ((h (tk h0 h1 0 [wt 1 0 .ready]) x2 (by decide +kernel) (by decide +kernel) (by decide +kernel) (by decide)).2 (by unfold bridged; decide +kernel)).2.1 (wt 1 0 .ready) (by decide +kernel) (.inl (by decide))⟩
theorem test_meets_TaskDependences_full (h : TaskDependences) : ∃ t, exec (.taskdep x2) (tk h0 h1 0 [wt 1 1 .waiting, { wt 0 0 .running with succ := List.replicate 6 9 }]) = .next t :=
  ⟨_, (((h (tk h0 h1 0 [wt 1 1 .waiting, { wt 0 0 .running with succ := List.replicate 6 9 }]) x2 (by decide +kernel) (by decide +kernel) (by decide +kernel) (by decide)).2 (by unfold bridged; decide +kernel)).2.2 (wt 1 1 .waiting) (by decide +kernel) rfl (by decide) (by decide +kernel)).1
    { wt 0 0 .running with succ := List.replicate 6 9 } (by decide +kernel) (by decide)⟩
theorem test_meets_TaskDependences_links (h : TaskDependences) : ∃ t, exec (.taskdep x2) (tk h0 h1 0 [wt 1 1 .waiting, wt 0 0 .running]) = .next t :=
  let ⟨_, x⟩ := (((h (tk h0 h1 0 [wt 1 1 .waiting, wt 0 0 .running]) x2 (by decide +kernel) (by decide +kernel) (by decide +kernel) (by decide)).2 (by unfold bridged; decide +kernel)).2.2 (wt 1 1 .waiting) (by decide +kernel) rfl (by decide) (by decide +kernel)).2.1
    (wt 0 0 .running) (by decide +kernel) (by decide)
  ⟨_, x.1⟩
theorem test_meets_TaskDependences_done (h : TaskDependences) : ∃ t, exec (.taskdep x2) (tk h0 h1 0 [wt 1 1 .waiting]) = .next t :=
  let ⟨_, x⟩ := (((h (tk h0 h1 0 [wt 1 1 .waiting]) x2 (by decide +kernel) (by decide +kernel) (by decide +kernel) (by decide)).2 (by unfold bridged; decide +kernel)).2.2 (wt 1 1 .waiting) (by decide +kernel) rfl (by decide) (by decide +kernel)).2.2 (by decide +kernel)
  ⟨_, x.1⟩
def rdy : State := tk 0 0 0 [wt 0 0 .ready, { wt 1 0 .ready with since := 1 }]
theorem test_meets_TaskHandOut (h : TaskHandOut) : ∃ t, exec (.taskget 10) rdy = .next t :=
  let ⟨_, x⟩ := (h rdy 10 (by decide +kernel)).1 (wt 0 0 .ready) (by unfold handedOut fitsUnit; decide +kernel) (by decide +kernel) (by decide) (by decide) (by decide)
  ⟨_, x.2.1⟩
theorem test_meets_TaskHandOut_drained (h : TaskHandOut) : ∃ t, exec (.taskget 10) (tk 0 0 0) = .next t :=
  ⟨_, (h (tk 0 0 0) 10 (by decide +kernel)).2.1 (by unfold fitsUnit; decide +kernel) (by unfold isDrained; decide +kernel) (by decide)⟩
theorem test_meets_TaskHandOut_parks (h : TaskHandOut) : ∃ t, exec (.taskget 10) (tk 0 0 0 [wt 0 1 .waiting]) = .next t :=
  (((h (tk 0 0 0 [wt 0 1 .waiting]) 10 (by decide +kernel)).2.2.2 (by unfold fitsUnit; decide +kernel) (by unfold isDrained; decide +kernel) (by decide)).2 (by decide +kernel) ⟨by decide +kernel, by decide +kernel, rfl, rfl⟩ rfl).imp fun _ x => x.1
def tkr : State := { tk 0 0 0 with waves := [mode wv .recompute] }
theorem test_meets_TaskHandOut_recompute (h : TaskHandOut) : ∃ t, exec (.taskget 10) tkr = .next t :=
  ⟨_, (h tkr 10 (by decide +kernel)).2.2.1 rfl⟩
theorem test_meets_TaskCompletion (h : TaskCompletion) : ∃ t, exec (.taskdone 1 10) (tk h0 0 0 [{ wt 0 0 .running with holder := some 0, succ := [1] }, wt 1 1 .waiting]) = .next t :=
  let ⟨_, x⟩ := (h (tk h0 0 0 [{ wt 0 0 .running with holder := some 0, succ := [1] }, wt 1 1 .waiting]) 1 10 (by decide +kernel) (by decide +kernel) (by decide +kernel) (by decide)).1
    { wt 0 0 .running with holder := some 0, succ := [1] } (by decide +kernel) rfl rfl (by decide) (by decide)
  ⟨_, x.1⟩
theorem test_meets_TaskCompletion_other (h : TaskCompletion) : ∃ t, exec (.taskdone 1 10) (tk h1 0 0) = .next t :=
  ⟨_, (h (tk h1 0 0) 1 10 (by decide +kernel) (by decide +kernel) (by decide +kernel) (by decide)).2 (by intro t e; cases (show liveRec (tk h1 0 0) (sv (tk h1 0 0) 1) = none by decide +kernel).symm.trans e)⟩
/-- s1 names a launch block, s2 a stream. -/
def ln (a b : DWord) : State := ms (setF wv 0 fun f => { f with s := (f.s.set 1 { val := a }).set 2 { val := b } })
theorem test_meets_LaunchAppends_ill (h : LaunchAppends) : ∃ t, exec (.lnch x2) (ln 0 16) = .next t := ⟨_, (h (ln 0 16) x2 (by decide +kernel) (by decide +kernel)).1 (by decide +kernel)⟩
theorem test_meets_LaunchAppends_align (h : LaunchAppends) : ∃ t, exec (.lnch x2) (ln 4 15) = .next t :=
  ⟨_, (h (ln 4 15) x2 (by decide +kernel) (by decide +kernel)).2.1 (by decide +kernel) (by decide +kernel)⟩
def blkPlaces (n : Nat) : List Place := (List.range n).map fun i => .homed ⟨.phys, 0x51000 + 4 * (128 - n + i)⟩ false
theorem test_meets_LaunchAppends_role (h : LaunchAppends) : ∃ t, exec (.lnch x2) (pfxd (ln 0x1000 15) (.role 1)) = .next t :=
  ⟨_, ((h (pfxd (ln 0x1000 15) (.role 1)) x2 (by decide +kernel) (by decide +kernel)).2.2.2.2 (blkPlaces 127) ⟨.phys, 0x51000⟩ false (by decide +kernel) (by decide +kernel) rfl (by decide +kernel) (by decide +kernel) (by decide +kernel)).1 1 rfl (by decide +kernel)⟩
def lnw : State := { ln 0x1000 15 with vds := [{ md with dmt := true, watches := [(0x1004, 8)] }] }
theorem test_meets_LaunchAppends_watch (h : LaunchAppends) : ∃ t, exec (.lnch x2) lnw = .next t :=
  ⟨_, (h lnw x2 (by decide +kernel) (by decide +kernel)).2.2.2.1 (blkPlaces 128) 0x1004 (by decide +kernel) (by decide +kernel) rfl (by decide +kernel) (by decide +kernel)⟩
theorem test_meets_LaunchAppends (h : LaunchAppends) : ∃ t, exec (.lnch x2) (ln 0x1000 15) = .next t :=
  let ⟨_, x⟩ := ((h (ln 0x1000 15) x2 (by decide +kernel) (by decide +kernel)).2.2.2.2 (blkPlaces 127) ⟨.phys, 0x51000⟩ false (by decide +kernel) (by decide +kernel) rfl (by decide +kernel) (by decide +kernel) (by decide +kernel)).2 (by intro r e; cases e) (by decide) (by decide +kernel) |>.2 (by decide +kernel)
  ⟨_, x.1⟩

/-! ## Launches and gangs -/

/-- The stream 0 of the device; entries of it. -/
def lt (q : Stream) (l : Launch := la) : State := { ms with
  vds := [{ md with streams := q :: List.replicate 15 {} }], launches := [l] }
def qd : Stream := { en := true, order := [true, false], devq := [⟨0x1000, 7, some 0⟩] }
def qh : Stream := { en := true, wridx := 1, order := [false, true], devq := [⟨0x1000, 7, none⟩] }
theorem lt_canon (q : Stream) (l : Launch) : (lt q l).canon := (show (ms).canon by unfold State.canon; decide +kernel)
theorem test_meets_LaunchTaken_device (h : LaunchTaken) : ∃ t, exec (.launchTake 0 0 true) (lt qd) = .next t :=
  (h.1 (lt qd) 0 0 ⟨0x1000, 7, some 0⟩ [] [false] (by unfold runs; decide +kernel) rfl rfl (by decide) rfl rfl rfl (by unfold eqRoom; decide +kernel) (lt_canon _ _) (by
    intro p e; cases e; exact .inr rfl) (by decide +kernel)).imp fun _ x => x.1
theorem test_meets_LaunchTaken_host (h : LaunchTaken) : ∃ t, exec (.launchTake 0 0 false) (lt qh) = .next t :=
  (h.2 (lt qh) 0 0 [true] (by unfold runs; decide +kernel) rfl rfl (by decide) rfl rfl (by unfold eqRoom; decide +kernel) (lt_canon _ _) (by
    intro p e; cases e; exact .inr ⟨rfl, by decide +kernel⟩) (by decide +kernel)).imp fun _ x => x.1
def want2 : List Want := [⟨16, 9, none⟩, ⟨3, 0, none⟩]
theorem test_meets_FirstFit (h : FirstFit) : st.fitGang [3, 0] want2 5 = none ↔
    ∀ die ∈ [3, 0], ∀ cl, cl < 20 → ∀ c ∈ coresFor 2, ¬gangRoom st die cl c want2 5 :=
  (h st [3, 0] want2 5 (by decide) (by decide) (by decide)).1
/-- A launch of one role of one workgroup of two waves and one scratchpad bank; its first gang is not placed. -/
def b1 : Block := { ngangs := 2, roles := [{ entry := 0x200, regs := 40, waves := 2, wgs := 1, tiles := 1 }], scratch := 1, fifos := 1, seeds := [0x10000] }
def pl : State := { ms with launches := [la, { block := b1 }], slices := [(0, 0, 0)], gangs := [] }
theorem test_meets_GangPlaced (h : GangPlaced) : ∃ t, exec (.gangPlace 0) pl = .next t :=
  (h pl 0 0 1 ((pl.fitGang [0, 1, 2, 3, 4, 5, 6, 7] b1.wants 2).get (by decide +kernel)) (by decide +kernel) (by decide +kernel) (by unfold runs; decide +kernel)
    (by decide +kernel) (by decide +kernel) (by decide +kernel) (by decide) rfl (by decide +kernel) (Option.some_get _).symm).imp fun _ x => x.1
def sv1 (t : Nat) : State := { pl with time := t }
theorem test_meets_Starvation (h : Starvation) : ∃ t, exec (.placementStarvation 1) (sv1 1000000) = .next t :=
  ⟨_, h.1 (sv1 1000000) 1 (by decide) rfl (by decide) rfl (by decide)⟩
theorem test_meets_Starvation_early (h : Starvation) : ∃ t, exec (.placementStarvation 1) (sv1 999999) = .next t :=
  ⟨_, h.2.1 (sv1 999999) 1 (by decide)⟩
def sv2 : State := { pl with launches := [{ block := b1 }, { block := b1, starved := true }] }
theorem sv2_stops : stops sv2 0 1 := ⟨by decide, rfl, by decide, rfl, by unfold runs; decide +kernel, rfl⟩
theorem test_meets_Starvation_stops (h : Starvation) : sv2.stopped 0 0 = true :=
  h.2.2.1 sv2 0 0 1 sv2_stops (by decide) (by decide) (.inl rfl)
theorem test_meets_Starvation_resumes (h : Starvation) : exec (.gangResume 0) sv2 = .next sv2 := h.2.2.2 sv2 0 1 sv2_stops (by decide)
theorem test_meets_Steals_base (h : Steals) : ∃ t, exec (.btbaseSet 7 0 0x1000 0) st = .next t :=
  (h.1 st 7 0 0 0x1000 (by decide) rfl).imp fun _ x => x.1
/-- A device beyond the list of a state. -/
theorem vd_beyond {s : State} {d : Nat} (n : s.vds.length ≤ d) : s.vd d = {} := by
  unfold State.vd; rw [List.getD_eq_getElem?_getD, List.getElem?_eq_none n]; rfl
theorem only_launch {s : State} (n : s.vds.length = 1) (z : (s.vd 0).btlaunch = none ∨ ∃ l, (s.vd 0).btlaunch = some l ∧ (s.btIdle 0 l 0 = false ∨ s.stealable 0 0 = [])) :
    ∀ d l, (s.vd d).btlaunch = some l → s.btIdle d l 0 = false ∨ s.stealable d 0 = [] := by
  intro d l e
  match d with
  | 0 => obtain y | ⟨m, y, z⟩ := z
         · cases y.symm.trans e
         · cases y.symm.trans e; exact z
  | d + 1 => cases (congrArg Vd.btlaunch (vd_beyond (show s.vds.length ≤ d + 1 by omega))).symm.trans e
theorem test_meets_Steals_none (h : Steals) : ∃ t, exec (.steal 0) st = .next t := ⟨_, h.2.1 st 0 (fun _ m => nomatch m) (only_launch rfl (.inl rfl))⟩
/-- Dies 0 and 1 with slot tables at VA 0 and 2^64 - 32, and the first word of die 1's slot 0. -/
def bt (x : Nat) : State := { ms with
  time := 20001, partitions := [[0, 1]], vds := [{ md with btbase := [(0, 0), (1, 0xFFFFFFFFFFFFFFE0)], btlaunch := some 0, btempty := [(0, 0)]
                                                           rinks := [(0, { pages := [(0, 0, 0x80000)] })], pool := [0x90000] }]
  tlb := [⟨.core (2 ^ 40), 0, 0, 0, false, 0, 0x5001F⟩, ⟨.core (2 ^ 40), 0, 0, 0xFFFFFFFFFFFF, false, 0, 0x6001F⟩], mem := [⟨0x6FFE0, BitVec.ofNat 8 x⟩] }
/-- The slots of the state above, all but one of which cannot be read. -/
theorem bt_steals : (bt 5).stealable 0 0 = [(0, 1, 0)] := by decide +kernel
theorem bt_other : ∀ e, e ≠ 0 → ((bt 5).vd e).btlaunch = none := by intro e n; rw [vd_beyond (show 1 ≤ e by omega)]
theorem test_meets_Steals (h : Steals) : ∃ t, exec (.steal 0) (bt 5) = .next t :=
  ⟨_, h.2.2.1 (bt 5) 0 0 0 0 (0, 1, 0) [] (by decide) bt_other rfl rfl (by decide +kernel) rfl (fun _ m => nomatch m) bt_steals (by unfold freeSlot; decide +kernel)⟩
/-- The engine of die 0 has set out; `l`: another core's lease on the record. -/
def btc (x : Nat) (l : List Home := []) : State := { bt x with steals := [⟨0, 0, 1, 0, 0, false, [], 5⟩], homes := l }
theorem test_meets_Steals_leased (h : Steals) : ∃ t, exec (.steal 0) (btc 5 [{ line := ⟨.phys, 0x6FF80⟩, latest := 900000 }]) = .next t :=
  ⟨_, (h.2.2.2.1 (btc 5 [{ line := ⟨.phys, 0x6FF80⟩, latest := 900000 }]) ⟨0, 0, 1, 0, 0, false, [], 5⟩ 5 0 rfl rfl (by decide +kernel) (by unfold freeSlot; decide +kernel)).1 (by decide +kernel)⟩
theorem test_meets_Steals_taken (h : Steals) : ∃ t, exec (.steal 0) (btc 2) = .next t :=
  ⟨_, ((h.2.2.2.1 (btc 2) ⟨0, 0, 1, 0, 0, false, [], 5⟩ 2 0 rfl rfl (by decide +kernel) (by unfold freeSlot; decide +kernel)).2 (by decide +kernel)).1 (.inl (by decide))⟩
theorem test_meets_Steals_claims (h : Steals) : ∃ t, exec (.steal 0) (btc 5) = .next t :=
  let ⟨t, _, x⟩ := ((h.2.2.2.1 (btc 5) ⟨0, 0, 1, 0, 0, false, [], 5⟩ 5 0 rfl rfl (by decide +kernel) (by unfold freeSlot; decide +kernel)).2 (by decide +kernel)).2 (by decide) (by decide) (by decide) (by decide)
  ⟨t, x.1⟩
def stl : Steal := ⟨0, 0, 1, 0, 0, true, [(0, 0, 0x80000, 0x90000)], 7⟩
def btf (x : Nat) : State := { bt x with steals := [stl], vds := [{ (bt x).vd 0 with pool := [] }] }
theorem test_meets_Steals_changed (h : Steals) : ∃ t, exec (.stealFinish 0) (btf 5) = .next t :=
  ((h.2.2.2.2 (btf 5) stl 5 0 0 { pages := [(0, 0, 0x80000)] } rfl (by decide +kernel) (by decide +kernel) rfl (by decide +kernel) (by decide +kernel) (by decide +kernel) (by decide) rfl).1 (by decide)).imp fun _ x => x.1
theorem test_meets_Steals_done (h : Steals) : ∃ t, exec (.stealFinish 0) (btf 7) = .next t :=
  let ⟨t, _, x⟩ := (h.2.2.2.2 (btf 7) stl 7 0 0 { pages := [(0, 0, 0x80000)] } rfl (by decide +kernel) (by decide +kernel) rfl (by decide +kernel) (by decide +kernel) (by decide +kernel) (by decide) rfl).2 (by decide) (by decide +kernel)
    (by decide) (by decide) (by decide)
  ⟨t, x.1⟩

/-! ## Saved state -/

theorem st_canon (w : Wave) (g : Gang) (d : Vd) (l : Launch) : (st w g d l).canon := (show st.canon by unfold State.canon; decide)
theorem test_meets_GangKilled (h : GangKilled) : (st.wave 0).gang = 0 → ((st.killGang 0 7 0x40 0x100).wave 0).mode = .ended :=
  fun _ => (h st 0 7 0x40 0x100 (by decide) (by decide) (by decide) (by decide) (by unfold eqRoom; decide +kernel) (st_canon _ _ _ _)).1 0 (by decide) (by decide)
/-- Two devices of one partition; device 0 holds its slice since 0, device 1 wants one. -/
def sl2 (t : Nat) : State := { st wv ga { live := true, slice := 100 } with
  time := t, vds := [{ live := true, slice := 100, short := 40 }, { live := true, lodge := 3 }], slices := [(0, 0, 0)] }
theorem test_meets_SliceEnds (h : SliceEnds) : ∃ t, exec (.sliceEnd 0) (sl2 60) = .next t :=
  by refine (h.1 (sl2 60) 0 0 1 rfl (by decide) ?_ (by decide) (by decide) ?_ (by decide) (by decide) rfl rfl ?_).imp fun _ x => x.1 <;> decide +kernel
theorem test_meets_SliceEnds_alone (h : SliceEnds) : ∃ t, exec (.sliceEnd 1) (sl2 60) = .next t :=
  ⟨_, h.2 (sl2 60) 1 (.inl (by decide +kernel))⟩
/-- A gang asked to stop at time 0; its wave has rewound; a pin, a tile, a bank and a barrier. -/
def pg : Gang := { ga with preempt := some 0, wgs := [{ waves := [0], tiles := 2, pins := 0x10 :: List.replicate 7 0, bars := [{ count := 1 }, {}, {}] }]
                           banks := [{ entries := [vr id] }] }
def pw : Wave := { wv with mode := .stopped true, snap := { tiles := 3, sregs := [(1, { val := 9 })], regs := [(2, vr id)], next := 0x300 } }
def ci (cap : Nat) (w : Wave := pw) (g : Gang := pg) : State := st w g { live := true, ovfCap := cap }
theorem ci_waved (n : Nat) (w : Wave) (m : Option Nat) : waved (ci n w { pg with halted := m }) 0 := ⟨Nat.zero_lt_one, List.Pairwise.cons (fun _ h => nomatch h) .nil, fun _ m => List.mem_singleton.mp m ▸ Nat.zero_lt_one⟩
theorem test_meets_ContextImages (h : ContextImages) : ∃ t, exec (.contextImageWrite 0) (ci 1) = .next t :=
  (h.1 (ci 1) 0 0 (ci_waved _ _ _) rfl rfl rfl (by intro w m; cases List.mem_singleton.mp m; exact .inr (.inl ⟨_, rfl⟩)) ⟨by decide +kernel, by intro o m; cases m⟩ (by decide) (by decide +kernel)).imp fun _ x => x.1
/-- Its wave has stopped at an RWP and waits for a frontier. -/
def sw : Wave := { pw with mode := .stopped false }
def acq1 : Op := { id := 4, kind := .rkacq 0 5 0 0 (.scl .wave 6 1) }
def cia : State := { ci 1 sw with flight := [acq1] }
theorem test_meets_ContextImages_withdraws (h : ContextImages) : ∃ t, exec (.contextImageWrite 0) cia = .next t :=
  (h.2.1 cia 0 0 0 0 5 0 0 acq1 (.scl .wave 6 1) (ci_waved 1 sw none) rfl rfl rfl (by intro w m; cases List.mem_singleton.mp m; exact .inr (.inl ⟨_, rfl⟩)) rfl rfl rfl
    rfl (List.mem_singleton.mpr rfl) rfl rfl (by intro p e; cases e) (by decide +kernel)).imp fun _ x => x.1
theorem test_meets_ContextImages_full (h : ContextImages) : ∃ t, exec (.contextImageWrite 0) (ci 0) = .next t :=
  (h.2.2.1 (ci 0) 0 0 (ci_waved _ _ _) rfl rfl rfl (by intro w m; cases List.mem_singleton.mp m; exact .inr (.inl ⟨_, rfl⟩)) ⟨by decide +kernel, by intro o m; cases m⟩
    (by unfold pfRoom; decide +kernel) (st_canon _ _ _ _) (by decide +kernel)).imp fun _ x => x.1
theorem test_meets_ContextImages_runs (h : ContextImages) : ∃ t, exec (.contextImageWrite 0) (ci 0 wv) = .next t :=
  ⟨_, h.2.2.2 (ci 0 wv) 0 (.inr ⟨0, by decide, trivial, rfl⟩)⟩
/-- Its image is written; a pin of it is in the overflow store. -/
def im : State := { st { pw with deps := [(2, 2, (List.range 32).map fun i => BitVec.ofNat 32 (100 + i))] }
  { pg with preempt := none, st := .imaged, wgs := [{ waves := [0], tiles := 2, bars := [{ count := 1 }, {}, {}] }], saved := [⟨0, 0, 1, List.replicate 16384 3⟩] }
    { live := true, ovf := [⟨0x10, 0, 0, 3⟩], ovfCap := 1 } with partitions := [[3]], slices := [(0, 0, 0)] }
theorem test_meets_GangResumes (h : GangResumes) : ∃ t, exec (.gangResume 0) im = .next t :=
  (h im 0 ((im.fitGang [3] [⟨1, 2, some (0, 0)⟩] 1).get (by decide +kernel)) ⟨by decide, by decide, by decide⟩ rfl rfl (by unfold runs; decide +kernel) (by decide +kernel)
    (by intro j x; cases Nat.lt_one_iff.mp x.1; cases x.2.2.2.1) (by decide) (by decide) (by decide) (Option.some_get _).symm).imp fun _ x => x.1
theorem test_meets_Replays_none (h : Replays) : ∃ t, exec (.replay 0) st = .next t := ⟨_, h.1 st 0 (by decide)⟩
def threes : List Byte := List.replicate 16384 3
theorem threes_length : threes.length = 16384 := List.length_replicate
def cp3 : Ckpt := { waves := [wv], tiles := [⟨0, 1, 2, threes⟩] }
/-- Stopped by an ENGINE fault, with a checkpoint, whose tile holds threes, a deposit, and n replays. -/
def eg (n : Nat) (c : Bool := false) : State := st { wv with gen := 4 } { ga with
  st := .engine, replays := n, committed := c, ckpt := cp3, ckDeps := [(0, 2, 2, (List.range 32).map fun i => BitVec.ofNat 32 (100 + i))] }
/-- An MLDT reads the gang's bank. -/
def egb : State := { eg 0 with flight := [{ id := 4, gang := 1, kind := .mx (.mldt 0 0 ⟨[[.direct ⟨.sram, 0⟩]], []⟩) 0 true [] }] }
theorem test_meets_Replays_waits (h : Replays) : ∃ t, exec (.replay 0) egb = .next t := ⟨_, h.2.1 egb 0 rfl (by decide +kernel)⟩
theorem test_meets_Replays_kills (h : Replays) : ∃ t, exec (.replay 0) (eg 7) = .next t := (h.2.2.2.1 (eg 7) 0 rfl (by decide +kernel) rfl (by decide)).elim fun _ x => ⟨_, x.1⟩
theorem test_meets_Replays_committed (h : Replays) : ∃ t, exec (.replay 0) (eg 0 true) = .next t := ⟨_, h.2.2.1 (eg 0 true) 0 rfl (by decide +kernel) rfl⟩
theorem test_meets_Replays (h : Replays) : ∃ t, exec (.replay 0) (eg 6) = .next t :=
  (h.2.2.2.2 (eg 6) 0 ⟨by decide, by decide, by decide⟩ rfl (by decide +kernel) rfl (by decide) (by decide)).imp fun _ x => x.1
theorem test_meets_Replays_resumption (h : Replays) : ∃ t, exec (.replay 0) (eg 6) = .next t :=
  (h.2.2.2.2 (eg 6) 0 ⟨by decide, by decide, by decide⟩ rfl (by decide +kernel) rfl (by decide) (by decide)).imp fun _ x =>
    have _ := (x.2.2.2.2.2.2.1 rfl).2 (by decide) (by decide) {} (by decide) (by decide) (by decide) (2 ^ 17 - 1) (by decide)
    x.1
theorem test_meets_Replays_tiles (h : Replays) : ∃ t, exec (.replay 0) (eg 6) = .next t :=
  (h.2.2.2.2 (eg 6) 0 ⟨by decide, by decide, by decide⟩ rfl (by decide +kernel) rfl (by decide) (by decide)).imp fun _ x =>
    have _ := x.2.2.2.2.2.2.2 (st_canon _ _ _ _) (by intro u m; cases List.mem_singleton.mp m; exact threes_length) ⟨0, 1, 2, threes⟩ (List.mem_singleton.mpr rfl)
      (by intro v m _; exact List.mem_singleton.mp m)
    x.1
/-- Asked to stop at time 0, and still running. -/
def lat (t : Nat) (w : Wave := wv) : State := { ci 0 w with time := t }
theorem lat_runs (t : Nat) : ∃ w ∈ ((lat t).gang 0).waves, forward (lat t) w := ⟨0, List.mem_singleton.mpr rfl, trivial⟩
theorem lat_canon : (lat 100000).canon := (show st.canon by unfold State.canon; decide)
theorem lat_unheld (t : Nat) (w : Wave) (n : w.dmtStop ≠ some 0) : unheld (lat t w) 0 := by intro x m; cases List.mem_singleton.mp m; exact n
theorem test_meets_Watchdogs_warn (h : Watchdogs) : ∃ t, exec (.overrunWatchdog 0) (lat 100000) = .next t :=
  ((h.1 (lat 100000) 0 0 ⟨by decide, by decide, by decide⟩ rfl rfl rfl (lat_runs _) (lat_unheld _ _ (by decide))).1 (by decide) rfl (by unfold pfRoom; decide) lat_canon).imp fun _ x => x.1
theorem test_meets_Watchdogs_early (h : Watchdogs) : ∃ t, exec (.overrunWatchdog 0) (lat 99999) = .next t :=
  ⟨_, (h.1 (lat 99999) 0 0 ⟨by decide, by decide, by decide⟩ rfl rfl rfl (lat_runs _) (lat_unheld _ _ (by decide))).2.1 (by decide)⟩
theorem test_meets_Watchdogs_kill (h : Watchdogs) : ∃ t, exec (.overrunKill 0) (lat 2000000) = .next t :=
  ((h.1 (lat 2000000) 0 0 ⟨by decide, by decide, by decide⟩ rfl rfl rfl (lat_runs _) (lat_unheld _ _ (by decide))).2.2.1 (by decide)).elim fun _ x => ⟨_, x.1⟩
theorem test_meets_Watchdogs_spare (h : Watchdogs) : ∃ t, exec (.overrunKill 0) (lat 1999999) = .next t :=
  ⟨_, (h.1 (lat 1999999) 0 0 ⟨by decide, by decide, by decide⟩ rfl rfl rfl (lat_runs _) (lat_unheld _ _ (by decide))).2.2.2 (by decide)⟩
def susp : Wave := mode wv (.suspended 0 0)
theorem test_meets_Watchdogs_suspension (h : Watchdogs) : ∃ t, exec (.suspensionWatchdog 0) (lat 10000000 susp) = .next t :=
  ((h.2.1 (lat 10000000 susp) 0 0 0 rfl (lat_unheld _ _ (by decide)) (by decide)).1 (by decide)).elim fun _ x => ⟨_, x.1⟩
theorem test_meets_Watchdogs_waits (h : Watchdogs) : ∃ t, exec (.suspensionWatchdog 0) (lat 9999999 susp) = .next t :=
  ⟨_, (h.2.1 (lat 9999999 susp) 0 0 0 rfl (lat_unheld _ _ (by decide)) (by decide)).2 (by decide)⟩
theorem test_meets_Watchdogs_replays (h : Watchdogs) : ∃ t, exec (.replayWatchdog 0) (eg 8) = .next t :=
  ((h.2.2 (eg 8) 0 (.inl rfl)).1 (by decide)).elim fun _ x => ⟨_, x.1⟩
theorem test_meets_Watchdogs_fewer (h : Watchdogs) : ∃ t, exec (.replayWatchdog 0) (eg 7) = .next t := ⟨_, (h.2.2 (eg 7) 0 (.inl rfl)).2 (by decide)⟩
theorem test_meets_SupervisorAnswers_resume (h : SupervisorAnswers) : ∃ t, exec (.supervisorResume 0 []) (st susp) = .next t :=
  (h.1 (st susp) 0 0 0 (by decide) rfl (by decide) (by decide)).imp fun _ x => x.1
theorem test_meets_SupervisorAnswers_edits (h : SupervisorAnswers) : ∃ t, exec (.supervisorResume 0 [.epc 0 0x40]) (st susp) = .next t :=
  (h.2.1 (st susp) 0 0 0 [.epc 0 0x40] (by decide) rfl (by decide) (by decide)).imp fun _ x => x.1
theorem test_meets_SupervisorAnswers_buffer (h : SupervisorAnswers) : ∃ t, exec (.supervisorResume 0 [.snap (.vec 55 31 7)]) (st susp) = .next t ∧
    ∃ x ∈ (t.wave 0).snap.regs, x.1 = 55 ∧ x.2.lane 31 = 7 :=
  (h.2.1 (st susp) 0 0 0 [.snap (.vec 55 31 7)] (by decide) rfl (by decide) (by decide)).imp fun _ x => ⟨x.1, x.2.2.2.2.2.2.2.2.1 55 31 7 rfl (by decide) (by decide)⟩
/-- R356: RESUME goes on where the supervisor's write of EPC says. -/
theorem test_supervisor_writes_epc : (((susp.edit (.epc 0 0x41)).resume 0).frags.getD 0 {}).pc = 0x40 := by decide
theorem test_meets_SupervisorAnswers_none (h : SupervisorAnswers) : ∃ t, exec (.supervisorResume 0 []) st = .next t :=
  ⟨_, h.2.2.1 st 0 [] (by intro f n e; cases e)⟩
theorem test_meets_SupervisorAnswers_engine (h : SupervisorAnswers) : ∃ t, exec (.supervisorKill ⟨0, none⟩) (eg 0) = .next t := ⟨_, h.2.2.2.1 (eg 0) 0 rfl⟩
theorem test_meets_SupervisorAnswers_kill (h : SupervisorAnswers) : ∃ t, exec (.supervisorKill ⟨0, some 0⟩) (st susp) = .next t :=
  ⟨_, h.2.2.2.2.1 (st susp) 0 0 0 0 (by decide) rfl (by decide) rfl⟩
def hlt : State := st wv { ga with halted := some 0 }
theorem test_meets_SupervisorAnswers_halt (h : SupervisorAnswers) : ∃ t, exec (.continueHalt 0) hlt = .next t :=
  ⟨_, (h.2.2.2.2.2.1 hlt 0 0 rfl rfl).2⟩
theorem test_meets_SupervisorAnswers_running (h : SupervisorAnswers) : ∃ t, exec (.continueHalt 0) st = .next t := ⟨_, h.2.2.2.2.2.2 st 0 rfl⟩

/-! ## The command region -/

/-- A package with a module and this device. -/
def rg (d : Vd := { live := true }) : State := { modules := 4, vds := [d] }
theorem rg_canon (d : Vd) : (rg d).canon := (show rg.canon by unfold State.canon; decide)
/-- LODGED, FLAGS 5, a full queue with one entry that waits. -/
def v1 : Vd := { live := true, lodge := 2, flags := 5, eqwr := 1030, eqrd := 6, eqHeld := [[4]] }
theorem rg_takes (d : Vd) (l : d.live = true) (r : d.resetting = none) : takesWrites (rg d) 0 :=
  ⟨by show 4 ≠ 0; decide, rfl, Nat.zero_lt_one, l, r⟩
theorem test_meets_HostWrites_flags (h : HostWrites) : ∃ t, exec (.flagsSet 0 2) (rg v1) = .next t :=
  (h.1 (rg v1) 0 2 (rg_takes _ rfl rfl)).imp fun _ x => x.1
theorem test_meets_HostWrites_now (h : HostWrites) : ∃ t, exec (.lodgeNow 0) (rg v1) = .next t :=
  (h.2.1 (rg v1) 0 (rg_takes _ rfl rfl)).imp fun _ x => x.1
theorem test_meets_HostWrites_index (h : HostWrites) : ∃ t, exec (.wridxWrite 0 15 30) (rg v1) = .next t :=
  (h.2.2.1 (rg v1) 0 15 30 (rg_takes _ rfl rfl) (by decide)).imp fun _ x => x.1
theorem test_meets_HostWrites_bad_index (h : HostWrites) : ∃ t, exec (.wridxWrite 0 15 31) (rg v1) = .next t :=
  (h.2.2.1 (rg v1) 0 15 31 (rg_takes _ rfl rfl) (by decide)).imp fun _ x => x.1
theorem test_meets_HostWrites_read (h : HostWrites) : ∃ t, exec (.eqRdWrite (some 0) 1030) (rg v1) = .next t :=
  (h.2.2.2.1 (rg v1) 0 1030 (rg_takes _ rfl rfl) (by decide) (by decide)).imp fun _ x => x.1
theorem test_meets_HostWrites_supervisor (h : HostWrites) : ∃ t, exec (.eqRdWrite none 7) rg = .next t :=
  (h.2.2.2.2.1 rg 7 (by decide) rfl (by decide) (by decide)).imp fun _ x => x.1
theorem test_meets_HostWrites_dropped (h : HostWrites) : ∃ t, exec (.flagsSet 0 2) st = .next t :=
  ⟨_, (h.2.2.2.2.2 st 0 0 0 2 (.inl rfl)).1⟩
theorem test_meets_RegisterWrites (h : RegisterWrites) : ∃ t, exec (.registerWrite 0 0x8018 0x0003000F 0xFF) rg = .next t :=
  (h.1 rg 0 0x8018 0x0003000F 0xFF (rg_takes _ rfl rfl) (by decide) (by unfold inWidth; decide +kernel) (rg_canon _) (by decide)).imp fun _ x => x.1
theorem test_meets_RegisterWrites_stream (h : RegisterWrites) : ∃ t, exec (.registerWrite 0 0xF800 0x0107001E 0xFF) rg = .next t :=
  (h.1 rg 0 0xF800 0x0107001E 0xFF (rg_takes _ rfl rfl) (by decide) (by unfold inWidth; decide +kernel) (rg_canon _) (by decide)).imp fun _ x => x.1
theorem test_meets_RegisterWrites_bytes (h : RegisterWrites) : ∃ t, exec (.registerWrite 0 0x8041 0xFF00 2) rg = .next t :=
  (h.1 rg 0 0x8041 0xFF00 2 (rg_takes _ rfl rfl) (by decide) (by unfold inWidth; decide +kernel) (rg_canon _) (by decide)).imp fun _ x => x.1
theorem test_meets_RegisterWrites_supervisor (h : RegisterWrites) : ∃ t, exec (.registerWrite 64 0x8008 0x00070000 0xFF) rg = .next t :=
  (h.2 rg 0x8008 0x00070000 0xFF (by decide) rfl (rg_canon _) (by decide) (by decide)).imp fun _ x => x.1
theorem test_meets_RegionReads (h : RegionReads) : ∃ t, exec (.commandRegionRead 0 0x8013) rg = .next t :=
  ⟨_, (h.1 rg 0 0x8013 (by decide) rfl (by decide) (by decide) rfl).1 (by decide) (by unfold inWidth; decide +kernel) (by decide) (by decide)⟩
theorem test_meets_RegionReads_lodged (h : RegionReads) : ∃ t, exec (.commandRegionRead 0 0x8013) (rg v1) = .next t :=
  ((h.1 (rg v1) 0 0x8013 (by decide) rfl (by decide) (by decide) rfl).2 (by decide)).imp fun _ x => x.1
theorem test_meets_RegionReads_supervisor (h : RegionReads) : ∃ t, exec (.commandRegionRead 64 0x8028) rg = .next t :=
  ⟨_, h.2.1 rg 0x8028 (by decide)⟩
theorem test_meets_RegionReads_none (h : RegionReads) : ∃ t, exec (.commandRegionRead 0 0x8028) st = .next t :=
  ⟨_, h.2.2 st 0 0x8028 rfl⟩
/-- A device with a wake class and nothing to do. -/
def rest (l : Nat) (n a : Bool) (t : Nat := 0) : State := { rg { live := true, cls := 2, lodge := l, now := n, auto := a, reads := [0x8010, 0x8018], idle := 3 } with
  time := t, partitions := [[1, 0]], tlb := [⟨.cluster 5, 0, 0, 0, false, 0, 0⟩, ⟨.cluster 50, 0, 0, 0, false, 0, 0⟩], sectors := [(20, ⟨.phys, 0⟩), (300, ⟨.phys, 0⟩)] }
theorem rest_idle (l : Nat) (n a : Bool) (t : Nat) : isIdle (rest l n a t) 0 :=
  ⟨(fun _ m => nomatch m), (fun _ m => nomatch m), (by decide : ∀ q ∈ List.replicate 16 ({} : Stream), q.order = []), rfl, (fun _ m => nomatch m), (fun _ m => nomatch m), rfl⟩
theorem test_meets_Lodging_begins (h : Lodging) : ∃ t, exec (.lodge 0) (rest 0 false true 3000) = .next t :=
  ⟨_, (h.1 (rest 0 false true 3000) 0 (by decide) rfl (by decide) (rest_idle _ _ _ _)).1 rfl (.inr ⟨rfl, by decide⟩)⟩
theorem test_meets_Lodging_not_yet (h : Lodging) : ∃ t, exec (.lodge 0) (rest 0 false true 2999) = .next t :=
  ⟨_, (h.1 (rest 0 false true 2999) 0 (by decide) rfl (by decide) (rest_idle _ _ _ _)).2.1 rfl rfl (.inr (by decide))⟩
theorem test_meets_Lodging (h : Lodging) : ∃ t, exec (.lodge 0) (rest 1 true false) = .next t :=
  ((h.1 (rest 1 true false) 0 (by decide) rfl (by decide) (rest_idle _ _ _ _)).2.2 rfl).imp fun _ x => x.1
theorem rest_alone (l : Nat) (n a : Bool) : isAlone (rest l n a) 0 := by
  intro e _ n l; rw [vd_beyond (show 1 ≤ e by omega)] at l; cases l
theorem test_meets_Lodging_alone (h : Lodging) : ∃ t, exec (.lodge 0) (rest 1 true false) = .next t :=
  ((h.1 (rest 1 true false) 0 (by decide) rfl (by decide) (rest_idle _ _ _ _)).2.2 rfl).imp fun _ x =>
    have _ := x.2.2.2.2.2.2 (rest_alone _ _ _) (by decide)
    x.1
/-- The same device in class 1. -/
def restW1 : State := (rest 1 true false).modVd 0 fun v => { v with cls := 1 }
theorem test_meets_Lodging_w1 (h : Lodging) : ∃ t, exec (.lodge 0) restW1 = .next t :=
  ((h.1 restW1 0 (by decide) rfl (by decide) (rest_idle 1 true false 0)).2.2 rfl).imp fun _ x =>
    have _ := x.2.2.2.2.2.1 (.inr rfl)
    x.1
theorem test_meets_Lodging_none (h : Lodging) : ∃ t, exec (.lodge 0) rg = .next t := ⟨_, h.2 rg 0 (.inl rfl)⟩
theorem test_meets_Lifts (h : Lifts) : ∃ t, exec (.liftComplete 0) (rest 3 false false) = .next t :=
  (h.1 (rest 3 false false) 0 (by decide) (by decide) rfl rfl (.inl (by
    intro e _ n l; rw [vd_beyond (show 1 ≤ e by omega)] at l; cases l))).imp fun _ x => x.1
theorem test_meets_Lifts_none (h : Lifts) : ∃ t, exec (.liftComplete 0) (rest 2 false false) = .next t := ⟨_, h.2 (rest 2 false false) 0 (by decide)⟩
def rsv : State := { st with modules := 4 }
theorem rs_takes : takesWrites rsv 0 := ⟨by show 4 ≠ 0; decide, rfl, Nat.zero_lt_one, rfl, rfl⟩
theorem test_meets_ResetBegins_soft (h : ResetBegins) : ∃ t, exec (.softReset 0) rsv = .next t :=
  let ⟨t, _, x, _⟩ := h.1 rsv 0 rs_takes
  ⟨t, x⟩
theorem test_meets_ResetBegins_function (h : ResetBegins) : ∃ t, exec (.functionLevelReset 0) st = .next t :=
  let ⟨t, _, x, _⟩ := h.2.1 st 0 false (by decide) rfl rfl
  ⟨t, x⟩
theorem test_meets_ResetBegins_register (h : ResetBegins) : ∃ t, exec (.registerWrite 0 0x8020 1 1) rsv = .next t :=
  let ⟨t, _, x, _⟩ := h.2.2 rsv 0 rs_takes (by decide)
  ⟨t, x⟩
/-- A clear reset under way: a page, a rink and its page. -/
def clr : State := { rg { live := true, resetting := some true, rst := 1, pages := [8], rinks := [(5, { pages := [(0, 0, 0x80000)] })] } with
  launches := [{ done := true }] }
theorem test_meets_ResetCompletes (h : ResetCompletes) : ∃ t, exec (.resetComplete 0) clr = .next t :=
  (h.1 clr 0 true (by decide) rfl (by intro o m; cases m)).imp fun _ x => x.1
theorem test_meets_ResetCompletes_none (h : ResetCompletes) : ∃ t, exec (.resetComplete 0) rg = .next t := ⟨_, h.2 rg 0 (.inl rfl)⟩

/-! ## What the supervisor and Umarek set -/

theorem test_meets_TableWrites (h : TableWrites) : ∃ t, exec (.rerun 0 15) rg = .next t :=
  ((h.1 rg 0 15 0 0 none true rfl).2.2.2.2.2.2.2.1 (by decide) (by decide)).imp fun _ x => x.1
theorem test_meets_TableWrites_cap (h : TableWrites) : ∃ t, exec (.fabricRateCap 0 15) (rg { live := true, cap := some 15 }) = .next t :=
  ⟨_, (h.1 (rg { live := true, cap := some 15 }) 0 15 0 0 none true rfl).2.2.2.2.2.2.2.2.1 (.inr ⟨15, rfl, by decide⟩)⟩
theorem test_meets_TableWrites_raise (h : TableWrites) : ∃ t, exec (.fabricRateCap 0 16) (rg { live := true, cap := some 15 }) = .next t :=
  ⟨_, (h.1 (rg { live := true, cap := some 15 }) 0 16 0 0 none true rfl).2.2.2.2.2.2.2.2.2 15 rfl (by decide)⟩
theorem test_meets_TableWrites_absent (h : TableWrites) : ∃ t, exec (.trapVectorWrite 1 0 0) rg = .next t :=
  ⟨_, (h.2.1 rg 1 0 0 0 true (by decide)).1⟩
theorem test_meets_TableWrites_range (h : TableWrites) : ∃ t, exec (.rangeEntryWrite (some 15) 15 0xFFFFF 0xFF 0) rg = .next t :=
  (h.2.2.1 rg (some 15) 15 0xFFFFF 0xFF 0 (by decide) (by intro k e; cases e; decide) rfl).imp fun _ x => x.1
theorem test_meets_TableWrites_windows (h : TableWrites) : ∃ t, exec (.hostAccessWindowGrant [(0, 4)]) rg = .next t := (h.2.2.2.1 rg [(0, 4)] rfl).imp fun _ x => x.1
theorem test_meets_TableWrites_recovery (h : TableWrites) : ∃ t, exec (.rangeEntryWrite none 0 1 2 3) { rg with recovery := true } = .next t :=
  ⟨_, (h.2.2.2.2.1 { rg with recovery := true } [] none 0 1 2 3 rfl).2⟩
theorem test_meets_TableWrites_root (h : TableWrites) : ∃ t, exec (.rootChange 0 2 0x10800) rg = .next t :=
  ⟨_, h.2.2.2.2.2.1 rg 0 0x10800 2 (fun x => absurd x.1 (by decide))⟩
/-- Descriptors: BF16, one head of 64, pages of 16 positions, 1,000 positions; a tree of 100 nodes at 0x80000. -/
def rd1 : BitVec 512 := BitVec.ofNat 512 (1 + 64 * 2 ^ 32 + 4 * 2 ^ 48 + 1000 * 2 ^ 64)
def tdesc : BitVec 512 := BitVec.ofNat 512 (1 + 100 * 2 ^ 8 + 0x80000 / 128 * 2 ^ 64)
def um (d : Vd := { live := true }) : State := { rg d with partitions := [[0, 1, 2, 3, 4, 5, 6, 7]] }
theorem test_meets_TableWrites_root_kept (h : TableWrites) : ∃ t, exec (.rootChange 0 2 0x10000) um = .next t :=
  (h.2.2.2.2.2.2 um 0 0x10000 2 (by decide) rfl (by unfold rootPlace; decide +kernel)).imp fun _ x => x.1
theorem test_meets_RinksAndTrees_create (h : RinksAndTrees) : ∃ t, exec (.createRink 0 4095 rd1) um = .next t :=
  let ⟨t, _, x, _⟩ := (h.1 um 0 4095 rd1 rfl (by decide) rfl (by decide) (by decide)).1 (by unfold goodRink; decide +kernel) (by unfold allIn; decide +kernel)
  ⟨t, x⟩
theorem test_meets_RinksAndTrees_refused (h : RinksAndTrees) : ∃ t, exec (.createRink 0 4095 (rd1 + 7)) um = .next t :=
  ⟨_, (h.1 um 0 4095 (rd1 + 7) rfl (by decide) rfl (by decide) (by decide)).2 (.inl (by unfold goodRink; decide +kernel))⟩
def rk1 : Rink := { pages := [(0, 0, 0x80000)], kept := [0x90000] }
/-- Rink 5 with n requests in its bucket; its name is pinned or not. -/
def rkd (n : Nat) (p : Bool) : State := um { live := true, rinks := [(5, rk1)], deferred := List.replicate n ⟨0x0100000000000005, .pages []⟩
                                             ovf := if p then [⟨0x0100000000000005, 0, 0, 0⟩] else [] }
theorem test_meets_RinksAndTrees_destroy (h : RinksAndTrees) : ∃ t, exec (.destroyRink 0 5) (rkd 16 false) = .next t :=
  ((h.2.1 (rkd 16 false) 0 5 rk1 (by decide) (by decide) rfl).1 (by decide +kernel)).imp fun _ x => x.1
theorem test_meets_RinksAndTrees_deferred (h : RinksAndTrees) : ∃ t, exec (.destroyRink 0 5) (rkd 15 true) = .next t :=
  ((h.2.1 (rkd 15 true) 0 5 rk1 (by decide) (by decide) rfl).2.1 (by decide +kernel) (by decide +kernel)).imp fun _ x => x.1
theorem test_meets_RinksAndTrees_full (h : RinksAndTrees) : ∃ t, exec (.destroyRink 0 5) (rkd 16 true) = .next t :=
  ⟨_, (h.2.1 (rkd 16 true) 0 5 rk1 (by decide) (by decide) rfl).2.2 (by decide +kernel) (by decide +kernel)⟩
theorem test_meets_RinksAndTrees_tree (h : RinksAndTrees) : ∃ t, exec (.createTree 0 255 tdesc) um = .next t :=
  ((h.2.2.1 um 0 255 tdesc rfl (by decide) (by decide) (by decide)).1 ⟨by decide +kernel, by decide +kernel, by decide +kernel, by unfold allIn; decide +kernel, by decide⟩).imp fun _ x => x.1
theorem test_meets_RinksAndTrees_no_tree (h : RinksAndTrees) : ∃ t, exec (.createTree 0 255 1) um = .next t :=
  ⟨_, (h.2.2.1 um 0 255 1 rfl (by decide) (by decide) (by decide)).2 (.inr (.inl (by decide +kernel)))⟩
theorem test_meets_RinksAndTrees_gone (h : RinksAndTrees) : ∃ t, exec (.destroyTree 0 7) (um { live := true, trees := [(7, {})] }) = .next t :=
  (h.2.2.2 (um { live := true, trees := [(7, {})] }) 0 7 rfl (by decide) ⟨_, List.mem_singleton.mpr rfl, rfl⟩).imp fun _ x => x.1
theorem test_meets_UmarekLaunches_full (h : UmarekLaunches) :
    ∃ t, exec (.umarekLaunch 0 15 0x80 7 true) (um { live := true, streams := List.replicate 16 { wridx := 30 } }) = .next t :=
  ⟨_, (h (um { live := true, streams := List.replicate 16 { wridx := 30 } }) 0 15 0x80 7 true (rg_takes _ rfl rfl) (by decide) (by decide) (by decide) (by decide)).1 (by decide)⟩
theorem test_meets_UmarekLaunches (h : UmarekLaunches) : ∃ t, exec (.umarekLaunch 0 15 0x80 7 true) um = .next t :=
  (((h um 0 15 0x80 7 true (rg_takes _ rfl rfl) (by decide) (by decide) (by decide) (by decide)).2 (by decide)).2
    (by intro bs e; cases (show um.engRead 0 0x80 512 = none by decide +kernel).symm.trans e) (show um.canon by unfold State.canon; decide) rfl).imp fun _ x => x.1
/-- A page of tag 0x00 whose block asks for tag 0x01 of its first argument. -/
def badBind : State := { ms with modules := 4, mem := [⟨0x501F0, 1⟩, ⟨0x501F1, 1⟩], tlb := [⟨.core (2 ^ 40), 0, 0, 0, false, 0, 0x5001F⟩] }
theorem test_meets_UmarekLaunches_badbind (h : UmarekLaunches) : ∃ t, exec (.umarekLaunch 0 15 0x80 7 true) badBind = .next t :=
  ⟨_, ((h badBind 0 15 0x80 7 true ⟨by decide, rfl, by decide, rfl, rfl⟩ (by decide) (by decide) (by decide) (by decide)).2 (by decide)).1
    ((badBind.engRead 0 0x80 512).get (by decide +kernel)) (Option.some_get _).symm (by
      intro q; have := (q 0 (by decide) (by decide +kernel)).1; revert this; decide +kernel)⟩
theorem test_meets_Invalidations (h : Invalidations) : ∃ t, exec (.tlbInvalidate 0 0 0x10000) ms = .next t :=
  (h.1 ms 0 0 0x10000 rfl rfl).imp fun _ x => x.1
theorem test_meets_Invalidations_waits (h : Invalidations) : ∃ t, exec (.tlbInvalidate 0 2 8) (fly (.load [{ lane := 0, place := .direct ⟨.phys, 0⟩, size := 4, va := 0x02000000000000FFFF }] .none .word 0)) = .next t :=
  ⟨_, h.2 (fly (.load [{ lane := 0, place := .direct ⟨.phys, 0⟩, size := 4, va := 0x02000000000000FFFF }] .none .word 0)) 0 2 8 _ (List.mem_singleton.mpr rfl) (by decide) rfl
    ⟨_, List.mem_singleton.mpr rfl, by decide +kernel, by decide +kernel⟩⟩
/-- A page of tag 0x01 in tier 1, or in HBM. -/
def pgr (tier : Nat) : State := { (((um.putPte 0x10000 0x20001).putPte 0x20000 0x30001).putPte 0x30000 0x40001).putPte 0x40000 (0x8000F + 64 * tier) with
  vds := [{ live := true, roots := [⟨1, 0x10000, 0⟩] }] }
theorem test_meets_Promotions (h : Promotions) : ∃ t, exec (.pagerPromote 0 0x123 0x90000) (pgr 1) = .next t :=
  by refine (h.1 (pgr 1) 0 0x40000 0x123 0x90000 0x8004F ⟨1, 0x10000, 0⟩ (by unfold State.canon; decide +kernel) ?_ ?_ rfl rfl ?_ ?_ (by decide) (by decide) (by decide)
    (by decide) (by unfold allIn; decide +kernel) ?_ (by decide) (by decide) (.inl (by decide)) ?_).imp fun _ x => x.1 <;> decide +kernel
theorem test_meets_Promotions_none (h : Promotions) : ∃ t, exec (.pagerPromote 0 0x123 0x90000) (pgr 0) = .next t :=
  ⟨_, h.2 (pgr 0) 0 0x123 0x90000 0 0x8000F ⟨1, 0x10000, 0⟩ rfl (by decide +kernel) (by decide)⟩
def two_parts : List (List Nat) := [[4, 0], [1, 2, 3, 5, 6, 7]]
theorem two_parts_good : goodParts two_parts := by
  refine ⟨by decide, ?_, ?_⟩
  · intro d
    refine ⟨?_, ?_⟩
    · revert d; decide
    · revert d; decide
  · intro p m
    rcases List.mem_cons.mp m with rfl | m
    · refine ⟨by decide, 0, 2, 0, 1, by decide, by decide, by decide, by decide, fun d => ⟨?_, ?_⟩⟩
      · revert d; decide
      · intro x; have : d < 8 := by omega
        revert x; revert d; decide
    · cases List.mem_singleton.mp m
      refine ⟨by decide, 0, 2, 1, 3, by decide, by decide, by decide, by decide, fun d => ⟨?_, ?_⟩⟩
      · revert d; decide
      · intro x; have : d < 8 := by omega
        revert x; revert d; decide
theorem test_meets_PartitionsSet (h : PartitionsSet) : ∃ t, exec (.setPartitions two_parts) { rg with started := true } = .next t :=
  ((h { rg with started := true } two_parts).1 rfl rfl rfl two_parts_good (by decide)).imp fun _ x => x.1
theorem test_meets_PartitionsSet_early (h : PartitionsSet) : ∃ t, exec (.setPartitions two_parts) rg = .next t :=
  ⟨_, (h rg two_parts).2 (.inl rfl)⟩
def vp : VdParams := { vd := 0, part := 0, cls := 2, slice := 250000, roots := [0x10000], pool := [0x80000], nodePool := [0x90000], pages := [8, 9], overflow := 4, context := [10], overflowAt := [11] }
theorem test_meets_DevicesCreated (h : DevicesCreated) : ∃ t, exec (.createVd vp) (um {}) = .next t :=
  (h.1 (um {}) vp rfl (by decide) (by decide) rfl (by decide) (by decide) (by unfold allIn; decide +kernel) (by unfold rootPlace; decide +kernel)).imp fun _ x => x.1
theorem test_meets_DevicesCreated_none (h : DevicesCreated) : ∃ t, exec (.createVd vp) um = .next t :=
  ⟨_, h.2 um vp (.inr (.inr (.inl rfl)))⟩
/-- Two partitions; moves as given. -/
def mvs (ms : List Move) : State := { rg with partitions := [[0], [1]], moves := ms }
theorem test_meets_MemoryMoves (h : MemoryMoves) : ∃ t, exec (.memorySliceMove 0 512) (mvs []) = .next t :=
  (h.1 (mvs []) 0 512 0 1 (by decide +kernel) (by decide +kernel) (by decide) (by decide +kernel) (by intro m x; cases x) (by decide)).imp fun _ x => x.1
theorem test_meets_MemoryMoves_own (h : MemoryMoves) : ∃ t, exec (.memorySliceMove 0 1) (mvs []) = .next t := ⟨_, h.2.1 (mvs []) 0 1 (by decide +kernel)⟩
def mv1 (b : Bool) : Move := { src := 8, dst := 0x400008, chunk := 3, copied := 7, busy := b }
theorem mv_canon (l : List Move) : (mvs l).canon := (show rg.canon by unfold State.canon; decide)
theorem test_meets_MemoryMoves_busy (h : MemoryMoves) : ∃ t, exec (.chunkBusy 8) (mvs [mv1 false]) = .next t :=
  (h.2.2.1 (mvs [mv1 false]) 8 (mv1 false) (mv_canon _) ⟨(fun _ m => nomatch m), .nil, (fun _ m => nomatch m)⟩ (by decide) rfl rfl (by decide) (by decide) (by intro i _; rfl) (fun _ m => nomatch m)).imp fun _ x => x.1
theorem test_meets_MemoryMoves_waits (h : MemoryMoves) : ∃ t, exec (.chunkBusy 8) (mvs [mv1 true]) = .next t :=
  ⟨_, h.2.2.2.1 (mvs [mv1 true]) 8 (mv1 true) 0 rfl (.inl rfl)⟩
theorem test_meets_MemoryMoves_host (h : MemoryMoves) :
    ∃ t, exec (.chunkBusy 8) { mvs [mv1 false] with dir := [(8 * 1024 + 3 * 64 + 63, .m)], hostReqs := [(8 * 1024 + 3 * 64 + 63, .sharedRead)] } = .next t :=
  ⟨_, h.2.2.2.1 { mvs [mv1 false] with dir := [(8 * 1024 + 3 * 64 + 63, .m)], hostReqs := [(8 * 1024 + 3 * 64 + 63, .sharedRead)] } 8 (mv1 false) 63 rfl
    (.inr (.inr ⟨by decide, rfl, by decide, by decide +kernel, _, List.mem_singleton.mpr rfl, rfl⟩))⟩
theorem test_meets_MemoryMoves_copied (h : MemoryMoves) : ∃ t, exec (.chunkCopied 8) (mvs [mv1 true]) = .next t :=
  (h.2.2.2.2.1 (mvs [mv1 true]) 8 (mv1 true) (mv_canon _) ⟨.nil, fun _ m => nomatch m⟩ (by decide) (by decide) (by decide) rfl rfl (by decide) (by decide) (by decide) (by decide)).imp fun _ x => x.1
theorem test_meets_MemoryMoves_idle (h : MemoryMoves) : ∃ t, exec (.chunkCopied 8) (mvs [mv1 false]) = .next t :=
  ⟨_, h.2.2.2.2.2 (mvs [mv1 false]) 8 (mv1 false) rfl rfl⟩
theorem rg_awake : ∀ d, d < 64 → (rg.vd d).live = true → (rg.vd d).lodge < 2 := by
  intro d _ l
  match d, l with
  | 0, _ => decide
  | d + 1, l => rw [vd_beyond (show 1 ≤ d + 1 by omega)] at l; cases l
theorem test_meets_ClocksAndErrors_ceiling (h : ClocksAndErrors) : ∃ t, exec (.powerCeiling 500) rg = .next t := (h.1 rg 500 (by decide) rfl (fun _ e => nomatch e)).imp fun _ x => x.1
theorem test_meets_ClocksAndErrors_no_rise (h : ClocksAndErrors) : ∃ t, exec (.powerCeiling 501) { rg with ceiling := some 500 } = .next t :=
  ⟨_, h.2.1 { rg with ceiling := some 500 } 501 (.inr ⟨500, rfl, by decide⟩)⟩
theorem test_meets_ClocksAndErrors_clock (h : ClocksAndErrors) : ∃ t, exec (.islandFrequencyChange 39 2250) rg = .next t :=
  (h.2.2.1 rg 39 2250 (by decide) (by decide) (by decide) (by intro c e; cases e) rg_awake).imp fun _ x => x.1
theorem test_meets_ClocksAndErrors_uncore (h : ClocksAndErrors) : ∃ t, exec (.islandFrequencyChange 63 100) rg = .next t :=
  (h.2.2.2.1 rg 63 100 (by decide) (by decide) rg_awake).imp fun _ x => x.1
theorem test_meets_ClocksAndErrors_slow (h : ClocksAndErrors) : ∃ t, exec (.islandFrequencyChange 0 499) rg = .next t := ⟨_, h.2.2.2.2.1 rg 0 499 (.inl (by decide))⟩
theorem test_meets_ClocksAndErrors_error (h : ClocksAndErrors) : ∃ t, exec (.uncorrectableError 0 4) rg = .next t := (h.2.2.2.2.2.1 rg 0 4 (rg_canon _)).imp fun _ x => x.1
/-- A resident gang whose bank 3 is a FIFO bank with one entry. -/
def fifoGang : State := { rg with gangs := [{ st := .resident, banks := [{}, {}, {}, { mode := .fifo, phys := 31, entries := [{}] }] }] }
theorem test_meets_ClocksAndErrors_fifo (h : ClocksAndErrors) : ∃ t, exec (.uncorrectableError (Loc.key ⟨.sram, ((20 * 0 + 0) * 32 + 31) * 2 ^ 17 + 128 * 0 + 127⟩) 1) fifoGang = .next t :=
  let ⟨t, _, _, x, _⟩ := h.2.2.2.2.2.2.1 fifoGang 0 3 0 127 { mode := .fifo, phys := 31, entries := [{}] } rfl rfl rfl (by decide) (by decide) (by decide) (by decide) (by decide) (by decide)
  ⟨t, x⟩
theorem test_meets_ClocksAndErrors_scrub (h : ClocksAndErrors) : ∃ t, exec (.scrub 8) { rg with marked := [9, 8] } = .next t :=
  (h.2.2.2.2.2.2.2.1 { rg with marked := [9, 8] } 8 (rg_canon { live := true }) (by decide) (by decide)).imp fun _ x => x.1
theorem test_meets_ClocksAndErrors_unmarked (h : ClocksAndErrors) : ∃ t, exec (.scrub 8) rg = .next t := ⟨_, h.2.2.2.2.2.2.2.2 rg 8 (by decide)⟩
theorem test_meets_Starts_cold (h : Starts) : ∃ t, exec (.powerGood (some ⟨7, [⟨0, 19, true, 21⟩], [], [], []⟩) 4) rg = .next t := (h.1 rg (some ⟨7, [⟨0, 19, true, 21⟩], [], [], []⟩) 4).imp fun _ x => x.1
theorem test_meets_Starts_warm (h : Starts) : ∃ t, exec (.warmStart none 9) { rg with vds := { live := true } :: List.replicate 63 {} } = .next t :=
  (h.2.1 { rg with vds := { live := true } :: List.replicate 63 {} } none 9 rfl).imp fun _ x => x.1
/-- Two ceilings, and one row of a die's binding table. -/
def rec1 : Record := ⟨7, [⟨0, 19, true, 21⟩], [0, 1], [], [2000, 500]⟩
theorem test_meets_Starts_recovered (h : Starts) : ∃ t, exec (.recoveryImage (some rec1)) { rg with recovery := true } = .next t :=
  (h.2.2.1 { rg with recovery := true } rec1 rfl).imp fun _ x => x.1
theorem test_meets_Starts_unverified (h : Starts) : ∃ t, exec (.recoveryImage none) { rg with recovery := true } = .next t := ⟨_, h.2.2.2.1 { rg with recovery := true }⟩
theorem test_meets_Starts_running (h : Starts) : ∃ t, exec (.recoveryImage (some rec1)) rg = .next t := ⟨_, h.2.2.2.2 rg rec1 rfl⟩

/-! ## The host and the peer fabric -/

/-- Leases on half 2^13 of device memory end at 8 and have not passed at 11. -/
def lsd (t : Nat) : State := { rg with modules := 5, time := t, partitions := [[0, 1, 2, 3, 4, 5, 6, 7]], homes := [{ line := ⟨.phys, 64 * 2 ^ 13⟩, latest := 8 }, { line := ⟨.host, 64 * 2 ^ 13⟩, latest := 8 }] }
theorem lsd_canon (t : Nat) : (lsd t).canon := (show rg.canon by unfold State.canon; decide)
theorem lsd_idie (t i : Nat) (l : i < 2) : idieOn (lsd t) i := ⟨l, match i, l with | 0, _ => .inl (show (5#4).getLsbD 0 = true by decide) | 1, _ => .inl (show (5#4).getLsbD 2 = true by decide)⟩
theorem lsd_may (i : Nat) (l : i < 2) : hostMay (lsd 12) i (2 ^ 13) := ⟨lsd_idie _ i l, by decide, by decide, rfl⟩
theorem lsd_served (t : Nat) : served (lsd t) 8192 8192 := fun _ _ => ⟨rfl, rfl⟩
/-- The half's chunk moves: BUSY, or copied to page 2^22 + 8. -/
def lsm (c : Nat) (b : Bool) : State := { lsd 12 with moves := [{ mv1 b with src := 8, copied := BitVec.ofNat 16 c, chunk := 0 }] }
theorem lsd_bound : bound (lsd 12) 0 8192 := ⟨by decide, by decide⟩
theorem lsd_lines (t : Nat) : LlcSound (lsd t) := ⟨(fun _ m => nomatch m), .nil, (fun _ m => nomatch m)⟩
theorem test_meets_HostRequests_dropped (h : HostRequests) : ∃ t, exec (.hostSharedRead 1 0 8192) (lsd 11) = .next t :=
  let ⟨_, _, x⟩ := h.2.2.2.2.1 (lsd 11) 1 0 8192 .sharedRead true (lsd_idie _ _ (by decide)) (by decide) (fun x => absurd x.1 (by decide)) rfl
  ⟨_, x.1⟩
/-- R401: die 2 of I-die 1 is reached from die 3; die 4 of I-die 0 directly. -/
theorem test_arrivalBridge : (arrivalBridge 1 2, arrivalBridge 0 1, arrivalBridge 0 4, arrivalBridge 1 7, arrivalBridge 1 4) = (2, 0, 11, 13, 3) := by decide
theorem test_meets_HostRequests_read (h : HostRequests) : ∃ t, exec (.hostSharedRead 0 1 8192) (lsd 11) = .next t :=
  ((((h.1 (lsd 11) 0 1 8192 (lsd_canon _) (lsd_idie _ _ (by decide)) (by decide) lsd_bound).1 rfl 8192 (lsd_served _)).1 (by decide))).imp fun _ x => x.1
theorem lsm_served : served (lsm 1 false) 8192 0x100002000 := by
  intro i n
  have e : (64 * 8192 + i) / 65536 = 8 := by omega
  have f : (64 * 8192 + i) % 65536 / 4096 = 0 := by omega
  have g : (64 * 0x100002000 + i) / 65536 = 0x400008 := by omega
  constructor
  · show (lsm 1 false).fwd _ = _
    simp [State.fwd, inHalf, lsm, lsd, mv1, e, f]
    omega
  · simp [State.fwd, inHalf, lsm, lsd, mv1, g]
theorem test_meets_HostRequests_moved (h : HostRequests) : ∃ t, exec (.hostSharedRead 0 1 8192) (lsm 1 false) = .next t :=
  ((((h.1 (lsm 1 false) 0 1 8192 (lsd_canon 12) (lsd_idie 12 _ (by decide)) (by decide) lsd_bound).1 rfl 0x100002000 lsm_served).1 (by decide))).imp fun _ x => x.1
theorem test_meets_HostRequests_busy (h : HostRequests) : ∃ t, exec (.hostSharedRead 0 1 8192) (lsm 0 true) = .next t :=
  ⟨_, (h.1 (lsm 0 true) 0 1 8192 (lsd_canon 12) (lsd_idie 12 _ (by decide)) (by decide) lsd_bound).2 rfl⟩
theorem test_meets_HostRequests_held (h : HostRequests) : ∃ t, exec (.hostSharedRead 0 1 8192) { lsd 11 with dir := [(8192, .m)] } = .next t :=
  ⟨_, ((h.1 { lsd 11 with dir := [(8192, .m)] } 0 1 8192 (lsd_canon 11) (lsd_idie 11 1 (by decide)) (by decide) lsd_bound).1 rfl 8192 (fun _ _ => ⟨rfl, rfl⟩)).2 rfl⟩
theorem test_meets_HostRequests_own (h : HostRequests) : ∃ t, exec (.hostOwnershipRequest 0 0 8192 [1]) (lsd 12) = .next t :=
  (h.2.1 (lsd 12) 0 0 8192 8192 [1] (lsd_canon _) (lsd_may _ (by decide)) (lsd_served _) lsd_bound).imp fun _ x => x.1
theorem test_meets_HostRequests_write (h : HostRequests) : ∃ t, exec (.hostWriteback 0 1 8192 [1, 2] 3 (some .s)) (lsd 12) = .next t :=
  (h.2.2.1 (lsd 12) 0 1 8192 8192 [1, 2] 3 (some .s) (lsd_canon _) (lsd_lines _) (lsd_may _ (by decide)) (lsd_served _) lsd_bound).imp fun _ x => x.1
theorem test_meets_HostRequests_waits (h : HostRequests) : ∃ t, exec (.hostOwnershipRequest 0 0 8192 [1]) (lsd 11) = .next t :=
  ⟨_, (h.2.2.2.1 (lsd 11) 0 0 8192 [1] 0 none (lsd_idie _ _ (by decide)) (by decide) lsd_bound (.inl (by decide))).1⟩
theorem test_meets_HostRequests_deaf (h : HostRequests) : ∃ t, exec (.hostSharedRead 0 0 8192) rg = .next t :=
  ⟨_, (h.2.2.2.2.2.1 rg 0 0 8192 .sharedRead true (fun x => absurd x.2 (by decide))).1⟩
theorem test_meets_HostRequests_none (h : HostRequests) : ∃ t, exec (.hostSnoop 8192 true) st = .next t := ⟨_, h.2.2.2.2.2.2 st 8192 true rfl⟩
theorem test_meets_RetriedSnoops (h : RetriedSnoops) : ∃ t, exec (.bisnpRetry ⟨0, 1, 8192⟩ (.ownership [1]) true) (lsd 12) = .next t :=
  let ⟨_, t, _, x, _⟩ := h.1 (lsd 12) 0 1 8192 (.ownership [1]) true (lsd_canon _) (lsd_lines _) (lsd_may _ (by decide)) lsd_bound 8192 (lsd_served _)
  ⟨t, x⟩
theorem test_meets_RetriedSnoops_waits (h : RetriedSnoops) : ∃ t, exec (.bisnpRetry ⟨0, 0, 8192⟩ (.ownership [1]) true) (lsd 11) = .next t :=
  ⟨_, h.2 (lsd 11) 0 0 8192 (.ownership [1]) true (lsd_idie _ _ (by decide)) (by decide) lsd_bound (by intro e; cases e) (by decide)⟩
theorem test_meets_HostSnoops (h : HostSnoops) : ∃ t, exec (.hostSnoop 8192 true) { lsd 12 with bridge := [(8192, .m)] } = .next t :=
  (h.1 { lsd 12 with bridge := [(8192, .m)] } 8192 true (lsd_canon 12) (by decide) (by decide) (by decide)).imp fun _ x => x.1
theorem test_meets_HostSnoops_waits (h : HostSnoops) : ∃ t, exec (.hostSnoop 8192 true) (lsd 11) = .next t :=
  ⟨_, h.2 (lsd 11) 8192 true (by decide) (by decide)⟩
theorem test_meets_Modules (h : Modules) : ∃ t, exec (.ucieModuleFail 3) rg = .next t :=
  let ⟨_, _, x, _⟩ := h rg 3 (by decide)
  ⟨_, x⟩
/-- A package whose port 31 joins link 2; a DATA flit of one word with sequence number q on channel 0. -/
def fb (p : Port := {}) (d : Vd := { live := true }) : State := { rg d with
  ports := List.replicate 31 {} ++ [{ p with link := some 2 }], links := (List.replicate 32 {}).set 2 { ports := [31], down := !p.up } }
def word8 : List Byte := [1, 2, 3, 4, 5, 6, 7, 8] ++ List.replicate 232 0
def dhdr (q kind : Nat) : Sys2Proof.DWord := BitVec.ofNat 64 (4 * kind + 16 * q + 2 ^ 29)
def dfl (q kind : Nat) : Flit := ⟨dhdr q kind, word8, flitCrc (dhdr q kind) word8⟩
theorem dfl_sound (q k : Nat) (r : (dhdr q k).extractLsb' 34 30 = 0#30) (l : hdrLen (dfl q k) ≤ 30) : soundFlit (dfl q k) := by
  unfold soundFlit dfl; dsimp only
  exact ⟨rfl, r, l, by decide +kernel⟩
theorem fb_fabric (p : Port) (d : Vd) (r : p.rates.length = 4) : fabric (fb p d) := by
  have two : ∀ {α : Type} {x a b : α} {n : Nat}, x ∈ (List.replicate 32 a).set n b → x = a ∨ x = b := fun m =>
    (List.mem_or_eq_of_mem_set m).imp List.eq_of_mem_replicate id
  refine ⟨rfl, rfl, fun l m => ?_, fun q m => ?_⟩
  · rcases two m with rfl | rfl
    · exact ⟨rfl, rfl, .nil, fun _ m => nomatch m⟩
    · exact ⟨rfl, rfl, List.pairwise_singleton _ _, fun q m => List.mem_singleton.mp m ▸ (by decide : 31 < 32)⟩
  · rcases List.mem_append.mp m with m | m
    · cases List.eq_of_mem_replicate m; rfl
    · cases List.mem_singleton.mp m; exact r
theorem test_meets_FlitsReceived (h : FlitsReceived) : ∃ t, exec (.flitReceive 31 (dfl 0 0) none) fb = .next t := by
  have x := h fb 31 2 (dfl 0 0) (fb_fabric _ _ rfl) (by decide) (by decide) rfl rfl
  by_cases f : finds fb
  · exact (x.2.2.1 (dfl_sound 0 0 (by decide) (by decide)) (by decide) (by decide) f).imp fun _ x => x.1
  · exact (x.2.1 (dfl_sound 0 0 (by decide) (by decide)) (by decide) (.inr f)).imp fun _ x => x.1
theorem test_meets_FlitsReceived_short (h : FlitsReceived) : ∃ t, exec (.flitReceive 31 { dfl 0 0 with payload := [] } none) fb = .next t :=
  ((h fb 31 2 { dfl 0 0 with payload := [] } (fb_fabric _ _ rfl) (by decide) (by decide) rfl rfl).1 (fun x => absurd x.2.2.2 (by decide))).imp fun _ x => x.1
theorem test_meets_FlitsReceived_order (h : FlitsReceived) : ∃ t, exec (.flitReceive 31 (dfl 0xFFF 0) none) fb = .next t :=
  ((h fb 31 2 (dfl 0xFFF 0) (fb_fabric _ _ rfl) (by decide) (by decide) rfl rfl).2.1 (dfl_sound 0xFFF 0 (by decide) (by decide)) (by decide) (.inl (by decide))).imp fun _ x => x.1
theorem test_meets_FlitsReceived_control (h : FlitsReceived) : ∃ t, exec (.flitReceive 31 (dfl 0 1) none) fb = .next t :=
  ((h fb 31 2 (dfl 0 1) (fb_fabric _ _ rfl) (by decide) (by decide) rfl rfl).2.2.2 (dfl_sound 0 1 (by decide) (by decide)) (by decide)).imp fun _ x => x.1
def pac : PeerAcc := { fabid := 9, vd := 3, rvd := 0, kind := .write [7], off := 0x10, ord := 0, mask := 0 }
/-- The device grants nothing, or its source's accesses, and translates a page. -/
def fbi (gs : List (Option (Nat × Nat))) : State := { fb {} { live := true, grants := gs, roots := [⟨0, 0, 0⟩] } with
  tlb := [⟨.core (2 ^ 40), 0, 0, 0, false, 0, 0x5001F⟩], partitions := [[0, 1, 2, 3, 4, 5, 6, 7]] }
theorem fbi_fabric (gs : List (Option (Nat × Nat))) : fabric (fbi gs) := fb_fabric {} { live := true, grants := gs, roots := [⟨0, 0, 0⟩] } rfl
/-- Whether a buffer is free is a free value of the model, so these tests take it. -/
theorem test_meets_InboundAccesses (h : InboundAccesses) (f : finds fb) : ∃ t, exec (.flitReceive 31 (dfl 0 0) (some pac)) (fbi []) = .next t :=
  (h.1 (fbi []) 31 2 (dfl 0 0) pac (fbi_fabric _) (by decide) (by decide) rfl rfl (dfl_sound 0 0 (by decide) (by decide)) (by decide) (by decide) (by decide) f).imp fun _ x =>
    have _ := x.2.2.1 (by decide)
    x.1
theorem fbi_byte (j : Nat) (n : j < 1) (p : Perm) : (fbi [some (9, 3)]).translate (2 ^ 40) 0 0 0 ((0x10 + BitVec.ofNat 64 j : Sys2Proof.DWord).setWidth 72) p = .ok (.homed ⟨.phys, 0x50010⟩ false) := by
  cases Nat.lt_one_iff.mp n; cases p <;> rfl
theorem test_meets_InboundAccesses_write (h : InboundAccesses) (f : finds fb) : ∃ t, exec (.flitReceive 31 (dfl 0 0) (some pac)) (fbi [some (9, 3)]) = .next t :=
  (h.1 (fbi [some (9, 3)]) 31 2 (dfl 0 0) pac (fbi_fabric _) (by decide) (by decide) rfl rfl (dfl_sound 0 0 (by decide) (by decide)) (by decide) (by decide) (by decide) f).imp fun _ x =>
    have _ := x.2.2.2.1 (by decide) [7] [.homed ⟨.phys, 0x50010⟩ false] rfl (fun j n => by cases Nat.lt_one_iff.mp n; exact fbi_byte 0 n .w)
    x.1
def prd : PeerAcc := { pac with kind := .read 1, ord := 2, mask := 8 }
theorem test_meets_InboundAccesses_read (h : InboundAccesses) (f : finds fb) : ∃ t, exec (.flitReceive 31 (dfl 0 0) (some prd)) (fbi [some (9, 3)]) = .next t :=
  (h.1 (fbi [some (9, 3)]) 31 2 (dfl 0 0) prd (fbi_fabric _) (by decide) (by decide) rfl rfl (dfl_sound 0 0 (by decide) (by decide)) (by decide) (by decide) (by decide) f).imp fun _ x =>
    have _ := x.2.2.2.2.1 (by decide) 1 [.homed ⟨.phys, 0x50010⟩ false] rfl (fun j n => by cases Nat.lt_one_iff.mp n; exact fbi_byte 0 n .r)
    x.1
def pat : PeerAcc := { pac with kind := .atomic 0 1 [1] }
theorem test_meets_InboundAccesses_atomic (h : InboundAccesses) (f : finds fb) : ∃ t, exec (.flitReceive 31 (dfl 0 0) (some pat)) (fbi [some (9, 3)]) = .next t :=
  (h.1 (fbi [some (9, 3)]) 31 2 (dfl 0 0) pat (fbi_fabric _) (by decide) (by decide) rfl rfl (dfl_sound 0 0 (by decide) (by decide)) (by decide) (by decide) (by decide) f).imp fun _ x =>
    have _ := x.2.2.2.2.2.1 (by decide) 0 1 [1] (.homed ⟨.phys, 0x50010⟩ false) rfl (by decide) (fbi_byte 0 (by decide) .rw) (fun j n => ⟨_, fbi_byte j n .rw⟩)
    x.1
def pfar : PeerAcc := { pac with off := 0x10000 }
theorem test_meets_InboundAccesses_fails (h : InboundAccesses) (f : finds fb) : ∃ t, exec (.flitReceive 31 (dfl 0 0) (some pfar)) (fbi [some (9, 3)]) = .next t :=
  (h.1 (fbi [some (9, 3)]) 31 2 (dfl 0 0) pfar (fbi_fabric _) (by decide) (by decide) rfl rfl (dfl_sound 0 0 (by decide) (by decide)) (by decide) (by decide) (by decide) f).imp fun _ x =>
    have _ := x.2.2.2.2.2.2 (by decide) 1 0 .w 0x03 (.inr (.inl ⟨[7], rfl, rfl, rfl⟩)) (by decide) rfl
    x.1
/-- A collective of group 6 is open; channel 3 names it. -/
def dfl3 : Flit := ⟨0x20000003, word8, flitCrc 0x20000003 word8⟩
theorem dfl3_sound : soundFlit dfl3 := by
  unfold soundFlit dfl3; dsimp only
  exact ⟨rfl, by decide, by decide, by decide +kernel⟩
theorem test_meets_InboundAccesses_abandon (h : InboundAccesses) (f : finds fb) : ∃ t, exec (.flitReceive 31 dfl3 (some { pac with kind := .abandon 6 })) { fb with colls := [⟨4, 0, 6, false⟩] } = .next t :=
  (h.2 { fb with colls := [⟨4, 0, 6, false⟩] } 31 2 6 dfl3 { pac with kind := .abandon 6 } ⟨4, 0, 6, false⟩ (fb_fabric {} { live := true } rfl) (by decide) (by decide) rfl rfl
    dfl3_sound (by decide) (by decide) (by decide) f rfl rfl).imp fun _ x => x.1
theorem test_meets_PortControl_ack (h : PortControl) : ∃ t, exec (.ack 31 ⟨0, 0⟩) fb = .next t :=
  let ⟨t, x, _⟩ := (h.1 fb 31 2 0 0 (fb_fabric _ _ rfl) (by decide) rfl).1
  ⟨t, x⟩
theorem test_meets_PortControl_rate (h : PortControl) : ∃ t, exec (.rate 31 3 0xFFFF) fb = .next t :=
  let ⟨t, x, _⟩ := h.2.1 fb 31 3 0xFFFF (fb_fabric _ _ rfl) (by decide)
  ⟨t, x⟩
theorem test_meets_PortControl_timer (h : PortControl) : ∃ t, exec (.rateTimer 31) fb = .next t :=
  ((h.2.2.1 fb 31 (fb_fabric _ _ rfl) (by decide)).1 rfl).imp fun _ x => x.1
theorem test_meets_PortControl_down (h : PortControl) : ∃ t, exec (.rateTimer 31) (fb { up := false }) = .next t :=
  ⟨_, (h.2.2.1 (fb { up := false }) 31 (fb_fabric _ _ rfl) (by decide)).2 rfl⟩
theorem test_meets_PortControl_retrain (h : PortControl) : ∃ t, exec (.portRetrain 31 false) (fb { replays := [(0, 0, 16)] }) = .next t :=
  (((h.2.2.2 (fb { replays := [(0, 0, 16)] }) 31 (fb_fabric _ _ rfl) (by decide)).1 (.inl ⟨_, List.mem_singleton.mpr rfl, by decide⟩)).2.1 rfl).imp fun _ x => x.1
/-- Ports 30 and 31 share link 2. -/
def fb2 : State := { fb { replays := [(0, 0, 16)], replay := [(0, dfl 0 0)] } with links := (List.replicate 32 {}).set 2 { ports := [31, 30] } }
theorem fb2_fabric : fabric fb2 := by
  refine ⟨rfl, rfl, fun l m => ?_, (fb_fabric { replays := [(0, 0, 16)], replay := [(0, dfl 0 0)] } { live := true } rfl).2.2.2⟩
  rcases List.mem_or_eq_of_mem_set m with m | rfl
  · cases List.eq_of_mem_replicate m; exact ⟨rfl, rfl, .nil, fun _ m => nomatch m⟩
  · exact ⟨rfl, rfl, by decide, by decide⟩
theorem test_meets_PortControl_moves (h : PortControl) : ∃ t, exec (.portRetrain 31 false) fb2 = .next t :=
  (((h.2.2.2 fb2 31 fb2_fabric (by decide)).1 (.inl ⟨_, List.mem_singleton.mpr rfl, by decide⟩)).2.2 30 rfl).imp fun _ x => x.1
theorem test_meets_PortControl_works (h : PortControl) : ∃ t, exec (.portRetrain 31 false) (fb { replays := [(0, 0, 15), (1, 7, 15)] }) = .next t :=
  ⟨_, (h.2.2.2 (fb { replays := [(0, 0, 15), (1, 7, 15)] }) 31 (fb_fabric _ _ rfl) (by decide)).2 false (by decide) rfl⟩
theorem test_meets_PeerLinks_join (h : PeerLinks) : ∃ t, exec (.peerLinkJoin 2 [30, 31]) fb = .next t :=
  (h.1 fb 2 [30, 31] rfl (fb_fabric _ _ rfl) (by decide) (by decide) (by decide) (by decide) (by decide)).imp fun _ x => x.1
theorem test_meets_PeerLinks_none (h : PeerLinks) : ∃ t, exec (.peerLinkJoin 2 []) fb = .next t := ⟨_, h.2.1 fb 2 [] (.inr (.inr (.inl rfl)))⟩
def lk (up down : Bool) : State := { fb { up := up } with links := (List.replicate 32 {}).set 2 { ports := [31], down := down } }
theorem lk_fabric (u d : Bool) : fabric (lk u d) := by
  refine ⟨rfl, rfl, fun l m => ?_, (fb_fabric { up := u } { live := true } rfl).2.2.2⟩
  rcases List.mem_or_eq_of_mem_set m with m | rfl
  · cases List.eq_of_mem_replicate m; exact ⟨rfl, rfl, .nil, fun _ m => nomatch m⟩
  · exact ⟨rfl, rfl, List.pairwise_singleton _ _, fun q m => List.mem_singleton.mp m ▸ (by decide : 31 < 32)⟩
theorem test_meets_PeerLinks_down (h : PeerLinks) : ∃ t, exec (.linkDown 2) (lk false false) = .next t :=
  ((h.2.2 (lk false false) 2 (lk_fabric _ _) (by decide)).1 rfl (by decide) (by decide)).imp fun _ x => x.1
theorem test_meets_PeerLinks_up (h : PeerLinks) : ∃ t, exec (.linkDown 2) (lk true false) = .next t :=
  ⟨_, (h.2.2 (lk true false) 2 (lk_fabric _ _) (by decide)).2.1 (by decide)⟩
theorem test_meets_PeerLinks_train (h : PeerLinks) : ∃ t, exec (.peerLinkTrain 2) (lk false true) = .next t :=
  ((h.2.2 (lk false true) 2 (lk_fabric _ _) (by decide)).2.2.1 rfl).imp fun _ x => x.1
theorem test_meets_PeerLinks_trained (h : PeerLinks) : ∃ t, exec (.peerLinkTrain 2) (lk true false) = .next t :=
  ⟨_, (h.2.2 (lk true false) 2 (lk_fabric _ _) (by decide)).2.2.2 rfl⟩

/-! ## dmt -/

/-- A page that allows reads, writes and execution, as engines find it. -/
def dm : State := { ms with modules := 4, tlb := [⟨.core (2 ^ 40), 0, 0, 0, false, 0, 0x5001F⟩] }
/-- An object of one byte with a task type. -/
def dobj : DmtObject := { bytes := [1], first := 0, types := [(3, 7)], offsets := true }
theorem test_meets_DmtActs_load (h : DmtActs) : ∃ t, exec (.dmtLoad 0 0x200 dobj 0x80 [2]) dm = .next t :=
  ⟨_, h.1 dm 0 0x200 0x80 dobj [2] [⟨.phys, 0x50200⟩] [⟨.phys, 0x50080⟩] rfl (by decide)
    ⟨rfl, by intro i n; cases (show i = 0 by exact Nat.lt_one_iff.mp n); decide +kernel⟩ ⟨rfl, by intro i n; cases (show i = 0 by exact Nat.lt_one_iff.mp n); decide +kernel⟩⟩
theorem test_meets_DmtActs_refused (h : DmtActs) : ∃ t, exec (.dmtLoad 0 0x200 dobj 0x81 [2]) dm = .next t :=
  ⟨_, h.2.1 dm 0 0x200 0x81 dobj [2] (.inl (by decide))⟩
theorem test_meets_DmtActs_launch (h : DmtActs) : ∃ t, exec (.dmtLaunch 0 15 [1] 0x80 7) dm = .next t ∧
    exec (.umarekLaunch 0 15 0x80 7 false) (storedAt (attached dm 0) [⟨.phys, 0x50080⟩] [1]) = .next t :=
  h.2.2.1 dm 0 15 [1] 0x80 7 [⟨.phys, 0x50080⟩] ⟨by decide, rfl, by decide, rfl, rfl⟩ (by decide) (by decide)
    ⟨rfl, by intro i n; cases (show i = 0 by exact Nat.lt_one_iff.mp n); decide +kernel⟩
theorem test_meets_DmtActs_break (h : DmtActs) : ∃ t, exec (.dmtBreak 0 0x100 (some 0)) st = .next t := ⟨_, (h.2.2.2.1 st 0 4 0x100 (some 0) 0x40 rfl).1⟩
theorem test_meets_DmtActs_run (h : DmtActs) : ∃ t, exec (.dmtRun 0 none) st = .next t := (h.2.2.2.2.1 st 0 none rfl).imp fun _ x => x.1
theorem test_meets_DmtActs_step (h : DmtActs) : ∃ t, exec (.dmtStep 0 3) (st { wv with dmtStop := some 0 }) = .next t :=
  ⟨_, (h.2.2.2.2.2.1 (st { wv with dmtStop := some 0 }) 0 3).1 rfl⟩
theorem test_meets_DmtActs_inject (h : DmtActs) : ∃ t, exec (.dmtInjectFault 0 0x1B) st = .next t :=
  ⟨_, (h.2.2.2.2.2.2.1 st 0 0x1B).1 (by decide)⟩
theorem test_meets_DmtActs_inject_engine (h : DmtActs) : ∃ t, exec (.dmtInjectFault 0 0x14) st = .next t :=
  ⟨_, (h.2.2.2.2.2.2.1 st 0 0x14).2 (by decide)⟩
theorem test_meets_DmtActs_preempt (h : DmtActs) : ∃ t, exec (.dmtInjectPreempt 0) st = .next t :=
  (h.2.2.2.2.2.2.2 st 0 (by decide) rfl).imp fun _ x => x.1
theorem test_meets_DmtPrints_registers (h : DmtPrints) : ∃ t, exec (.dmtRegs 0 0 [0, 63, 64, 78, 256] [55, 256]) (st (mode wv (.handler 0))) = .next t :=
  let ⟨_, x, _⟩ := h.2.1 (st (mode wv (.handler 0))) 0 0 [0, 63, 64, 78, 256] [55, 256]
  ⟨_, x⟩
theorem dm_word : dmtSees dm 0 0x10 1 4 [(List.range 4).map fun j => ⟨.phys, 0x50010 + j⟩] := by
  refine ⟨rfl, fun i n => ?_⟩
  cases (show i = 0 by exact Nat.lt_one_iff.mp n)
  exact ⟨rfl, by decide +kernel⟩
/-- The word is code, and its bytes are asked for. -/
theorem test_meets_DmtPrints_memory (h : DmtPrints) : ∃ t, exec (.dmtMem 0 0x10 1 ⟨4, true⟩) dm = .next t :=
  ⟨_, (h.2.2.2.1 dm 0 1 4 0x10 _ dm_word [true] rfl (by intro i n; cases (show i = 0 by exact Nat.lt_one_iff.mp n); exact ⟨fun _ => ⟨_, rfl⟩, fun _ => rfl⟩)).1⟩
theorem test_meets_DmtPrints_home (h : DmtPrints) : ∃ t, exec (.dmtMem 0 0x10 1 ⟨4, false⟩) dm = .next t :=
  ⟨_, (h.2.2.2.1 dm 0 1 4 0x10 _ dm_word [true] rfl (by intro i n; cases (show i = 0 by exact Nat.lt_one_iff.mp n); exact ⟨fun _ => ⟨_, rfl⟩, fun _ => rfl⟩)).2
    (by intro e m l k; cases List.mem_singleton.mp m; obtain ⟨j, _, rfl⟩ := List.mem_map.mp k; exact .inl ⟨rfl, nofun⟩)⟩
theorem test_meets_DmtPrints_directory (h : DmtPrints) : ∃ t, exec (.dmtMemDir 0 0x10 1) dm = .next t :=
  ⟨_, h.2.2.2.2.1 dm 0 1 0x10 [⟨.phys, 0x50010⟩] rfl (by intro i n; cases (show i = 0 by exact Nat.lt_one_iff.mp n); rfl)⟩
/-- 2 bytes at 0x7F touch two lines. -/
theorem test_meets_DmtPrints_trace (h : DmtPrints) : ∃ t, exec (.dmtTrace (some 0) 0x7F 2) dm = .next t :=
  ⟨_, h.2.2.2.2.2.1 dm 0 2 2 0x7F [⟨.phys, 0x50000⟩, ⟨.phys, 0x50080⟩] (by decide) rfl rfl (by decide +kernel)⟩
theorem test_meets_DmtPrints_events (h : DmtPrints) : ∃ t, exec (.dmtTrace none 0 0) dm = .next t :=
  let ⟨_, x, _⟩ := h.2.2.2.2.2.2 dm 0 0
  ⟨_, x⟩
theorem test_meets_DmtTables_tree (h : DmtTables) : ∃ t, exec (.dmtSlalom 0 7) (um { live := true, trees := [(7, {})] }) = .next t :=
  let ⟨_, x, _⟩ := h.1 (um { live := true, trees := [(7, {})] }) 0 7 {} rfl
  ⟨_, x⟩
theorem test_meets_DmtTables_rink (h : DmtTables) : ∃ t, exec (.dmtRink 0 ⟨5, none⟩) (rkd 0 false) = .next t :=
  let ⟨_, x, _⟩ := (h.2.2 (rkd 0 false) 0 5 rk1 rfl).1
  ⟨_, x⟩
theorem test_meets_DmtTables_positions (h : DmtTables) : ∃ t, exec (.dmtRink 0 ⟨5, some (0, 15, 2)⟩) (rkd 0 false) = .next t :=
  let ⟨_, x, _⟩ := (h.2.2 (rkd 0 false) 0 5 rk1 rfl).2 0 15 2
  ⟨_, x⟩

/-! ## Decoding and steps -/

theorem test_meets_DecodeEncode (h : DecodeEncode) : Sys2Proof.decode (Sys2Proof.encode (.trap 5)) = some (.trap 5) := h (.trap 5) rfl rfl
theorem test_meets_EncodeDecode (h : EncodeDecode) : Sys2Proof.encode (.trap 5) = ([0x79, 0, 0, 0x0A] : List Sys2Proof.Byte) :=
  (h 0x79 [0, 0, 0x0A] (.trap 5) (by decide) (by decide +kernel)).2.2
/-- What an Except holds. -/
def okv {ε α : Type} : Except ε α → Option α
  | .ok a => some a
  | .error _ => none
/-- The machine after reset with one word where it fetches. -/
noncomputable def at0 (n x : Nat) : State := State.reset.withFetchWord n x
theorem at0_next (n x : Nat) (o : (at0 n x).tickTime.order.head? = some (0, 0)) (i : (at0 n x).inputs = []) (e : (at0 n x).evTurn = false)
    (b : (turned (at0 n x)).breaks 0 0 = false) (j : ((turned (at0 n x)).wave 0).inject = none) : unitNext (at0 n x) 0 0 := ⟨i, e, o, b, j⟩
/-- SRD s5, system register 5. -/
theorem srd_next : unitNext (at0 32 0x0A00A179) 0 0 :=
  at0_next _ _ (by decide +kernel) (by decide +kernel) (by decide +kernel) (by decide +kernel) (by decide +kernel)
/-- What unit (0, 0) fetches at the next step, and what the cursor then says. -/
noncomputable def fetched (s : State) : Except (Sys2Proof.Byte × Sys2Proof.DWord) (List Sys2Proof.Byte × State) :=
  let a := (turned s).aim 0 0
  a.fetch 0 a.cg.vd a.cur.pc
noncomputable def readied (x : List Sys2Proof.Byte × State) : State :=
  { x.2 with cur := { x.2.cur with nxt := x.2.cur.pc + BitVec.ofNat 64 x.1.length, opened := false, code := x.1 } }
/-- The unit fetches i, which completes. -/
noncomputable def readies (s : State) (i : Sys2Proof.Instr) : Bool :=
  match fetched s with
  | .ok x => decide (Sys2Proof.decode x.1 = some i) && match exec i (readied x) with
    | .next v => !v.cur.opened && !v.cur.stalled
    | _ => false
  | .error _ => false
theorem steps (h : StepRunsDecoded) (s : State) (i : Sys2Proof.Instr) (u : unitNext s 0 0) (r : readies s i = true) : ∃ t, step s = .next t := by
  unfold readies at r
  split at r
  · next x e =>
    simp only [Bool.and_eq_true, decide_eq_true_eq] at r
    obtain ⟨d, r⟩ := r
    split at r
    · next v q =>
      simp only [Bool.and_eq_true, Bool.not_eq_true'] at r
      exact ⟨_, (((h s 0 0 u).2.1 x.1 x.2 e).2 i v d q).1 r.1 r.2⟩
    · cases r
  · cases r
theorem test_meets_StepRunsDecoded (h : StepRunsDecoded) : ∃ t, step (at0 32 0x0A00A179) = .next t :=
  steps h _ (.srd 5 5) srd_next (by decide +kernel)
theorem zero_next : unitNext (at0 16 0) 0 0 :=
  at0_next _ _ (by decide +kernel) (by decide +kernel) (by decide +kernel) (by decide +kernel) (by decide +kernel)
/-- The bytes that the unit fetches. -/
noncomputable def fetches (s : State) : Option (List Sys2Proof.Byte) := match fetched s with | .ok x => some x.1 | .error _ => none
theorem fetches_ok {s : State} {bs : List Sys2Proof.Byte} (f : fetches s = some bs) : ∃ u, fetched s = .ok (bs, u) := by
  unfold fetches at f
  split at f
  · next x e => cases f; exact ⟨x.2, e⟩
  · cases f
theorem zero_fetches : fetches (at0 16 0) = some [0, 0] := by decide +kernel
theorem test_meets_StepRunsDecoded_none (h : StepRunsDecoded) : ∃ t, step (at0 16 0) = .next t := by
  obtain ⟨u, e⟩ := fetches_ok zero_fetches
  exact ⟨_, ((h _ 0 0 zero_next).2.1 [0, 0] u e).1 (by decide +kernel)⟩
theorem st_next : unitNext st 0 0 := ⟨rfl, rfl, by decide +kernel, by decide +kernel, rfl⟩
theorem test_meets_StepRunsDecoded_fetch (h : StepRunsDecoded) : ∃ t, step st = .next t := ⟨_, (h st 0 0 st_next).2.2.1 0x03 0x100 rfl⟩
theorem test_meets_FetchReads (h : FetchReads) : ∃ x, (at0 32 0x0A00A179).fetch 0 0 0 = .ok x := by
  have q : ∀ j, j < 4 → okv ((at0 32 0x0A00A179).fetchByte ((at0 32 0x0A00A179).wave 0) 0 (0 + BitVec.ofNat 64 j)) = some ⟨.phys, 0x50000 + j⟩ := by decide +kernel
  obtain ⟨t, x, -⟩ := h.1 (at0 32 0x0A00A179) 0 0 0 (fun j => ⟨.phys, 0x50000 + j⟩) (by unfold State.canon; decide +kernel) (by decide +kernel) (by decide +kernel)
    (by decide +kernel) (by
    intro j n
    have n : j < 4 := by split at n <;> omega
    refine ⟨?_, by show 0x50000 + j < 2 ^ 112; omega⟩
    have y := q j n
    revert y
    cases (at0 32 0x0A00A179).fetchByte ((at0 32 0x0A00A179).wave 0) 0 (0 + BitVec.ofNat 64 j) with
    | ok a => intro y; cases y; rfl
    | error e => intro y; cases y)
  exact ⟨_, x⟩
theorem test_meets_FetchReads_fault (h : FetchReads) : st.fetch 0 0 0x100 = .error (0x03, 0x100) := h.2.1 st 0 0 0x100 0x03 rfl
/-- The wave has fetched the sector before. -/
noncomputable def seen0 : State := { at0 32 0x0A00A179 with views := [(0, ⟨.phys, 0x50000⟩)] }
theorem test_meets_FetchReads_viewed (h : FetchReads) : ∃ x, seen0.fetch 0 0 0 = .ok x := by
  have q : ∀ j, j < 4 → okv (seen0.fetchByte (seen0.wave 0) 0 (0 + BitVec.ofNat 64 j)) = some ⟨.phys, 0x50000 + j⟩ := by decide +kernel
  obtain ⟨t, x, -⟩ := h.2.2 seen0 0 0 0 (fun j => ⟨.phys, 0x50000 + j⟩) (by decide +kernel) (by
    intro j n
    have n : j < 4 := by split at n <;> omega
    constructor
    · have y := q j n
      revert y
      cases seen0.fetchByte (seen0.wave 0) 0 (0 + BitVec.ofNat 64 j) with
      | ok a => intro y; cases y; rfl
      | error e => intro y; cases y
    · have e : (0x50000 + j) / 32 * 32 = 0x50000 := by omega
      show (0, (⟨.phys, (0x50000 + j) / 32 * 32⟩ : Loc)) ∈ _
      rw [e]; exact List.mem_singleton.mpr rfl)
  exact ⟨_, x⟩
theorem test_meets_StepOrder_input (h : StepOrder) : ∃ t, step { st with inputs := [.powerCeiling 500] } = .next t :=
  ⟨_, h.1 { st with inputs := [.powerCeiling 500] } (.powerCeiling 500) [] _ rfl rfl rfl⟩
def brk : State := st wv ga { live := true, dmt := true, breaks := [(0x100, none)] }
theorem test_meets_StepOrder_break (h : StepOrder) : ∃ t, step brk = .next t :=
  ((h.2.1 brk 0 0 rfl rfl (by decide +kernel)).1 (by decide +kernel)).elim fun _ x => ⟨_, x.1⟩
theorem test_meets_StepOrder_inject (h : StepOrder) : ∃ t, step (st { wv with inject := some 9 }) = .next t :=
  ⟨_, (h.2.1 (st { wv with inject := some 9 }) 0 0 rfl rfl (by decide +kernel)).2 9 (by decide +kernel) rfl⟩
def evt : State := { fly (.svalue (.scl .wave 9 1) [{}]) with evTurn := true }
theorem test_meets_StepOrder_event (h : StepOrder) : ∃ t, step evt = .next t :=
  ⟨_, h.2.2.1 evt rfl rfl ((turned evt).event?.get (by decide +kernel)) (Option.some_get _).symm⟩
theorem dmt_never (s : State) (v : (s.vds.all fun v => !v.dmt) = true) (d : Nat) : (s.vd d).dmt = false := by
  unfold State.vd
  rw [List.getD_eq_getElem?_getD]
  cases e : s.vds[d]? with
  | none => rfl
  | some x => simpa using List.all_eq_true.mp v x (List.mem_of_getElem? e)
theorem test_meets_StepOrder_kept (h : StepOrder) : kept st = st.settle := h.2.2.2 st (dmt_never _ (by decide +kernel)) (by decide +kernel)
theorem test_meets_StepRunsDecoded_after (h : StepRunsDecoded) : (turned st).after st 0 0 = (st.credit 0 (.wave 0 st.cur.code .weak)).counted 0 0 :=
  (h st 0 0 st_next).2.2.2 st (dmt_never _ (by decide +kernel))

/-! ## Single rules -/

theorem test_meets_PinReads (h : Obligations.PinReads) : ∃ t, exec (.pinrd 63 0) st = .next t := (h.1 st 63 0 (by decide +kernel)).imp fun _ x => x.1
theorem test_meets_PinReads_ill (h : Obligations.PinReads) : ∃ t, exec (.pinrd 0 17) (st (mode wv (.handler 0))) = .next t :=
  ⟨_, h.2 (st (mode wv (.handler 0))) 0 17 (by decide +kernel)⟩
theorem test_meets_PositionAdvances (h : Obligations.PositionAdvances) : ∃ t, exec (.vradv 2) st = .next t := ⟨_, h.1 st 2 (by decide +kernel)⟩
theorem test_meets_PositionAdvances_waits (h : Obligations.PositionAdvances) : ∃ t, exec (.vradv 1) (st (setF wv 0 fun f => { f with s := f.s.set 1 { st := .empty } })) = .next t :=
  ⟨_, (h.2.1 (st (setF wv 0 fun f => { f with s := f.s.set 1 { st := .empty } })) 1 (by decide +kernel)).1 rfl⟩
theorem test_meets_PositionAdvances_poison (h : Obligations.PositionAdvances) : ∃ t, exec (.vradv 1) (st (setF wv 0 fun f => { f with s := f.s.set 1 { st := .poison } })) = .next t :=
  ⟨_, (h.2.1 (st (setF wv 0 fun f => { f with s := f.s.set 1 { st := .poison } })) 1 (by decide +kernel)).2 rfl⟩
theorem test_meets_PositionAdvances_word (h : Obligations.PositionAdvances) : natOf [0xA9, 0x81, 0, 0] = 0x14 * 2 + 1 + 3 * 2 ^ 7 + 1 * 2 ^ 15 :=
  h.2.2 0xA9 [0x81, 0, 0] 1 (by decide) (by decide +kernel)
theorem test_meets_StreamSet (h : Obligations.StreamSet) : ∃ t, exec (.setrng 2 63) st = .next t :=
  (h.1 st 2 63 (by decide +kernel) (by decide +kernel) (by decide)).imp fun _ x => x.1
theorem test_meets_StreamSet_waits (h : Obligations.StreamSet) : ∃ t, exec (.setrng 1 63) (st (setF wv 0 fun f => { f with s := f.s.set 1 { st := .empty } })) = .next t :=
  ⟨_, h.2.1 (st (setF wv 0 fun f => { f with s := f.s.set 1 { st := .empty } })) 1 63 (by decide +kernel) (by decide +kernel) rfl⟩
theorem test_meets_DeferredList (h : Obligations.DeferredList) : ((rkd 15 true).request 0 0x0100000000000005 (.pages [])).1 = .deferred :=
  ((h.2 (rkd 15 true) 0 0x0100000000000005 (.pages []) (by decide +kernel) (by decide)).1 (by decide +kernel)).1
theorem test_meets_DeferredList_full (h : Obligations.DeferredList) : (rkd 16 true).request 0 0x0100000000000005 (.pages []) = (.full, rkd 16 true) :=
  (h.2 (rkd 16 true) 0 0x0100000000000005 (.pages []) (by decide +kernel) (by decide)).2 (by decide +kernel)
theorem test_meets_ZeroHalfword (h : Obligations.ZeroHalfword) : ∃ t, step (at0 16 0) = .next t := by
  obtain ⟨u, e⟩ := fetches_ok zero_fetches
  exact ⟨_, h.2 _ u 0 0 zero_next e⟩

/-! ## Words of the spec -/

open Sys2Proof in
/-- The instruction that a word holds, its bytes lowest first (R47). -/
noncomputable def word (w : Nat) : Option Instr := decode (bytesOf 4 w)

/-- R50, R52, R54: the worked encodings of 03_formats.md. -/
theorem test_decode_formats : Sys2Proof.decode [0xB2, 0xE8] = some (.cAddi ⟨29, 5⟩) ∧ word 0x0018687F = some (.immx 781) ∧
    word 0x04020611 = some (.vaddi ⟨32, 0, 0, 0, 4, 3⟩) ∧ word 0x87A20611 = some (.vaddi ⟨0x7D, 0, 0, 0, 4, 3⟩) ∧
    Sys2Proof.decode [0x99, 0x11, 0xA1, 0xA8] = some (.vfma ⟨1, 0, 1, 1, 5, 2, 8⟩) ∧ word 1 = none ∧ word 0x7B = none := by decide +kernel
/-- R72: the prefix and the atomic of 05_mnemonics.md, and its fence. -/
theorem test_decode_order : word 0x000108FF = some (.obs 1 1) ∧ word 0x02021855 = some (.atom ⟨0, 0, 4, 1, 3, 0⟩) ∧
    word 0x8600005D = some (.fence 2 3) := by decide +kernel
/-- The reduction and the shuffles of 22_prog_ntt.md. -/
theorem test_decode_vector : word 0x00859905 = some (.vmulhz ⟨0, 0, 0, 0, 4, 11, 12⟩) ∧ word 0x00661805 = some (.vmul ⟨0, 0, 0, 0, 3, 12, 12⟩) ∧
    word 0x01859683 = some (.vsub ⟨0, 0, 0, 0, 12, 11, 11⟩) ∧ word 0x0161858B = some (.vcmples ⟨0, 0, 0, 0, 11, 3, 2⟩) ∧
    word 0x10659683 = some (.vsub ⟨0, 0, 0, 2, 3, 11, 11⟩) ∧ word 0x02008CAB = some (.vshflx ⟨0, 0, 0, 16, 1, 6⟩) ∧
    word 0x09650A0F = some (.vsel ⟨0, 0, 0, 1, 11, 10, 5⟩) ∧ word 0x01209A2B = some (.vshfl ⟨0, 0, 0, 0, 9, 1, 13⟩) := by decide +kernel
/-- R131-R144: control. -/
theorem test_decode_control : word 0x1000006F = some (.vpart 8) ∧ word 0xEF = some .vxacq ∧ word 0x16F = some .vxrel ∧
    word 0x021002EF = some (.exmask 1 2) ∧ word 0x80BF = some (.call 0x80) ∧ word 0x141 = some .ret ∧ word 0x1C1 = some .join ∧
    word 0x241 = some .exit ∧ word 0x2C1 = some .yield ∧ word 0x341 = some .nop32 ∧ word 0xA441 = some (.elect 5) := by decide +kernel
/-- R172, R173, R220, R222: caches and tiles. -/
theorem test_decode_memory : word 0x2D1 = some .l1drop ∧ word 0x15D = some .fencei ∧ word 0xDD = some .oprdy ∧
    word 0x3863 = some (.mzero 7) ∧ word 0x003C0163 = some (.mstt ⟨0, 30, 0⟩) ∧
    word 0x05109861 = some (.mma ⟨0, 10, 8, 0, 1, 3, 0⟩) ∧ word 0x27192961 = some (.mma ⟨1, 14, 12, 1, 0, 5, 2⟩) := by decide +kernel
/-- R235, R243, R262-R268, R293: queues and tasks. -/
theorem test_decode_queues : word 0x01C001E9 = some (.qclose 56) ∧ word 0x04000269 = some (.cqfence 0 2) ∧ word 0x10000269 = some (.cqfence 1 0) ∧
    word 0x038C286D = some (.tasknew ⟨7, 6, 5⟩) ∧ word 0x038C28ED = some (.taskdep ⟨7, 6, 5⟩) ∧ word 0x0001416D = some (.taskget 40) ∧
    word 0x005001ED = some (.taskdone 40 0) ∧ word 0x05944A6D = some (.lnch ⟨11, 10, 9⟩) ∧ word 0x4D10C2E5 = some (.cpyrk ⟨2, 26, 8, 24⟩) := by decide +kernel
/-- R278-R292: rinks. -/
theorem test_decode_rink : word 0x08840D73 = some (.rkstK ⟨1, 4, 8, 6⟩) ∧ word 0x008414F3 = some (.rkldV ⟨0, 4, 8, 10⟩) ∧
    word 0x2A90A075 = some (.rkalloc ⟨1, 21, 8, 20⟩) ∧ word 0x0B1000F5 = some (.rkpub ⟨22, 8, 0⟩) ∧ word 0x0C10B975 = some (.rkacq ⟨24, 8, 23⟩) ∧
    word 0x0B10CA75 = some (.rkvoid ⟨22, 8, 25⟩) ∧ word 0x001059F5 = some (.rksnap ⟨0, 0, 8, 11⟩) := by decide +kernel
/-- R298-R311: Slalom. -/
theorem test_decode_slalom : word 0x0010A077 = some (.sldesc 8 20) ∧ word 0x0C10A8F7 = some (.slexp ⟨24, 8, 21⟩) ∧
    word 0x0D100177 = some (.slback ⟨26, 8, 0⟩) ∧ word 0x0B90B1F7 = some (.slpick ⟨23, 8, 22⟩) ∧ word 0x0B10CA77 = some (.slroot ⟨22, 8, 25⟩) ∧
    word 0x0D90CAF7 = some (.slprune ⟨27, 8, 25⟩) ∧ word 0x0B10F377 = some (.slread ⟨22, 8, 30⟩) ∧ word 0x0A90A3F7 = some (.slnew ⟨21, 8, 20⟩) ∧
    word 0x0E100477 = some (.slcfg ⟨28, 8, 0⟩) := by decide +kernel
/-- R324-R327, R331-R348: pins, barriers, counters. -/
theorem test_decode_counters : word 0x00500071 = some (.pin 10 0) ∧ word 0xF1 = some (.unpin 0) ∧ word 0x009AA171 = some (.recl ⟨0, 19, 21⟩) ∧
    word 0x0010A1F1 = some (.pinrd 2 5) ∧ word 0x0A0282E7 = some (.nbarinit 5 20) ∧ word 0x08000367 = some (.nbararr 4) ∧
    word 0x080003E7 = some (.nbarwait 4) ∧ word 0x06000467 = some (.nbarsync 3) ∧ word 0x1060A1E7 = some (.barwarr ⟨8, 12, 5⟩) ∧
    word 0x0060A267 = some (.barwwait 12 5) ∧ word 0x00DB4067 = some (.syncinit 27 26) ∧ word 0x00D800E7 = some (.syncwait 27 0) ∧
    word 0x00DB4167 = some (.syncadd 27 26) ∧ word 0x405F = some (.waitc 0 2) ∧ word 0x605F = some (.waitc 0 3) ∧
    word 0x0203A0DF = some (.waitr 1 29) ∧ word 0x0200015F = some (.waita ⟨1, 0, 0⟩) ∧ word 0xE379 = some (.time 7) ∧
    word 0x0030A36F = some (.setrng 6 5) ∧ word 0x829 = some (.vrand 0 4) ∧ word 0x08000AA9 = some (.vrandf 1 5) ∧
    word 0x00041329 = some (.vgumb ⟨0, 0, 0, 8, 9⟩) ∧ word 0x000581A9 = some (.vradv 11) := by decide +kernel
/-- R363-R374: traps and saved state. -/
theorem test_decode_traps : word 0x0A000079 = some (.trap 5) ∧ word 0xF9 = some .rett ∧ word 0x0A00A179 = some (.srd 5 5) ∧
    word 0x122001F9 = some (.swr 9 4) ∧ word 0x0438C279 = some (.wfe ⟨2, 7, 6⟩) ∧ word 0x064802F9 = some (.evsig 3 9) ∧
    word 0x020003F9 = some (.halt 1) ∧ word 0x26F = some (.rwp 0) := by decide +kernel
/-- Words written out from their format pictures (R52): major, sub and fields, bit by bit. -/
theorem test_decode_built :
    word (1 + 0x21 * 2 ^ 1 + 2 * 2 ^ 7 + 52 * 2 ^ 9 + 63 * 2 ^ 15 + 55 * 2 ^ 21 + 3 * 2 ^ 27 + 1 * 2 ^ 29 + 1 * 2 ^ 31) = some (.vldB128 ⟨1, 1, 3, 55, 63, 52⟩) ∧
    word (1 + 0x23 * 2 ^ 1 + 1 * 2 ^ 7 + 54 * 2 ^ 9 + 1 * 2 ^ 15 + 2 * 2 ^ 21 + 3 * 2 ^ 29) = some (.vstB64 ⟨3, 0, 2, 1, 54⟩) ∧
    word (1 + 0x1A * 2 ^ 1 + 7 * 2 ^ 7 + 63 * 2 ^ 10 + 1 * 2 ^ 16 + 0x3FF * 2 ^ 22) = some (.smuli ⟨0x3FF, 1, 63⟩) ∧
    word (1 + 0x1E * 2 ^ 1 + 7 * 2 ^ 7 + 7 * 2 ^ 10 + 0x8000 * 2 ^ 16) = some (.brv ⟨0x8000, 7⟩) := by decide +kernel

/-! ## Ill-formed instructions (R53, R56, R59) -/

open Sys2Proof in
/-- A register move of v0 to v0 is the halfword 0. H with a queue port. A predicate above k7. -/
theorem test_illformed_vector : Instr.wf (.cMov ⟨0, 0⟩) = false ∧ Instr.wf (.vadd ⟨0, 0, 1, 0, 0, 56, 0⟩) = false ∧
    Instr.wf (.vcmpeq ⟨0, 0, 0, 0, 0, 0, 8⟩) = false ∧ Instr.wf (.vcvt ⟨0, 0, 0, 48, 0, 0, 0⟩) = false ∧
    Instr.wf (.vsfu ⟨0, 0, 0, 8, 0, 0, 0⟩) = false ∧ Instr.wf (.kand ⟨8, 0, 0⟩) = false ∧ Instr.wf (.knot ⟨0, 8⟩) = false ∧
    Instr.wf (.bkany ⟨0, 8⟩) = false := by decide +kernel
open Sys2Proof in
theorem test_illformed_prefix : Instr.wf (.obs 0 1) = false ∧ Instr.wf (.obs 5 1) = false ∧ Instr.wf (.obs 1 0) = false ∧
    Instr.wf (.hint 5) = false ∧ Instr.wf (.fence 0 0) = false ∧ Instr.wf (.setobs 0 0) = false := by decide +kernel
open Sys2Proof in
/-- A load that releases, a store that acquires, pairs and quads, atomics of no operation or port, runs past s63. -/
theorem test_illformed_memory : Instr.wf (.vldB32 ⟨0, 3, 0, 0, 0, 0⟩) = false ∧ Instr.wf (.vstB32 ⟨2, 0, 0, 0, 0⟩) = false ∧
    Instr.wf (.vldB64 ⟨0, 0, 0, 0, 0, 1⟩) = false ∧ Instr.wf (.vldB128 ⟨0, 0, 0, 0, 0, 54⟩) = false ∧ Instr.wf (.vstlB128 ⟨0, 0, 0, 2⟩) = false ∧
    Instr.wf (.bankmode 3 0 0) = false ∧ Instr.wf (.msvaddBf16 ⟨62, 0, 0⟩) = false ∧ Instr.wf (.msvfill ⟨63, 0, 0⟩) = false ∧
    Instr.wf (.atom ⟨0, 0, 0, 0, 0, 15⟩) = false ∧ Instr.wf (.atom ⟨0, 0, 56, 0, 0, 0⟩) = false ∧ Instr.wf (.atom ⟨0, 0, 0, 0, 1, 9⟩) = false ∧
    Instr.wf (.atom64 ⟨0, 0, 0, 0, 0, 10⟩) = false ∧ Instr.wf (.atom64 ⟨0, 0, 0, 0, 2, 9⟩) = false ∧ Instr.wf (.atompk ⟨0, 0, 0, 0, 1, 0⟩) = false ∧
    Instr.wf (.satom ⟨10, 0, 0, 0, 0⟩) = false ∧ Instr.wf (.satom ⟨9, 63, 0, 0, 0⟩) = false := by decide +kernel
open Sys2Proof in
theorem test_illformed_engines : Instr.wf (.mma ⟨0, 0, 0, 0, 0, 0, 12⟩) = false ∧ Instr.wf (.mma ⟨1, 0, 0, 0, 0, 0, 6⟩) = false ∧
    Instr.wf (.mldt ⟨3, 0, 0⟩) = false ∧ Instr.wf (.mscale ⟨2, 0, 0⟩) = false ∧ Instr.wf (.cpyg2l ⟨0, 63, 0, 0⟩) = false ∧
    Instr.wf (.cpygath ⟨0, 61, 0, 0⟩) = false ∧ Instr.wf (.qcfg 0 55) = false ∧ Instr.wf (.qtry 0 55 0) = false ∧ Instr.wf (.qtry 0 56 56) = false ∧
    Instr.wf (.qclose 55) = false ∧ Instr.wf (.cqfence 1 1) = false ∧ Instr.wf (.rdep 0 0 56) = false ∧ Instr.wf (.tasknew ⟨63, 0, 0⟩) = false ∧
    Instr.wf (.taskget 0) = false ∧ Instr.wf (.taskget 60) = false := by decide +kernel
open Sys2Proof in
theorem test_illformed_counters : Instr.wf (.waitc 0 8) = false ∧ Instr.wf (.waitr 0 56) = false ∧ Instr.wf (.waita ⟨0, 0, 4⟩) = false ∧
    Instr.wf (.barwarr ⟨0, 0, 0⟩) = false ∧ Instr.wf (.barwarr ⟨65, 0, 0⟩) = false ∧ Instr.wf (.nbarinit 16 0) = false ∧ Instr.wf (.nbararr 16) = false ∧
    Instr.wf (.vpart 3) = false ∧ Instr.wf (.exmask 3 0) = false ∧ Instr.wf (.exmask 0 8) = false ∧ Instr.wf (.exmask 2 1) = false ∧
    Instr.wf (.pin 0 8) = false ∧ Instr.wf (.pinrd 8 0) = false ∧ Instr.wf (.recl ⟨0, 63, 0⟩) = false ∧ Instr.wf (.srd 15 0) = false ∧
    Instr.wf (.swr 15 0) = false ∧ Instr.wf (.wfe ⟨16, 0, 0⟩) = false := by decide +kernel
open Sys2Proof in
theorem test_illformed_tables : Instr.wf (.rkpub ⟨63, 0, 0⟩) = false ∧ Instr.wf (.slexp ⟨62, 0, 0⟩) = false ∧ Instr.wf (.slback ⟨63, 0, 0⟩) = false ∧
    Instr.wf (.slread ⟨0, 0, 0⟩) = false ∧ Instr.wf (.slread ⟨0, 0, 60⟩) = false ∧ Instr.wf (.slcfg ⟨63, 0, 0⟩) = false := by decide +kernel

/-! ## One instruction, with the value the spec gives -/

/-- The state that an instruction leaves. -/
def ran (o : Host.Outcome State Fault Refusal) : State := match o with
  | .next t => t
  | _ => {}
/-- Lanes 0 of v1 to v4 as given. -/
def lanes (a b c d : Nat) : State := st { wv with v := {} :: vr (fun _ => a) :: vr (fun _ => b) :: vr (fun _ => c) :: vr (fun _ => d) :: List.replicate 51 {} }
/-- The reduction of 22_prog_ntt.md: z × m high is 7,469, and z less 7,469 q is 2,647. -/
theorem test_vmulhz : ((ran (exec (.vmulhz ⟨0, 0, 0, 0, 2, 1, 5⟩) (lanes 91789188 349496 0 0))).cw.v.getD 5 {}).lane 0 = 7469 := by decide +kernel
theorem test_vmul_vsub : ((ran (exec (.vsub ⟨0, 0, 0, 0, 2, 1, 5⟩) (lanes 91789188 (7469 * 12289) 0 0))).cw.v.getD 5 {}).lane 31 = 2647 := by decide +kernel
/-- R103: VADDSZ saturates, VADD wraps. -/
theorem test_vaddsz : ((ran (exec (.vaddsz ⟨0, 0, 0, 0, 2, 1, 5⟩) (lanes 0xFFFFFFFF 2 0 0))).cw.v.getD 5 {}).lane 0 = 0xFFFFFFFF := by decide +kernel
theorem test_vadd : ((ran (exec (.vadd ⟨0, 0, 0, 0, 2, 1, 1⟩) (lanes 0xFFFFFFFF 2 0 0))).cw.v.getD 1 {}).lane 7 = 1 := by decide +kernel
/-- 11_matrix.md: a chain of VFMA over 2^-13 × 2^-12 rounds 1 + 2^-25 to 1.0. -/
theorem test_vfma : ((ran (exec (.vfma ⟨0, 0, 0, 0, 2, 1, 3⟩) (lanes 0x39000000 0x39800000 0x3F800000 0))).cw.v.getD 3 {}).lane 0 = 0x3F800000 := by decide +kernel
/-- 12_queues.md: 2^-23 + 1.0 is 0x3F800001, and 2^-24 + 1.0 is 1.0, to even. -/
theorem test_vfadd : ((ran (exec (.vfadd ⟨0, 0, 0, 0, 2, 1, 5⟩) (lanes 0x34000000 0x3F800000 0 0))).cw.v.getD 5 {}).lane 0 = 0x3F800001 := by decide +kernel
theorem test_vfadd_even : ((ran (exec (.vfadd ⟨0, 0, 0, 0, 2, 1, 5⟩) (lanes 0x33800000 0x3F800000 0 0))).cw.v.getD 5 {}).lane 0 = 0x3F800000 := by decide +kernel
/-- R345, R346: the worked draw of 17_counters.md. -/
theorem test_vrandf : let t := ran (exec (.vrandf 0 5) st)
    (t.cw.v.getD 5 {}).lane 0 = 0x33000000 ∧ t.cw.rngc = 1 := by decide +kernel
/-- R135: EXMASK k1, 0 with lanes 0 to 7 set in k1. -/
theorem test_exmask : (ran (exec (.exmask 0 1) st)).cf.exm = 0xFF := by decide +kernel
/-- R368: TRAP 5 with a vector that enters the handler at 0x2000: cause 0x11, the code, and EPC after it. -/
def tv : State := st wv ga { live := true, vectors := (List.replicate 32 0).set 0x11 (0x2000 + 1 * 2 ^ 64) }
theorem test_trap : let t := ran (exec (.trap 5) tv)
    t.cw.trapc.extractLsb' 0 8 = 0x11 ∧ t.cw.trapa = 5 ∧ (t.cw.frags.getD 0 {}).epc = 0x104 ∧ t.cw.mode = .handler 0 ∧ t.cw.hpc = 0x2000 := by decide +kernel
/-- R137, R22: BRV on k1 with lanes 0 to 7 carves the eight off, a smaller side, as fragment 1. -/
theorem test_brv : let t := ran (exec (.brv ⟨0x10, 1⟩) st)
    (t.cw.frags.getD 1 {}).live = true ∧ (t.cw.frags.getD 1 {}).lanes = 0xFF ∧ t.cf.lanes = 0xFFFFFF00 ∧ (t.cw.frags.getD 1 {}).pc = 0x120 := by decide +kernel
/-- R119: 64-bit division; a divisor of 0. -/
theorem test_sdivz : ((ran (exec (.sdivz ⟨3, 2, 9, 0⟩) st)).sreg 9).val = 8 := by decide +kernel
/-- R57, R118: SMOVI s5, 7 as the first instruction after reset, written out bit by bit: one step runs it. -/
theorem test_step : let t := ran (step (at0 32 (1 + 0x1B * 2 ^ 1 + 5 * 2 ^ 10 + 7 * 2 ^ 16)))
    ((t.wave 0).frags.getD 0 {}).pc = 4 ∧ (((t.wave 0).frags.getD 0 {}).s.getD 5 {}).val = 7 := by decide +kernel

end Sys2Proof.Tests
end

section
/-! The halfword 0x0000 (R51), and what it needs: that memory, fetch, traps and the passing of time leave the inputs, the
turn of events and the cursor as they are, and what a step does with a unit that runs to its end. -/
namespace Sys2Proof.Machine

/-! ## The agenda

A step chooses what it does by its inputs and by the turn of events, and runs the unit under the cursor. No operation on
memory, queues, tasks, waves or gangs changes any of the three. -/

/-- What the choice of a step and the unit in hand rest on. -/
def State.agenda (s : State) : List Instr × Bool × Cursor := (s.inputs, s.evTurn, s.cur)

theorem agenda_eq_iff {s t : State} : t.agenda = s.agenda ↔ t.inputs = s.inputs ∧ t.evTurn = s.evTurn ∧ t.cur = s.cur := by
  simp [State.agenda]

/-- Operations that each keep the agenda, one after another, keep it. -/
theorem foldl_agenda {α : Type} {f : State → α → State} (hf : ∀ u a, (f u a).agenda = u.agenda) (l : List α) (s : State) :
    (l.foldl f s).agenda = s.agenda :=
  foldl_keeps (P := fun u : State => u.agenda = s.agenda) (fun u a h => (hf u a).trans h) l s rfl

@[simp] theorem State.modWave_agenda (s : State) (w : Nat) (f : Wave → Wave) : (s.modWave w f).agenda = s.agenda := rfl
@[simp] theorem State.modCw_agenda (s : State) (f : Wave → Wave) : (s.modCw f).agenda = s.agenda := rfl
@[simp] theorem State.modGang_agenda (s : State) (g : Nat) (f : Gang → Gang) : (s.modGang g f).agenda = s.agenda := rfl
@[simp] theorem State.modVd_agenda (s : State) (d : Nat) (f : Vd → Vd) : (s.modVd d f).agenda = s.agenda := rfl
@[simp] theorem State.modLaunch_agenda (s : State) (l : Nat) (f : Launch → Launch) : (s.modLaunch l f).agenda = s.agenda := rfl
@[simp] theorem State.modPort_agenda (s : State) (p : Nat) (f : Port → Port) : (s.modPort p f).agenda = s.agenda := rfl
@[simp] theorem State.setTask_agenda (s : State) (t : Task) : (s.setTask t).agenda = s.agenda := rfl
@[simp] theorem State.setHome_agenda (s : State) (h : Home) : (s.setHome h).agenda = s.agenda := rfl
@[simp] theorem State.setDir_agenda (s : State) (h : Nat) (v : Option HalfSt) : (s.setDir h v).agenda = s.agenda := rfl
@[simp] theorem State.setBridge_agenda (s : State) (h : Nat) (v : Option HalfSt) : (s.setBridge h v).agenda = s.agenda := rfl
@[simp] theorem State.putRaw_agenda (s : State) (l : Loc) (b : Byte) (p : Bool) : (s.putRaw l b p).agenda = s.agenda := rfl
@[simp] theorem State.zero_agenda (s : State) (l : Loc) (n : Nat) : (s.zero l n).agenda = s.agenda := rfl
@[simp] theorem State.victim_agenda (s : State) (n : Nat) : (s.victim n).2.agenda = s.agenda := rfl
@[simp] theorem State.evictee_agenda (s : State) (ks : List Keep) : (s.evictee ks).2.agenda = s.agenda := rfl

/-! ## Memory and its caches keep the agenda -/

@[simp] theorem State.putRaws_agenda (s : State) (l : Loc) (bs : List (Byte × Bool)) :
    (s.putRaws l bs).agenda = s.agenda :=
  foldl_keeps (P := fun q : State × Nat => q.1.agenda = s.agenda) (fun _ _ h => by exact h) bs (s, 0) rfl

@[simp] theorem State.putHbm_agenda (s : State) (l : Loc) (b : Byte) (p : Bool) : (s.putHbm l b p).agenda = s.agenda := by
  unfold State.putHbm
  dsimp only
  split <;> rfl

@[simp] theorem State.llcDirty_agenda (s : State) (l : Loc) (n : Nat) : (s.llcDirty l n).agenda = s.agenda := rfl
@[simp] theorem State.llcDrop_agenda (s : State) (l : Loc) : (s.llcDrop l).agenda = s.agenda := rfl

@[simp] theorem State.llcClean_agenda (s : State) (l : Loc) : (s.llcClean l).agenda = s.agenda := by
  unfold State.llcClean
  dsimp only
  split
  · rfl
  · dsimp only [State.agenda]
    refine foldl_agenda (fun u i => ?_) (List.range 128) s
    split <;> simp

@[simp] theorem State.llcRoom_agenda (s : State) (l : Loc) : (s.llcRoom l).agenda = s.agenda := by
  unfold State.llcRoom
  dsimp only
  split
  · rfl
  · split <;> simp

@[simp] theorem State.llcFill_agenda (s : State) (l : Loc) : (s.llcFill l).agenda = s.agenda := by
  unfold State.llcFill
  dsimp only
  split
  · rfl
  · dsimp only [State.agenda]
    exact (State.putRaws_agenda ..).trans (State.llcRoom_agenda ..)

@[simp] theorem State.exchange_agenda (s : State) (k : BridgeAct) (h : Loc) (a b : Option HalfSt) (d : List Byte) :
    (s.exchange k h a b d).agenda = s.agenda := by
  unfold State.exchange
  split <;> rfl

@[simp] theorem State.mergeHalf_agenda (s : State) (h : Nat) : (s.mergeHalf h).agenda = s.agenda := by
  simp [State.mergeHalf]

@[simp] theorem State.bridgeDrop_agenda (s : State) (h : Nat) : (s.bridgeDrop h).agenda = s.agenda := by
  unfold State.bridgeDrop
  dsimp only
  split <;> simp

@[simp] theorem State.bridgeEvict_agenda (s : State) : s.bridgeEvict.agenda = s.agenda := by
  unfold State.bridgeEvict
  dsimp only
  split
  · split
    · exact State.bridgeDrop_agenda ..
    · rfl
  · rfl

@[simp] theorem State.bridgeFetch_agenda (s : State) (h : Nat) : (s.bridgeFetch h).agenda = s.agenda := by
  unfold State.bridgeFetch
  split
  · rfl
  · simp only [State.exchange_agenda, State.setBridge_agenda, State.putRaws_agenda]
    exact State.bridgeEvict_agenda s

@[simp] theorem State.writeTouch_agenda (s : State) (l : Loc) : (s.writeTouch l).agenda = s.agenda := by
  unfold State.writeTouch
  dsimp only
  split
  · split <;> simp
  all_goals simp

@[simp] theorem State.homePut_agenda (s : State) (l : Loc) (b : Byte) (p : Bool) : (s.homePut l b p).agenda = s.agenda := by
  unfold State.homePut
  dsimp only
  split <;> simp

@[simp] theorem State.homePuts_agenda (s : State) (l : Loc) (bs : List (Byte × Bool)) :
    (s.homePuts l bs).agenda = s.agenda :=
  foldl_keeps (P := fun q : State × Nat => q.1.agenda = s.agenda)
    (fun q b h => (q.1.homePut_agenda (l.plus q.2) b.1 b.2).trans h) bs (s, 0) rfl

@[simp] theorem State.dropCopy_agenda (s : State) (h : Space) (l : Loc) : (s.dropCopy h l).agenda = s.agenda := rfl

/-! ## A fetch keeps the agenda -/

@[simp] theorem State.dropSectors_agenda (s : State) (k : Nat) (p : Loc → Bool) : (s.dropSectors k p).agenda = s.agenda :=
  foldl_agenda (fun u (x : Nat × Loc) => u.zero_agenda ⟨.ic k, x.2.tagged⟩ 32) _ s

@[simp] theorem State.icRoom_agenda (s : State) (k : Nat) (l : Loc) : (s.icRoom k l).agenda = s.agenda := by
  unfold State.icRoom
  dsimp only
  split <;> simp

@[simp] theorem State.fillSector_agenda (s : State) (k : Nat) (l : Loc) : (s.fillSector k l).agenda = s.agenda := by
  unfold State.fillSector
  dsimp only
  split
  · rfl
  · dsimp only [State.agenda]
    exact (State.putRaws_agenda ..).trans (State.icRoom_agenda ..)

theorem agenda_with_views (s : State) (v : List (Nat × Loc)) : ({ s with views := v } : State).agenda = s.agenda := rfl

@[simp] theorem State.viewSector_agenda (s : State) (w k : Nat) (l : Loc) : (s.viewSector w k l).agenda = s.agenda := by
  unfold State.viewSector
  dsimp only
  split
  · rfl
  · refine (agenda_with_views (State.putRaws _ _ _) _).trans ?_
    rw [State.putRaws_agenda]
    split
    · exact State.fillSector_agenda ..
    · split
      · rfl
      · rw [State.fillSector_agenda, State.dropSectors_agenda]
        rfl

@[simp] theorem State.tlbFill_agenda (s : State) (k d : Nat) (tag : Byte) (off : Nat) :
    (s.tlbFill k d tag off).agenda = s.agenda := by
  unfold State.tlbFill
  split <;> rfl

/-- One byte of an instruction, as `State.fetch` reads each: `fetch_eq`. -/
def State.fetchOne (s : State) (w : Wave) (n d : Nat) (a : DWord) : Except (Byte × DWord) (Byte × State) :=
  match s.fetchByte w d a with
  | .error c => .error (c, a)
  | .ok l => .ok ((s.viewSector n w.coreNo l).codeByte n l, (s.viewSector n w.coreNo l).tlbFill w.coreNo d 0 a.toNat)

theorem fetch_eq (s : State) (n d : Nat) (pc : DWord) : s.fetch n d pc = (do
    let (b0, s0) ← s.fetchOne (s.wave n) n d pc
    let (b1, s1) ← s0.fetchOne (s.wave n) n d (pc + 1)
    if b0.toNat % 2 = 0 then .ok ([b0, b1], s1)
    else
      let (b2, s2) ← s1.fetchOne (s.wave n) n d (pc + 2)
      let (b3, s3) ← s2.fetchOne (s.wave n) n d (pc + 3)
      .ok ([b0, b1, b2, b3], s3)) := rfl

/-- `bind_eq_ok` for any type of errors: a fetch fails with a cause and an address. -/
theorem exceptBind_eq_ok {ε α β : Type} {x : Except ε α} {f : α → Except ε β} {b : β} :
    (x >>= f) = .ok b ↔ ∃ a, x = .ok a ∧ f a = .ok b := by
  cases x <;> simp [bind, Except.bind]

theorem fetchOne_agenda {s t : State} {w : Wave} {n d : Nat} {a : DWord} {b : Byte}
    (h : s.fetchOne w n d a = .ok (b, t)) : t.agenda = s.agenda := by
  unfold State.fetchOne at h
  split at h
  · cases h
  · cases h
    simp

/-- A fetch keeps the agenda. -/
theorem fetch_agenda {s t : State} {n d : Nat} {pc : DWord} {bs : List Byte} (h : s.fetch n d pc = .ok (bs, t)) :
    t.agenda = s.agenda := by
  simp only [fetch_eq, exceptBind_eq_ok] at h
  obtain ⟨⟨b0, s0⟩, h0, ⟨b1, s1⟩, h1, h⟩ := h
  have c1 : s1.agenda = s.agenda := (fetchOne_agenda h1).trans (fetchOne_agenda h0)
  split at h
  · cases h
    exact c1
  · simp only [exceptBind_eq_ok] at h
    obtain ⟨⟨b2, s2⟩, h2, ⟨b3, s3⟩, h3, h⟩ := h
    cases h
    exact (fetchOne_agenda h3).trans ((fetchOne_agenda h2).trans c1)

/-! ## Queues, tasks and the ends of waves and gangs keep the agenda -/

@[simp] theorem State.eqWrite_agenda (s : State) (d : Nat) (e : List Byte) : (s.eqWrite d e).agenda = s.agenda := by
  unfold State.eqWrite
  dsimp only
  rw [State.modVd_agenda]
  split <;> exact State.putRaws_agenda ..

@[simp] theorem State.eqAppend_agenda (s : State) (d : Nat) (e : List Byte) : (s.eqAppend d e).agenda = s.agenda := by
  unfold State.eqAppend
  dsimp only
  split <;> simp

@[simp] theorem State.pfAppend_agenda (s : State) (e : List Byte) : (s.pfAppend e).agenda = s.agenda := by
  unfold State.pfAppend
  dsimp only
  split
  · rfl
  · split
    · dsimp only [State.agenda]
      split <;> exact State.putRaws_agenda ..
    · rfl

@[simp] theorem State.report_agenda (s : State) (g w : Nat) (c : Byte) (a : Addr) : (s.report g w c a).agenda = s.agenda := by
  simp [State.report]

@[simp] theorem State.decDep_agenda (s : State) (die idx : Nat) : (s.decDep die idx).agenda = s.agenda := by
  unfold State.decDep
  dsimp only
  split <;> rfl

@[simp] theorem State.readyTask_agenda (s : State) (t : Task) : (s.readyTask t).agenda = s.agenda := rfl
@[simp] theorem State.freeTask_agenda (s : State) (t : Task) : (s.freeTask t).agenda = s.agenda := rfl

@[simp] theorem State.finishTask_agenda (s : State) (t : Task) : (s.finishTask t).agenda = s.agenda := by
  unfold State.finishTask
  rw [State.freeTask_agenda]
  exact foldl_agenda (fun u i => u.decDep_agenda t.die i) t.succ s

@[simp] theorem State.endTasks_agenda (s : State) (w : Nat) : (s.endTasks w).agenda = s.agenda := by
  unfold State.endTasks
  split
  · rfl
  · exact foldl_agenda (fun u (t : Task) => u.finishTask_agenda (u.task t.die t.idx)) _ s

@[simp] theorem State.dropPrivate_agenda (s : State) (w : Nat) : (s.dropPrivate w).agenda = s.agenda := by
  simp [agenda_eq_iff, State.dropPrivate]

@[simp] theorem State.dropViews_agenda (s : State) (w : Nat) : (s.dropViews w).agenda = s.agenda := by
  simp [agenda_eq_iff, State.dropViews]

@[simp] theorem State.closeByRole_agenda (s : State) (g r : Nat) : (s.closeByRole g r).agenda = s.agenda := by
  unfold State.closeByRole
  dsimp only
  split <;> rfl

@[simp] theorem State.endWave_agenda (s : State) (w : Nat) : (s.endWave w).agenda = s.agenda := by
  unfold State.endWave
  dsimp only
  split
  · rfl
  · rw [State.closeByRole_agenda, State.dropViews_agenda, State.dropPrivate_agenda, State.endTasks_agenda]
    rfl

@[simp] theorem State.askPreempt_agenda (s : State) (g : Nat) : (s.askPreempt g).agenda = s.agenda :=
  foldl_agenda (fun u w => u.modWave_agenda w _) _ (s.modGang g _)

@[simp] theorem State.release_agenda (s : State) (d : Nat) (n : DWord) : (s.release d n).agenda = s.agenda := by
  unfold State.release
  split <;> rfl

@[simp] theorem State.ovfFree_agenda (s : State) (g : Nat) (drop : Bool) : (s.ovfFree g drop).agenda = s.agenda := by
  unfold State.ovfFree
  dsimp only
  split
  · rfl
  · rw [foldl_agenda State.askPreempt_agenda]
    split
    · exact foldl_agenda (fun u (e : OvfEnt) => u.release_agenda _ e.name) _ _
    · rfl

@[simp] theorem State.shorten_agenda (s : State) (g : Nat) : (s.shorten g).agenda = s.agenda := by
  unfold State.shorten
  dsimp only
  split <;> rfl

@[simp] theorem State.killGang_agenda (s : State) (g : Nat) (c : Byte) (a : Addr) (e : DWord) :
    (s.killGang g c a e).agenda = s.agenda := by
  unfold State.killGang
  dsimp only
  split
  · rfl
  · rw [State.eqAppend_agenda, State.modGang_agenda, State.shorten_agenda]
    split
    · rw [State.modGang_agenda, State.ovfFree_agenda, State.modLaunch_agenda]
      exact foldl_agenda State.endWave_agenda _ s
    · rw [State.modLaunch_agenda]
      exact foldl_agenda State.endWave_agenda _ s

/-! ## A trap does not make its unit wait -/

@[simp] theorem State.modS_agenda (s : State) (r : Nat) (f : SReg → SReg) : (s.modS r f).agenda = s.agenda := by
  simp [agenda_eq_iff]

@[simp] theorem State.unelect_agenda (s : State) : s.unelect.agenda = s.agenda := by
  unfold State.unelect
  split <;> simp

@[simp] theorem State.drops_agenda (s : State) (a b : Nat) : (s.drops a b).agenda = s.agenda := by
  unfold State.drops
  split <;> rfl

@[simp] theorem State.refused_agenda (s : State) (t : Trap) : (s.refused t).agenda = s.agenda := by
  unfold State.refused
  dsimp only
  split
  · rfl
  · split <;> simp

/-- What issuing leaves of the agenda: what the unit has opened or elected is over. -/
theorem State.issued_agenda (s : State) : s.issued.agenda =
    (s.inputs, s.evTurn, { s.cur with opened := false, pfx := none, elect := none, undo := none }) := rfl

/-- A trap issues its unit, and does nothing else to the agenda. -/
theorem State.takeTrap_agenda (s : State) (t : Trap) : (s.takeTrap t).agenda = s.unelect.issued.agenda := by
  unfold State.takeTrap
  dsimp only
  split
  · simp
  · split <;> simp

/-- A unit that traps waits afterwards only if it did before. -/
theorem State.takeTrap_stalled (s : State) (t : Trap) : (s.takeTrap t).cur.stalled = s.cur.stalled := by
  have htrap : (s.takeTrap t).cur = s.unelect.issued.cur := (agenda_eq_iff.mp (s.takeTrap_agenda t)).2.2
  have hun : s.unelect.cur = s.cur := (agenda_eq_iff.mp s.unelect_agenda).2.2
  rw [htrap, ← hun]
  rfl

/-! ## The passing of time keeps the agenda -/

@[simp] theorem State.holdDogs_agenda (s : State) (n : Nat) : (s.holdDogs n).agenda = s.agenda := by
  unfold State.holdDogs
  split <;> rfl

@[simp] theorem State.sweep_agenda (s : State) (p : Copy → Bool) : (s.sweep p).agenda = s.agenda :=
  foldl_agenda (fun u (c : Copy) => u.dropCopy_agenda c.holder c.line) _ s

@[simp] theorem State.announce_agenda (s : State) (i : Nat) : (s.announce i).agenda = s.agenda := rfl

@[simp] theorem State.putHome64_agenda (s : State) (l : Loc) (v : Nat) : (s.putHome64 l v).agenda = s.agenda := by
  simp [State.putHome64]

@[simp] theorem State.ringPut_agenda (s : State) (r : Loc × Loc × Nat) (arg : DWord) :
    (s.ringPut r arg).agenda = s.agenda := by
  simp [State.ringPut]

@[simp] theorem State.newTask_agenda (s : State) (die idx typ launch n : Nat) (xyz : DWord) (role : Option Nat) :
    (s.newTask die idx typ launch n xyz role).agenda = s.agenda := by
  unfold State.newTask
  dsimp only
  split <;> rfl

@[simp] theorem State.tableAction_agenda (s : State) (d act : Nat) (arg : DWord) (launch die : Nat) (op : Option Nat) :
    (s.tableAction d act arg launch die op).agenda = s.agenda := by
  unfold State.tableAction
  dsimp only
  split
  · split
    · rfl
    · split <;> simp
  · split
    · split
      · split <;> simp
      · simp
    · rfl
  · rfl

@[simp] theorem State.reclaim_agenda (s : State) (d : Nat) (a : Reclaim) (op : Option Nat) :
    (s.reclaim d a op).agenda = s.agenda := by
  cases a <;> simp [State.reclaim]

@[simp] theorem State.recheck_agenda (s : State) (d : Nat) (b : Option Nat) : (s.recheck d b).agenda = s.agenda := by
  refine foldl_agenda (fun u e => ?_) (s.vd d).deferred s
  split <;> simp

/-- The periodic work of R178, R321 and R388 keeps the agenda. -/
theorem State.pass_agenda (s : State) (n : Nat) : (s.pass n).agenda = s.agenda := by
  have hdogs : (({ s with time := s.time + n } : State).holdDogs n).agenda = s.agenda := State.holdDogs_agenda ..
  have hsweep (b : Bool) (u : State) (h : u.agenda = s.agenda) :
      (if b then u.sweep fun _ => true else u).agenda = s.agenda := by
    split <;> simp [h]
  have hdrop (u : State) (h : u.agenda = s.agenda) :
      (u.copies.foldl (fun s c => s.dropCopy c.holder c.line) u).agenda = s.agenda :=
    (foldl_agenda (fun v (c : Copy) => v.dropCopy_agenda c.holder c.line) _ u).trans h
  unfold State.pass
  dsimp only
  split
  · exact hsweep _ _ hdogs
  · refine (foldl_agenda (fun u p => ?_) _ _).trans ?_
    · split <;> simp
    · split
      · refine (foldl_agenda (fun u d => ?_) _ _).trans ?_
        · split <;> simp
        · split
          · exact hdrop _ hdogs
          · exact hsweep _ _ hdogs
      · split
        · exact hdrop _ hdogs
        · exact hsweep _ _ hdogs

theorem State.tickTime_agenda (s : State) : s.tickTime.agenda = s.agenda :=
  State.pass_agenda { s with pace := s.pace.tail } _

@[simp] theorem State.tickTime_inputs (s : State) : s.tickTime.inputs = s.inputs := (agenda_eq_iff.mp s.tickTime_agenda).1
@[simp] theorem State.tickTime_evTurn (s : State) : s.tickTime.evTurn = s.evTurn :=
  (agenda_eq_iff.mp s.tickTime_agenda).2.1

/-! ## The unit that a step runs -/

/-- What the cursor says once the bytes are fetched: they stand in `code`, and the next instruction after them (R47). -/
theorem fetchCur_of_fetch {s t : State} {bs : List Byte} (h : s.fetch s.cur.wave s.cg.vd s.cur.pc = .ok (bs, t)) :
    s.fetchCur = .ok (bs, { t with cur := { t.cur with
      nxt := t.cur.pc + BitVec.ofNat 64 bs.length, opened := false, code := bs } }) := by
  simp only [State.fetchCur, h]

/-- Bytes that hold no instruction raise ILL (R51, R59). -/
theorem runUnit_undecoded {s t : State} {bs : List Byte} (n : Nat) (h : s.fetchCur = .ok (bs, t))
    (d : decode bs = none) : s.runUnit (n + 1) = .next (t.takeTrap ⟨cILL, 0, 0, false⟩) := by
  simp only [State.runUnit, h, d]

/-- A unit that runs to its end without a wait issues, where neither dmt nor an injected fault comes before it. -/
theorem issue?_of_runUnit {s t : State} {w f : Nat} (hbr : s.breaks w f = false) (hinj : (s.wave w).inject = none)
    (hrun : (s.aim w f).runUnit 4 = .next t) (hgo : t.cur.stalled = false) :
    s.issue? (w, f) = some (.next (s.after t w f)) := by
  simp [State.issue?, hbr, hinj, hrun, hgo]

/-- The first unit in order is the one that issues, if it can. -/
theorem unit?_of_head {s : State} {us : List (Nat × Nat)} {u : Nat × Nat} {o : Host.Outcome State Fault Refusal}
    (hu : us.head? = some u) (ho : s.issue? u = some o) : s.unit? us = some o := by
  obtain ⟨vs, rfl⟩ := List.head?_eq_some_iff.mp hu
  simp [State.unit?, ho]

open Sys2Proof.Claims in
/-- The step of a machine whose next unit runs to its end without a wait (R38, R269). -/
theorem step_of_runUnit {s t : State} {w f : Nat} (hnext : unitNext s w f)
    (hrun : ((turned s).aim w f).runUnit 4 = .next t) (hgo : t.cur.stalled = false) :
    step s = .next (kept ((turned s).after t w f)) := by
  obtain ⟨hin, hev, hord, hbr, hinj⟩ := hnext
  have hunit : (turned s).unit? s.tickTime.order = some (.next ((turned s).after t w f)) :=
    unit?_of_head hord (issue?_of_runUnit hbr hinj hrun hgo)
  have hstep : step s = settled (((turned s).unit? s.tickTime.order).getD (.next ((turned s).event?.getD (turned s)))) := by
    simp only [step, State.tickTime_inputs, State.tickTime_evTurn, hin, hev, turned, Bool.false_eq_true, if_false]
  rw [hstep, hunit]
  rfl

/-! ## The halfword 0x0000 -/

/-- R51: the fields of the halfword are those of C.MOV v0, v0, which is not well formed. -/
theorem decode_zero_halfword (bs : List Byte) : decode (0 :: 0 :: bs) = none := by
  have hlen : lengthOf 0 = 2 := rfl
  have hmov : decodeHalf (natOf [0, 0]) = some (.cMov ⟨0, 0⟩) := rfl
  have hwf : Instr.wf (.cMov ⟨0, 0⟩) = false := rfl
  simp only [decode, hlen, if_true, List.take_succ_cons, List.take_zero, hmov, Option.filter_some, hwf,
    Bool.false_eq_true, if_false]

open Sys2Proof.Claims in
/-- Settles O60: the two zero bytes read as C.MOV v0, v0, which is not well formed, so the unit that fetches them takes ILL;
neither the fetch nor the trap makes it wait, so the step issues it. -/
theorem zeroHalfword : Obligations.ZeroHalfword := by
  unfold Obligations.ZeroHalfword
  refine ⟨decode_zero_halfword, fun s u w f hnext => ?_⟩
  intro a hfetch v
  have hrun : a.runUnit 4 = .next (v.takeTrap ⟨cILL, 0, 0, false⟩) :=
    runUnit_undecoded 3 (fetchCur_of_fetch hfetch) (decode_zero_halfword [])
  have hgo : (v.takeTrap ⟨cILL, 0, 0, false⟩).cur.stalled = false := by
    have hu : u.cur = a.cur := (agenda_eq_iff.mp (fetch_agenda hfetch)).2.2
    rw [State.takeTrap_stalled]
    exact congrArg Cursor.stalled hu
  exact step_of_runUnit hnext hrun hgo

end Sys2Proof.Machine
end

section
/-! Pins: the deferred-reclaim list (R320) and PINRD (R327), and what they need: a byte of a name as a field, a device
and a wave after an update, the check of a scalar register, and that the end of a unit keeps the wave's open commit. -/
namespace Sys2Proof.Machine

/-! ## The bucket of a name -/

/-- A field of a name is the part of its bits there. -/
theorem field_toNat (n : DWord) (lo len : Nat) : field n.toNat lo len = (n.extractLsb' lo len).toNat := by
  rw [field, BitVec.extractLsb'_toNat, Nat.shiftRight_eq_div_pow]

/-- The exclusive or of a name's eight bytes (R320). -/
def nameXor (n : DWord) : Byte :=
  n.extractLsb' 0 8 ^^^ n.extractLsb' 8 8 ^^^ n.extractLsb' 16 8 ^^^ n.extractLsb' 24 8 ^^^ n.extractLsb' 32 8 ^^^
    n.extractLsb' 40 8 ^^^ n.extractLsb' 48 8 ^^^ n.extractLsb' 56 8

theorem bucketOf_eq_nameXor (n : DWord) : bucketOf n = (nameXor n).toNat := by
  have hbytes : List.range 8 = [0, 1, 2, 3, 4, 5, 6, 7] := rfl
  simp only [bucketOf, nameXor, hbytes, List.foldl_cons, List.foldl_nil, field_toNat, BitVec.toNat_xor, Nat.zero_xor,
    Nat.reduceMul]

/-- There are 256 buckets (R320). -/
theorem bucketOf_lt (n : DWord) : bucketOf n < 256 :=
  bucketOf_eq_nameXor n ▸ (nameXor n).isLt

/-! ## A reclaim request on a pinned name -/

/-- The device holds what was put there. -/
theorem vd_modVd {s : State} {d : Nat} (f : Vd → Vd) (h : d < s.vds.length) : (s.modVd d f).vd d = f (s.vd d) := by
  simp [State.vd, State.modVd, List.getD_eq_getElem?_getD, h]

/-- The entries of the deferred list in the bucket of a name, as `State.request` counts them (R320). -/
def Vd.bucket (v : Vd) (n : DWord) : List Deferred := v.deferred.filter fun e => bucketOf e.name == bucketOf n

/-- On a pinned name the bucket's room alone decides: the request is queued, or refused with nothing changed (R320). -/
theorem request_of_pinned {s : State} {d : Nat} {n : DWord} (a : Reclaim) (h : s.pinned d n = true) :
    s.request d n a = if ((s.vd d).bucket n).length < 16
      then (.deferred, s.modVd d fun v => { v with deferred := v.deferred ++ [⟨n, a⟩] }) else (.full, s) := by
  simp only [State.request, h, Bool.not_true, Bool.false_eq_true, if_false]
  rfl

/-- Settles O59: the bucket is the exclusive or of the name's bytes, and the request looks at that bucket's length alone. -/
theorem deferredList : Obligations.DeferredList := by
  unfold Obligations.DeferredList
  refine ⟨fun n => ⟨bucketOf_lt n, bucketOf_eq_nameXor n⟩, fun s d n a hpin hd => ?_⟩
  have hreq := request_of_pinned a hpin
  refine ⟨fun hroom => ?_, fun hfull => hreq.trans (if_neg (Nat.not_lt.mpr hfull))⟩
  rw [hreq.trans (if_pos hroom)]
  exact ⟨rfl, congrArg Vd.deferred (vd_modVd _ hd)⟩

/-! ## The check of a scalar register -/

open Sys2Proof.Claims in
/-- A unit that may name the register passes the check (R350). -/
theorem checkS_of_sOk {s : State} {r : Nat} (h : sOk s r = true) : s.checkS r = .ok () := need_eq_ok.mpr h

open Sys2Proof.Claims in
/-- A unit that may not name the register takes ILL (R350). -/
theorem checkS_of_not_sOk {s : State} {r : Nat} (h : sOk s r = false) :
    s.checkS r = .error (.trap s ⟨cILL, 0, 0, false⟩) := by
  have hneed : s.checkS r = need (sOk s r) s cILL := rfl
  rw [hneed, h, need_false]

/-! ## What the end of a unit leaves of the wave -/

/-- What an update keeps of every wave, it keeps of each wave of the state. -/
theorem wave_modWave_keeps {α : Type} {p : Wave → α} {f : Wave → Wave} (hf : ∀ w, p (f w) = p w) (s : State) (w v : Nat) :
    p ((s.modWave w f).wave v) = p (s.wave v) := by
  by_cases e : v = w
  · subst e
    cases hx : s.waves[v]? <;> simp [State.wave, State.modWave, List.getD_eq_getElem?_getD, hx, hf]
  · rw [wave_modWave_ne f e]

/-- The unit's wave keeps its open commit through an update that does not touch it (R43). -/
theorem modCw_commit {f : Wave → Wave} (hf : ∀ w, (f w).commit = w.commit) (s : State) :
    (s.modCw f).cw.commit = s.cw.commit :=
  wave_modWave_keeps (p := Wave.commit) hf s s.cur.wave s.cur.wave

@[simp] theorem State.modCf_commit (s : State) (f : Frag → Frag) : (s.modCf f).cw.commit = s.cw.commit :=
  modCw_commit (f := fun w => w.modFrag s.cur.frag f) (fun _ => rfl) s

@[simp] theorem State.modS_commit (s : State) (r : Nat) (f : SReg → SReg) : (s.modS r f).cw.commit = s.cw.commit := by
  unfold State.modS
  split
  · rfl
  · split
    · exact modCw_commit (fun _ => by rfl) s
    · exact s.modCf_commit _

@[simp] theorem State.writeS_commit (s : State) (r : Nat) (v : DWord) (t : Byte) :
    (s.writeS r v t).cw.commit = s.cw.commit := s.modS_commit r _

@[simp] theorem State.setPc_commit (s : State) (pc : DWord) : (s.setPc pc).cw.commit = s.cw.commit := by
  unfold State.setPc
  split
  · exact modCw_commit (fun _ => by rfl) s
  · exact s.modCf_commit _

@[simp] theorem State.issued_commit (s : State) : s.issued.cw.commit = s.cw.commit := by
  unfold State.issued
  exact modCw_commit (fun _ => by rfl) _

@[simp] theorem State.done_commit (s : State) : s.done.cw.commit = s.cw.commit :=
  (State.issued_commit _).trans (s.setPc_commit _)

/-! ## PINRD -/

theorem exec_pinrd (n d : BitVec 6) (s : State) : exec (.pinrd n d) s = execPinrd n d s := rfl

/-- Settles O56: the check of s[sd] is PINRD's only one, and no step of it reads or changes what is in flight; s0 keeps
reading 0 because a write of it is discarded (`writeS_zero`). -/
theorem pinReads : Obligations.PinReads := by
  unfold Obligations.PinReads
  refine ⟨fun s n d hok => ⟨_, ?_, rfl, ?_, ?_, ?_⟩, fun s n d hill => ?_⟩
  · rw [exec_pinrd, execPinrd, checkS_of_sOk hok]
    rfl
  · rw [State.done_flight, State.writeS_flight]
  · rw [State.done_mem, State.writeS_mem]
  · rw [State.done_commit, State.writeS_commit]
  · rw [exec_pinrd, execPinrd, checkS_of_not_sOk hill]
    rfl

end Sys2Proof.Machine
end

section
/-! Random streams: VRADV (R347) and SETRNG (R348), and what they need: the counter after each as its parts, the reading of
a scalar that is FULL or POISON, that the writing of a scalar and the end of a unit keep the wave's stream, and where
the two instructions stand in the opcode map. -/
namespace Sys2Proof.Machine

/-! ## The parts of the counter -/

/-- A field of a register of any width is the part of its bits there. -/
theorem field_eq_extractLsb' {n : Nat} (x : BitVec n) (lo len : Nat) :
    field x.toNat lo len = (x.extractLsb' lo len).toNat := by
  rw [field, BitVec.extractLsb'_toNat, Nat.shiftRight_eq_div_pow]

/-- The number of two parts put side by side. -/
theorem toNat_append_eq_add {m n : Nat} (x : BitVec m) (y : BitVec n) :
    (x ++ y).toNat = x.toNat * 2 ^ n + y.toNat := by
  rw [BitVec.toNat_append, ← Nat.shiftLeft_add_eq_or_of_lt y.isLt, Nat.shiftLeft_eq]

/-- STREAM, POSITION and DRAW = 0 side by side, as a number (R345, R347). -/
theorem counter_eq_append (stream : Word) {p : Nat} (hp : p < 2 ^ 40) :
    BitVec.ofNat 96 (stream.toNat * 2 ^ 64 + p * 2 ^ 24) = stream ++ BitVec.ofNat 40 p ++ 0#24 := by
  apply BitVec.eq_of_toNat_eq
  have hs := stream.isLt
  rw [toNat_append_eq_add, toNat_append_eq_add]
  simp only [BitVec.toNat_ofNat]
  omega

/-- VRADV puts a sum below 2^40 in POSITION and 0 in DRAW, and leaves STREAM (R347). -/
theorem advance_of_lt {ctr : BitVec 96} {v : DWord} (h : (ctr.extractLsb' 24 40).toNat + v.toNat < 2 ^ 40) :
    advance ctr v =
      (ctr.extractLsb' 64 32 ++ BitVec.ofNat 40 ((ctr.extractLsb' 24 40).toNat + v.toNat) ++ 0#24, false) := by
  rw [← counter_eq_append _ h]
  simp only [advance, field_eq_extractLsb', h, if_true, decide_true, Bool.not_true]

/-- VRADV cuts any other sum off at 2^40 − 1, and marks it (R347). -/
theorem advance_of_not_lt {ctr : BitVec 96} {v : DWord} (h : ¬ (ctr.extractLsb' 24 40).toNat + v.toNat < 2 ^ 40) :
    advance ctr v = (ctr.extractLsb' 64 32 ++ BitVec.ofNat 40 (2 ^ 40 - 1) ++ 0#24, true) := by
  rw [← counter_eq_append _ (by decide)]
  simp only [advance, field_eq_extractLsb', h, if_false, decide_false, Bool.not_false]

/-- SETRNG's new counter: the low word of the source as STREAM, POSITION and DRAW as they were (R348). -/
theorem streamSet_eq (ctr : BitVec 96) (v : DWord) :
    BitVec.ofNat 96 (ctr.toNat % 2 ^ 64 + v.toNat % 2 ^ 32 * 2 ^ 64) = v.extractLsb' 0 32 ++ ctr.extractLsb' 0 64 := by
  apply BitVec.eq_of_toNat_eq
  rw [toNat_append_eq_add]
  simp only [BitVec.toNat_ofNat, BitVec.extractLsb'_toNat, Nat.shiftRight_zero]
  omega

/-- STREAM as SETRNG returns it: its bits, zero-extended (R348). -/
theorem stream_setWidth (ctr : BitVec 96) :
    BitVec.ofNat 64 (field ctr.toNat 64 32) = (ctr.extractLsb' 64 32).setWidth 64 := by
  rw [field_eq_extractLsb', BitVec.ofNat_toNat]

/-! ## Reading a scalar -/

open Sys2Proof.Claims in
/-- A source that may be named and is FULL is read as it stands (R93). -/
theorem readS_of_sReady {s : State} {r : Nat} (h : sReady s [r] = true) : s.readS r = .ok (s.sreg r) := by
  simp only [sReady, sOk, sFull, List.all_cons, List.all_nil, Bool.and_true, Bool.and_eq_true, beq_iff_eq] at h
  obtain ⟨hnamed, hfull⟩ := h
  exact readS_eq_ok.mpr ⟨hnamed, hfull, rfl⟩

open Sys2Proof.Claims in
/-- A POISON source faults with the register as TRAPA, 64 above its number (R93). -/
theorem readS_of_poison {s : State} {r : Nat} (h : sOk s r = true) (e : (s.sreg r).st = .poison) :
    s.readS r = .error (.trap s ⟨cPOISON, BitVec.ofNat 72 (64 + r), 0, false⟩) := by
  rw [State.readS, checkS_of_sOk h]
  simp [bind, Except.bind, e, fault]

/-! ## What keeps the wave's stream -/

/-- The key and the counter of the unit's wave. -/
def State.rng (s : State) : DWord × BitVec 96 := (s.cw.rngk, s.cw.rngc)

theorem modCw_rng {f : Wave → Wave} (hf : ∀ w, ((f w).rngk, (f w).rngc) = (w.rngk, w.rngc)) (s : State) :
    (s.modCw f).rng = s.rng :=
  wave_modWave_keeps (p := fun w => (w.rngk, w.rngc)) hf s s.cur.wave s.cur.wave

@[simp] theorem State.modCf_rng (s : State) (f : Frag → Frag) : (s.modCf f).rng = s.rng :=
  modCw_rng (f := fun w => w.modFrag s.cur.frag f) (fun _ => rfl) s

@[simp] theorem State.modS_rng (s : State) (r : Nat) (f : SReg → SReg) : (s.modS r f).rng = s.rng := by
  unfold State.modS
  split
  · rfl
  · split
    · exact modCw_rng (fun _ => by rfl) s
    · exact s.modCf_rng _

@[simp] theorem State.writeS_rng (s : State) (r : Nat) (v : DWord) (t : Byte) : (s.writeS r v t).rng = s.rng :=
  s.modS_rng r _

@[simp] theorem State.setPc_rng (s : State) (pc : DWord) : (s.setPc pc).rng = s.rng := by
  unfold State.setPc
  split
  · exact modCw_rng (fun _ => by rfl) s
  · exact s.modCf_rng _

@[simp] theorem State.issued_rng (s : State) : s.issued.rng = s.rng := by
  unfold State.issued
  exact modCw_rng (fun _ => by rfl) _

@[simp] theorem State.done_rng (s : State) : s.done.rng = s.rng :=
  (State.issued_rng _).trans (s.setPc_rng _)

@[simp] theorem State.modS_waves_length (s : State) (r : Nat) (f : SReg → SReg) :
    (s.modS r f).waves.length = s.waves.length := by
  unfold State.modS
  split
  · rfl
  · split <;> simp only [State.modCf, State.modCw_waves, List.length_modify]

@[simp] theorem State.writeS_waves_length (s : State) (r : Nat) (v : DWord) (t : Byte) :
    (s.writeS r v t).waves.length = s.waves.length := s.modS_waves_length r _

/-! ## Where VRADV and SETRNG stand in the opcode map -/

/-- No compact form is read as anything but a compact instruction (R50). -/
theorem decodeHalf_compact {w : Nat} {i : Instr} (h : decodeHalf w = some i) : i.compact = true := by
  unfold decodeHalf at h
  split at h <;> cases h <;> rfl

/-- The bytes of a number bound it (R1). -/
theorem natOf_lt (bs : List Byte) : natOf bs < 256 ^ bs.length := by
  induction bs with
  | nil => simp [natOf]
  | cons b bs ih =>
    have hb := b.isLt
    simp only [natOf, List.length_cons, Nat.pow_succ]
    omega

/-- What is no compact instruction is read from a word of 32 bits whose bit 0 is 1 (R47). -/
theorem decodeWord_of_decode {b : Byte} {bs : List Byte} {i : Instr} (h : decode (b :: bs) = some i)
    (hi : i.compact = false) :
    decodeWord (natOf ((b :: bs).take 4)) = some i ∧ natOf ((b :: bs).take 4) % 2 = 1 ∧
      natOf ((b :: bs).take 4) < 2 ^ 32 := by
  have hread := (Option.filter_eq_some_iff.mp h).1
  by_cases hb : b.toNat % 2 = 0
  · have hlen : lengthOf b = 2 := if_pos hb
    rw [if_pos hlen] at hread
    rw [decodeHalf_compact hread] at hi
    cases hi
  · have hlen : lengthOf b = 4 := if_neg hb
    rw [hlen, if_neg (by decide)] at hread
    refine ⟨hread, ?_, ?_⟩
    · simp only [List.take_succ_cons, natOf]
      omega
    · calc natOf ((b :: bs).take 4) < 256 ^ ((b :: bs).take 4).length := natOf_lt _
        _ ≤ 256 ^ 4 := Nat.pow_le_pow_right (by decide) (List.length_take_le _ _)
        _ = 2 ^ 32 := by decide

/-- An entry of a major's table gives its instruction where its condition holds, and hands on where it does not (R59). -/
theorem entry_eq_some {c : Prop} [Decidable c] {i j : Instr} {o : Option Instr} :
    (if c then some i else o) = some j ↔ c ∧ i = j ∨ ¬ c ∧ o = some j := by
  by_cases hc : c
  · rw [if_pos hc]
    simp only [Option.some.injEq, hc, true_and, not_true, false_and, or_false]
  · rw [if_neg hc]
    simp only [hc, false_and, not_false_eq_true, true_and, false_or]

/-- VRADV and SETRNG stand under the majors 0x14 and 0x37, and under no other (R70, R347, R348): every entry of another
major builds an instruction of another constructor. -/
theorem decodeWord_stream {w : Nat} {i : Instr} (h : decodeWord w = some i)
    (hi : (∃ sa, i = .vradv sa) ∨ ∃ a d, i = .setrng a d) :
    field w 1 6 = 0x14 ∧ decode14 w = some i ∨ field w 1 6 = 0x37 ∧ decode37 w = some i := by
  unfold decodeWord at h
  split at h <;> rename_i hm
  case h_20 => exact .inl ⟨hm, h⟩
  case h_55 => exact .inr ⟨hm, h⟩
  all_goals
    obtain ⟨sa, rfl⟩ | ⟨a, d, rfl⟩ := hi <;>
    simp only [decode01, decode02, decode03, decode04, decode05, decode06, decode07, decode08, decode09, decode0A,
      decode0B, decode0C, decode0D, decode0E, decode0F, decode10, decode11, decode12, decode13, decode15, decode16,
      decode17, decode18, decode19, decode1A, decode1B, decode1C, decode1D, decode1E, decode1F, decode20, decode21,
      decode22, decode23, decode24, decode25, decode26, decode27, decode28, decode29, decode2A, decode2B, decode2C,
      decode2D, decode2E, decode2F, decode30, decode31, decode32, decode33, decode34, decode35, decode36, decode38,
      decode39, decode3A, decode3B, decode3C, decode3F, entry_eq_some, reduceCtorEq, and_false, or_false] at h

/-- The fields of VRADV (R347). -/
theorem decodeWord_vradv {w : Nat} {sa : BitVec 6} (h : decodeWord w = some (.vradv sa)) :
    field w 1 6 = 0x14 ∧ field w 7 8 = 3 ∧ field w 21 11 = 0 ∧ sa.toNat = field w 15 6 := by
  rcases decodeWord_stream h (.inl ⟨sa, rfl⟩) with ⟨hm, h14⟩ | ⟨-, h37⟩
  · simp only [decode14, entry_eq_some, reduceCtorEq, Instr.vradv.injEq, and_false, or_false, false_or] at h14
    obtain ⟨-, -, -, ⟨hsub, hzero⟩, rfl⟩ := h14
    exact ⟨hm, hsub, hzero, rfl⟩
  · simp only [decode37, entry_eq_some, reduceCtorEq, and_false, or_false] at h37

/-- The fields of SETRNG (R348). -/
theorem decodeWord_setrng {w : Nat} {a d : BitVec 6} (h : decodeWord w = some (.setrng a d)) :
    field w 1 6 = 0x37 ∧ field w 7 6 = 6 ∧ field w 25 7 = 0 ∧ a.toNat = field w 19 6 ∧ d.toNat = field w 13 6 := by
  rcases decodeWord_stream h (.inr ⟨a, d, rfl⟩) with ⟨-, h14⟩ | ⟨hm, h37⟩
  · simp only [decode14, entry_eq_some, reduceCtorEq, and_false, or_false] at h14
  · simp only [decode37, entry_eq_some, reduceCtorEq, Instr.setrng.injEq, and_false, or_false, false_or] at h37
    obtain ⟨-, -, -, -, -, -, ⟨hsub, hzero⟩, rfl, rfl⟩ := h37
    exact ⟨hm, hsub, hzero, rfl, rfl⟩

/-! ## VRADV -/

theorem exec_vradv (sa : BitVec 6) (s : State) : exec (.vradv sa) s = execVradv sa s := rfl

/-- The word of VRADV has nothing but its opcode and s[sa] (R347). -/
theorem word_of_vradv {b : Byte} {bs : List Byte} {sa : BitVec 6} (h : decode (b :: bs) = some (.vradv sa)) :
    natOf ((b :: bs).take 4) = 0x14 * 2 + 1 + 3 * 2 ^ 7 + sa.toNat * 2 ^ 15 := by
  obtain ⟨hword, hodd, hlt⟩ := decodeWord_of_decode h rfl
  obtain ⟨hmajor, hsub, hzero, hsa⟩ := decodeWord_vradv hword
  simp only [field] at hmajor hsub hzero hsa
  omega

/-- VRADV of a FULL source completes with the counter that `advance` gives (R347). -/
theorem exec_vradv_of_sReady {s : State} {sa : BitVec 6} (h : Sys2Proof.Claims.sReady s [sa.toNat] = true) {c : BitVec 96}
    {b : Bool} (hadv : advance s.cw.rngc (s.sreg sa.toNat).val = (c, b)) :
    exec (.vradv sa) s =
      .next (s.modCw fun w => { w with rngc := c, stat := if b then w.stat ||| statRNGSAT else w.stat }).done := by
  rw [exec_vradv, execVradv, readS_of_sReady h]
  simp only [bind, Except.bind, hadv, finishDone_ok]

open Sys2Proof.Claims in
/-- Settles O57: VRADV reads s[sa], and does nothing before it has; the sum is put in POSITION or cut off, and the opcode
map fixes every bit of the word but those of sa. -/
theorem positionAdvances : Obligations.PositionAdvances := by
  unfold Obligations.PositionAdvances
  refine ⟨fun s sa hready => ?_, fun s sa hok => ⟨fun hempty => ?_, fun hpoison => ?_⟩,
    fun b bs sa _ h => word_of_vradv h⟩
  · intro p
    by_cases h : p < 2 ^ 40
    · have hkeeps : ¬ 2 ^ 40 - 1 < p := by omega
      rw [exec_vradv_of_sReady hready (advance_of_lt h)]
      simp only [if_neg hkeeps]
      rfl
    · have hcut : 2 ^ 40 - 1 < p := by omega
      rw [exec_vradv_of_sReady hready (advance_of_not_lt h)]
      simp only [if_pos hcut]
      rfl
  · rw [exec_vradv, execVradv, readS_empty hok hempty]
    rfl
  · have haddr : BitVec.ofNat 72 (64 + sa.toNat) = 64 + sa.setWidth 72 := by
      rw [BitVec.ofNat_add, BitVec.ofNat_toNat]
      rfl
    rw [exec_vradv, execVradv, readS_of_poison hok hpoison, haddr]
    rfl

/-! ## SETRNG -/

theorem exec_setrng (a d : BitVec 6) (s : State) : exec (.setrng a d) s = execSetrng a d s := rfl

/-- The word of SETRNG has nothing but its opcode, s[sa] and s[sd] (R348). -/
theorem word_of_setrng {b : Byte} {bs : List Byte} {a d : BitVec 6} (h : decode (b :: bs) = some (.setrng a d)) :
    natOf ((b :: bs).take 4) = 0x36F + a.toNat * 2 ^ 19 + d.toNat * 2 ^ 13 := by
  obtain ⟨hword, hodd, hlt⟩ := decodeWord_of_decode h rfl
  obtain ⟨hmajor, hsub, hzero, ha, hd⟩ := decodeWord_setrng hword
  simp only [field] at hmajor hsub hzero ha hd
  omega

/-- `SETRNG s5, s6` (R348). -/
theorem decode_setrng_s5_s6 : decode (bytesOf 4 0x0030A36F) = some (.setrng 6 5) := rfl

/-- SETRNG's write of STREAM: the key stays, and so does all of the counter below STREAM (R348). -/
def State.setStream (s : State) (v : DWord) : State :=
  s.modCw fun w => { w with rngc := (v.extractLsb' 0 32 ++ w.rngc.extractLsb' 0 64 : BitVec 96) }

theorem State.setStream_rng {s : State} (v : DWord) (h : s.cur.wave < s.waves.length) :
    (s.setStream v).rng = (s.rng.1, v.extractLsb' 0 32 ++ s.rng.2.extractLsb' 0 64) := by
  simp only [State.setStream, State.rng, cw_modCw _ h]

/-- Of what SETRNG does, only its write of STREAM touches the stream (R348). -/
theorem rng_setrng {s : State} (d : Nat) (old v : DWord) (h : s.cur.wave < s.waves.length) :
    ((s.writeS d old).setStream v).done.rng =
      (s.cw.rngk, v.extractLsb' 0 32 ++ s.cw.rngc.extractLsb' 0 64) := by
  have hu : (s.writeS d old).cur.wave < (s.writeS d old).waves.length := by
    rw [State.writeS_cur, State.writeS_waves_length]
    exact h
  rw [State.done_rng, State.setStream_rng v hu, State.writeS_rng]
  rfl

open Sys2Proof.Claims in
/-- SETRNG of a FULL source completes with the old STREAM in s[sd] and the new one in the counter (R348). -/
theorem exec_setrng_of_sReady {s : State} {a d : BitVec 6} (hd : sOk s d.toNat = true) (ha : sReady s [a.toNat] = true) :
    exec (.setrng a d) s = .next ((s.writeS d.toNat ((s.cw.rngc.extractLsb' 64 32).setWidth 64)).setStream
      (s.sreg a.toNat).val).done := by
  rw [exec_setrng, execSetrng, checkS_of_sOk hd, readS_of_sReady ha]
  simp only [bind, Except.bind, stream_setWidth, streamSet_eq, finishDone_ok]
  rfl

open Sys2Proof.Claims in
/-- Settles O58: SETRNG checks s[sd], reads s[sa], and then writes both; neither the write of s[sd] nor the end of the unit
touches the stream (`State.rng`), so STREAM alone has changed. -/
theorem streamSet : Obligations.StreamSet := by
  unfold Obligations.StreamSet
  refine ⟨fun s a d hd ha hwave => ?_, fun s a d hd ha hempty => ?_, decode_setrng_s5_s6,
    fun b bs a d _ h => word_of_setrng h⟩
  · refine ⟨_, exec_setrng_of_sReady hd ha, rfl, ?_⟩
    obtain ⟨hkey, hctr⟩ := Prod.mk.inj (rng_setrng d.toNat ((s.cw.rngc.extractLsb' 64 32).setWidth 64)
      (s.sreg a.toNat).val hwave)
    rw [hkey, hctr]
    exact ⟨rfl, BitVec.extractLsb'_append_eq_right, BitVec.extractLsb'_append_eq_left⟩
  · rw [exec_setrng, execSetrng, checkS_of_sOk hd, readS_empty ha hempty]
    rfl

end Sys2Proof.Machine
end
